-- ==== Sys2Proof/Word.lean ====
section
/-! DEFINITION. The word types of the JQ-1152 and the sparse table type every file of storage is held in. -/

namespace Sys2Proof

/-- One byte of SRAM, vault, code or host memory (R1). -/
abbrev Byte := BitVec 8

/-- One syllable, header or 32-bit register lane (R1). -/
abbrev Word32 := BitVec 32

/-- One g register, CSR or qword. -/
abbrev Word64 := BitVec 64

/-- A handle register (R206). -/
abbrev Handle := BitVec 256

/-- A 256-byte vector, latch entry or port row; byte i is bits 8i+7..8i (R229). -/
abbrev Vec := BitVec 2048

/-- Sparse storage by number: pairs in strictly rising order of their key. What an unlisted key reads as is said by the
operation that reads it (Machine/Maps.lean). -/
abbrev Table (α : Type) := List (Nat × α)

end Sys2Proof
end

