-- ==== Sys2Proof/Config.lean ====
section
/-! DEFINITION. What one JQ-1152 part, or a standard outside the manual, fixes: free values with no body, and the
numbers of the headline tables that several files share. Nothing can evaluate a free value. -/

namespace Sys2Proof.Config

/-- Cycles that a step of open latency takes, for the n-th draw (log 4): page walks, host reads, copy beats, loads. -/
opaque delay : Nat → Nat

/-- Whether the host aborts the n-th read of a translation table in its memory (R327; log 4). -/
opaque hostAborts : Nat → Bool

/-- The temperature of a tile's vault in °C that the security and health controller measures at package time n (R298; log 4). -/
opaque celsius : Nat → Nat → Int

/-- The board power in W that the security and health controller measures at package time n (R22; log 4). -/
opaque watts : Nat → Nat

/-- Whether a tile's margin, as its monitors read at package time n, is below its threshold (R490; log 4). -/
opaque marginLow : Nat → Nat → Bool

/-- Whether SR-IOV has a virtual function enabled at package time n, which PCIe configuration sets (R426; log 4). -/
opaque vfEnabled : Nat → Nat → Bool

/-- The byte that the n-th access of the host's window finds in another package, by its place in the access (R422; log 3). -/
opaque farByte : Nat → Nat → Byte

/-- Whether the other packages of a launch, by its packet, are ready to start it in a domain cycle (R335, R439; log 4). -/
opaque othersReady : Nat → Word64 → Bool

/-- The silicon stepping that IDENT bits [23:16] read (R424; log 17). -/
opaque stepping : BitVec 8

/-- The n-th 16-bit value of a die's physical noise source (R404; log 4). -/
opaque noise : Nat → BitVec 16

/-- Whether a signed image or token verifies under its SLH-DSA-SHA2-128s key (R487, R489; log 11). -/
opaque signatureValid : List Byte → Bool

/-- The layout that the translator gives an accepted Cigon form, from the Cigon section, the object's tables and the device hash: code
origin and syllables, start bits, kernel entries, variant addresses, and by Cigon instruction the start bit that stands for it in the Cigon
map (R470, R471; log 10). -/
opaque translate : List (Nat × List Byte) → BitVec 128 → Nat × List Word32 × List Nat × List Nat × List Nat × List Nat

/-- The mode of Table 5.3 under which a floating instruction of the Cigon form rounds while frm holds a reserved value (R462; log 56). -/
opaque reservedMode : BitVec 3 → Nat

/-- The vl that a vset instruction takes for an AVL between VLMAX and twice VLMAX, above half of it (R461; log 57). -/
opaque vlBetween : Nat → Nat

/-- Whether a vector instruction with inputs of that number writes ones to an agnostic element (R461; log 57). -/
opaque agnosticOnes : Nat → Nat → Bool

/-- The k-th choice of the order in which an unordered sum of a vector with inputs of that number combines its terms (R461; log 57). -/
opaque sumOrder : Nat → Nat → Nat

/-- The contents, beyond what the manual gives, of the n-th SPDM reply (R488; log 11). -/
opaque spdmBody : Nat → List Byte

/-- Whether a debug authorisation names the device's identity-key hash and the controller's nonce of that number (R489; log 11). -/
opaque tokenNames : List Byte → Nat → Bool

/-- The measurement of what the package holds beside the firmware image, by index (Table 21.4; log 11): of what is listed. -/
opaque measured : Nat → List Nat → List Byte

/-- Why the boot ROM refused an image, as the recovery window tells it (R487; log 11). -/
opaque bootReason : List Byte → Word64

/-- The n-th free value of a byte of the store beside the reserved window, whose layout the manual does not give (R146; log 22). -/
opaque shadowByte : Nat → Nat → Byte

/-- Cycles between the hub of one package of a launch and that of another, by their ordinals: the paddings of the links on the way, but for that
of this package's own port where they lead to it, and 8 for each hub crossed between them (R337, R345), which the registers of other packages
hold (log 3). -/
opaque transit : Nat → Nat → Nat

/-- The cycle counter of a domain's reference package, as this package's firmware writes its own, at package time n (R20, R21; log 3). -/
opaque referenceCycle : Nat → Word64

/-- The scale byte of an output row of layout 2 with these bytes, which the manual has its producer supply without saying whence (R213; log
41). -/
opaque rowScale : List Byte → Byte

/-- Logical tiles of a package (R9). -/
def tiles : Nat := 1152

/-- First byte of the reserved window of a data SRAM (R83). -/
def windowBase : Nat := 0x0FB000

/-- Bytes of a data SRAM (R83). -/
def sramBytes : Nat := 0x100000

/-- Address of the argument block on every launch tile (R448). -/
def argBase : Nat := 0x0FA000

end Sys2Proof.Config
end

