-- ==== Sys2Proof/Syntax.lean ====
section
/-! DEFINITION. The steps of the JQ-1152: one constructor for each row of spec/opcode_table.json. Headers and op syllables
carry the fields of their formats (02_bundles); the steps without an encoding carry what names the occurrence. -/

namespace Sys2Proof

/-- Fields of a plain header (R27): presence C X Y V M D Q from bit 6 down, stall, sync, token wait mask, scope. -/
structure Header where
  present : BitVec 7
  stall : BitVec 4
  sync : Bool
  wait : BitVec 8
  scope : BitVec 3
  deriving DecidableEq, Repr

/-- F-R3 (R39). -/
structure R3 where
  rd : BitVec 6
  rs1 : BitVec 6
  rs2 : BitVec 6
  neg : Bool
  guard : BitVec 5
  var : BitVec 2
  deriving DecidableEq, Repr

/-- F-RI (R40), with the lend byte that extends the immediate (R34). -/
structure RI where
  rd : BitVec 6
  rs1 : BitVec 6
  imm : BitVec 14
  lend : Option Byte
  deriving DecidableEq, Repr

/-- SHLI, SHRI, SRAI (R40): 32-bit form and count. -/
structure ShiftI where
  rd : BitVec 6
  rs1 : BitVec 6
  narrow : Bool
  count : BitVec 6
  deriving DecidableEq, Repr

/-- LDI, LDIH (R40). -/
structure LoadI where
  rd : BitVec 6
  imm : BitVec 14
  lend : Option Byte
  deriving DecidableEq, Repr

/-- F-M, base plus offset (R41). -/
structure MemOff where
  data : BitVec 6
  base : BitVec 6
  size : BitVec 3
  off : BitVec 11
  lend : Option Byte
  deriving DecidableEq, Repr

/-- F-M, indexed (R41). -/
structure MemIdx where
  data : BitVec 6
  base : BitVec 6
  size : BitVec 3
  idx : BitVec 6
  shift : BitVec 3
  deriving DecidableEq, Repr

/-- HLD and HST (R41). -/
structure MemHandle where
  h : BitVec 4
  base : BitVec 6
  off : BitVec 11
  lend : Option Byte
  deriving DecidableEq, Repr

/-- F-V (R42), with the lend byte that names a broadcast g register. -/
structure VOp where
  dst : BitVec 4
  a : BitVec 4
  b : BitVec 4
  c : BitVec 4
  mask : BitVec 2
  ty : BitVec 4
  md : BitVec 4
  lend : Option Byte
  deriving DecidableEq, Repr

/-- F-D column commands (R44). -/
structure ColOp where
  bank : BitVec 5
  col : BitVec 4
  gs : BitVec 6
  off : BitVec 11
  lend : Option Byte
  deriving DecidableEq, Repr

/-- A context, wherever it is held: the logical tile it runs on, its launch and its number in the launch. -/
structure Who where
  tile : Nat
  launch : Nat
  num : Nat
  deriving DecidableEq, Repr

/-- What a barrier message from another package asks (R360-R371). -/
inductive FarAsk where
  | init (cfg : Word64)
  | arrive (phase : BitVec 32)
  | await (phase : BitVec 32)
  | withdraw (phase : BitVec 32)
  | invalidate
  | query (sel : BitVec 2)
  deriving DecidableEq, Repr

/-- What a barrier home in another package replies. -/
inductive FarAnswer where
  | accepted
  | refused
  | value (v : Word64)
  | error (detail : Nat)
  | released (ok : Bool) (detail : Nat)
  | entered
  deriving DecidableEq, Repr

/-- What a home in another package makes of an access of a copy operation (R88, R311-R315): source bytes with the offsets of poisoned
ones, a write performed, the old value of a CASW, a failure. -/
inductive FarResult where
  | data (bytes : List Byte) (poisoned : List Nat)
  | done
  | old (v : Word64)
  | fails (cause detail : Nat)
  deriving DecidableEq, Repr

/-- An access of another package's copy engine to a home here. -/
inductive FarAccess where
  | write (data : List Byte) (poisoned : List Nat)
  | read (size : Nat)
  | accumulate (op ty : Nat) (v : Word64)
  | compareSwap (ty : Nat) (compare new : Word64)
  deriving DecidableEq, Repr

/-- What the progress and halt trees bring of the other packages of a launch (R78, R340): their horizon, whether all of them are
quiescent, the least key of their held writes, and whether all their contexts have halted. -/
structure FarProgress where
  horizon : Nat
  quiet : Bool
  least : List Nat
  halted : Bool
  deriving DecidableEq, Repr

/-- What a package-link flit carries (R344, R346): a beat for this package, a hold entry for a flow, a barrier message to a home here or
the reply to one of this package's, a copy access to a home here or the outcome of one of this package's, the progress of a launch's other
packages. -/
inductive FlitPayload where
  | beat (tile ctx flow : Nat) (arrival : Word64) (data : List Byte) (poisoned : List Nat)
  | hold (tile ctx flow : Nat) (arrival : Word64)
  | message (launch launchTile ctx id tile object : Nat) (ask : FarAsk)
  | reply (id : Nat) (answer : FarAnswer)
  | access (launch launchTile ctx stamp : Nat) (addr : Word64) (access : FarAccess)
  | outcome (op : Nat) (result : FarResult)
  | progress (launch : Nat) (far : FarProgress)
  deriving DecidableEq, Repr

/-- The spaces a debug memory command names (R476). -/
inductive DebugSpace where
  | sram | code | vault | shadow
  deriving DecidableEq, Repr

/-- What the patrol scrubber finds in a word (R483). -/
inductive ScrubFinding where
  | clean | corrected | uncorrectable
  deriving DecidableEq, Repr

/-- What a protection of Table 21.1 finds an error in, with an address or a number beside it: a word, when it is read or scrubbed (R135,
R270, R483), of the data SRAM, the vault or the code SRAM at an address, of a register of a context's place, of a bank or a row of the array;
the n-th beat on its way to a tile over the mesh; the n-th result of a context's datapaths that is not in its register yet (R482). -/
inductive StoredWord where
  | sram
  | vault
  | g (place : Nat)
  | handle (place : Nat)
  | latch (place : Nat)
  | bank
  | row
  | code
  | beat
  | result (place : Nat)
  deriving DecidableEq, Repr

/-- What the training of a port finds (R23, R425): the latency measured and the package id of the peer. -/
structure Training where
  latency : BitVec 16
  peer : BitVec 14
  deriving DecidableEq, Repr

/-- The steps of the machine. Those that only the outside takes, and those without fields, stand last. -/
inductive Instr where
  /-- R27: The context holding the turn dispatches a bundle with a plain header: stall, sync, wait and ... -/
  | plainBundle (h : Header)
  /-- R34: A bundle whose header is followed by a lend syllable dispatches, and the lend bytes extend the ... -/
  | plainBundleWithLend (h : Header) (lend : Word32)
  /-- R33: One syllable stands for 1 to 8,192 empty bundles, each taking one dispatch turn; a run ... -/
  | emptyRun (count : BitVec 13)
  /-- R50: An opcode 0x38-0x3F dispatches to a hub microcode entry in a trusted context, and raises ... -/
  | extensionOpcode (op : BitVec 3) (rest : BitVec 26)
  /-- R156: A guarded branch redirects the context to bundle start plus 4 times the displacement. -/
  | br (disp : BitVec 20) (neg : Bool) (guard : BitVec 5)
  /-- R156: A guarded call writes the return address to g31 and redirects. -/
  | call (disp : BitVec 20) (neg : Bool) (guard : BitVec 5)
  /-- R156: The context redirects to the address held in a g register, counted as a return by trace. -/
  | ret (ga : BitVec 6)
  /-- R156: The context redirects to a g register plus a syllable displacement. -/
  | jmp (ga : BitVec 6) (imm : BitVec 14)
  /-- R157: Decrements loop counter LCn and branches back while more than one iteration remains. -/
  | loop (n : BitVec 2) (imm : BitVec 14)
  /-- R157: Acts as LOOP and also rotates RRB by 2 on each loop-back. -/
  | loopr (n : BitVec 2) (imm : BitVec 14)
  /-- R157: If its predicate holds, the loop counter is cleared and the context branches to the exit. -/
  | lexit (n : BitVec 2) (neg : Bool) (p : BitVec 5) (imm : BitVec 14)
  /-- R158: Writes an even value to the rotating register base. -/
  | setrrb (v : BitVec 5)
  /-- R161: Holds the next bundle until the named token is complete. -/
  | sleept (t : BitVec 3)
  /-- R161: Holds the next bundle until the package cycle reaches the value held in a g register. -/
  | sleeptCyc (ga : BitVec 6)
  /-- R161: Holds the next bundle until all or any of the named tokens are complete, then writes the mask ... -/
  | waitt (ga : BitVec 6) (any : Bool) (mask : BitVec 8)
  /-- R164: Orders accesses on the named paths at the scope of its bundle. -/
  | fencex (mask : BitVec 7)
  /-- R165: Releases, checks the new set group, makes it current and acquires. -/
  | phase (group : BitVec 4)
  /-- R166: Raises SOFTWARE after every other syllable of its bundle has taken effect. -/
  | trap (code : BitVec 14)
  /-- R168: Reads a CSR into a g register. -/
  | csrr (ga : BitVec 6) (csr : BitVec 8)
  /-- R168: Writes a g register to a CSR, with special rules for FLAGS, LCn and RRB. -/
  | csrw (ga : BitVec 6) (csr : BitVec 8)
  /-- R176: Appends a tagged trace record if trace is enabled for the context. -/
  | temit (ga : BitVec 6) (tag : BitVec 12)
  /-- R172: Grants a shape request against the tile capability, writes the z register and a predicate, and ... -/
  | shape (ga : BitVec 6) (pd : BitVec 5) (z : BitVec 2)
  /-- R173: Reads a z register, or raises SHAPE_REVALIDATE if the context is marked. -/
  | shapeq (ga : BitVec 6) (z : BitVec 2)
  /-- R173: Reads the tile's capability GRANT. -/
  | shapeqCap (ga : BitVec 6)
  /-- R170: Writes a predicate from a 4-bit truth table of two predicates. -/
  | plog (pd pa pb : BitVec 5) (tt : BitVec 4)
  /-- R171: Copies p0-p31 into a g register. -/
  | pmovg (ga : BitVec 6)
  /-- R171: Writes the predicates selected by a mask from a g register. -/
  | pmovp (ga gb : BitVec 6)
  /-- R169: Writes the package cycle to a g register. -/
  | rdcyc (ga : BitVec 6)
  /-- R163: Sets the context's issue priority. -/
  | setpri (level : Bool)
  /-- R174: Hands the context its next slice index and coordinates, or writes a false predicate. -/
  | slice (ga : BitVec 6) (pd : BitVec 5) (k : BitVec 4)
  /-- R175: Switches to the variant schedule of the tile's measured band if one is pending and present. -/
  | replan (ga : BitVec 6)
  /-- R166: Raises BREAKPOINT after the other syllables of its bundle have taken effect. -/
  | bkpt (code : BitVec 14)
  /-- R186: Adds two g registers, wrapping, 32-bit or saturating. -/
  | add (o : R3)
  /-- R186: Subtracts two g registers, wrapping, 32-bit or saturating. -/
  | sub (o : R3)
  /-- R186: Bitwise AND of two g registers. -/
  | and (o : R3)
  /-- R186: Bitwise OR of two g registers. -/
  | or (o : R3)
  /-- R186: Bitwise XOR of two g registers. -/
  | xor (o : R3)
  /-- R189: Shifts left by a register count. -/
  | shl (o : R3)
  /-- R189: Shifts right logically by a register count. -/
  | shr (o : R3)
  /-- R189: Shifts right arithmetically by a register count. -/
  | sra (o : R3)
  /-- R187: Multiplies two g registers, keeping the low bits. -/
  | mul (o : R3)
  /-- R187: Writes the high 64 bits of the signed product. -/
  | mulh (o : R3)
  /-- R187: Writes the high 64 bits of the unsigned product. -/
  | mulhu (o : R3)
  /-- R186: Signed minimum of two g registers. -/
  | min (o : R3)
  /-- R186: Signed maximum of two g registers. -/
  | max (o : R3)
  /-- R186: Unsigned minimum of two g registers. -/
  | minu (o : R3)
  /-- R186: Unsigned maximum of two g registers. -/
  | maxu (o : R3)
  /-- R193: Adds a sign-extended immediate. -/
  | addi (o : RI)
  /-- R193: Bitwise AND with an immediate. -/
  | andi (o : RI)
  /-- R193: Bitwise OR with an immediate. -/
  | ori (o : RI)
  /-- R193: Bitwise XOR with an immediate. -/
  | xori (o : RI)
  /-- R189: Shifts left by an immediate count. -/
  | shli (o : ShiftI)
  /-- R189: Shifts right logically by an immediate count. -/
  | shri (o : ShiftI)
  /-- R189: Shifts right arithmetically by an immediate count. -/
  | srai (o : ShiftI)
  /-- R193: Loads a sign-extended immediate. -/
  | ldi (o : LoadI)
  /-- R193: Shifts the destination left 22 bits and inserts 22 immediate bits. -/
  | ldih (o : LoadI)
  /-- R194: Compares two g registers and writes a predicate. -/
  | cmp (o : R3)
  /-- R194: Compares a g register with an immediate and writes a predicate. -/
  | cmpi (o : RI)
  /-- R195: Selects one of two g registers by the guard predicate, and always writes. -/
  | sel (o : R3)
  /-- R190: Extracts a bit field, zero- or sign-extended. -/
  | bfx (o : R3)
  /-- R190: Inserts a bit field into the destination. -/
  | bfi (o : R3)
  /-- R191: Funnel shift left of a 128-bit register pair. -/
  | fshl (o : R3)
  /-- R191: Funnel shift right of a 128-bit register pair. -/
  | fshr (o : R3)
  /-- R192: Counts the one bits. -/
  | popc (o : R3)
  /-- R192: Counts the leading zeros. -/
  | clz (o : R3)
  /-- R192: Counts the trailing zeros. -/
  | ctz (o : R3)
  /-- R192: Reverses the bit order. -/
  | brev (o : R3)
  /-- R188: Signed division truncated toward zero, without trapping. -/
  | div (o : R3)
  /-- R188: Unsigned division, without trapping. -/
  | divu (o : R3)
  /-- R188: Unsigned remainder, without trapping. -/
  | remu (o : R3)
  /-- R196: Loads from data SRAM at base plus offset, on path SC. -/
  | ld (o : MemOff)
  /-- R196: Stores to data SRAM at base plus offset, on path SC. -/
  | st (o : MemOff)
  /-- R198: A load that is an acquire at the bundle's scope. -/
  | ldacq (o : MemOff)
  /-- R198: A store that is a release at the bundle's scope. -/
  | strel (o : MemOff)
  /-- R196: Loads at base plus shifted index. -/
  | ldx (o : MemIdx)
  /-- R196: Stores at base plus shifted index. -/
  | stx (o : MemIdx)
  /-- R201: Loads a 256-bit handle from 32 bytes of SRAM. -/
  | hld (o : MemHandle)
  /-- R201: Stores a 256-bit handle to 32 bytes of SRAM. -/
  | hst (o : MemHandle)
  /-- R202: Writes one field of a handle from a g register. -/
  | hset (h : BitVec 4) (rs : BitVec 6) (code : BitVec 14)
  /-- R202: Reads one field of a handle into a g register. -/
  | hget (rd : BitVec 6) (h : BitVec 4) (code : BitVec 14)
  /-- R238: Vector floating add, rounded once. -/
  | fadd (o : VOp)
  /-- R238: Vector floating subtract. -/
  | fsub (o : VOp)
  /-- R238: Vector floating multiply. -/
  | fmul (o : VOp)
  /-- R238: Vector fused multiply-add, rounded once. -/
  | fma (o : VOp)
  /-- R238: Vector fused multiply-subtract. -/
  | fms (o : VOp)
  /-- R238: Vector floating minimum. -/
  | fmin (o : VOp)
  /-- R238: Vector floating maximum. -/
  | fmax (o : VOp)
  /-- R238: Vector floating divide, correctly rounded. -/
  | fdiv (o : VOp)
  /-- R238: Vector square root. -/
  | fsqrt (o : VOp)
  /-- R238: Vector reciprocal. -/
  | frcp (o : VOp)
  /-- R238: Vector reciprocal square root. -/
  | frsq (o : VOp)
  /-- R238: Vector base-2 exponential. -/
  | fexp2 (o : VOp)
  /-- R238: Vector base-2 logarithm. -/
  | flog2 (o : VOp)
  /-- R239: Vector floating compare, writing element masks and optionally a mask register. -/
  | fcmp (o : VOp)
  /-- R239: Writes the class bits of each element. -/
  | fclass (o : VOp)
  /-- R240: Vector integer add, wrapping or saturating. -/
  | iadd (o : VOp)
  /-- R240: Vector integer subtract. -/
  | isub (o : VOp)
  /-- R240: Vector integer multiply. -/
  | imul (o : VOp)
  /-- R240: Vector bitwise AND. -/
  | iand (o : VOp)
  /-- R240: Vector bitwise OR. -/
  | ior (o : VOp)
  /-- R240: Vector bitwise XOR. -/
  | ixor (o : VOp)
  /-- R240: Vector shift left. -/
  | ishl (o : VOp)
  /-- R240: Vector logical shift right. -/
  | ishr (o : VOp)
  /-- R240: Vector arithmetic shift right. -/
  | isra (o : VOp)
  /-- R241: Vector integer compare. -/
  | icmp (o : VOp)
  /-- R240: Vector integer minimum. -/
  | imin (o : VOp)
  /-- R240: Vector integer maximum. -/
  | imax (o : VOp)
  /-- R244: Selects elements by a condition vector. -/
  | vsel (o : VOp)
  /-- R243: Copies one source to a latch or port through the mask, carrying poison. -/
  | movl (o : VOp)
  /-- R244: Broadcasts one element to every element. -/
  | vbcast (o : VOp)
  /-- R244: Permutes elements of two vectors by an index vector. -/
  | vperm (o : VOp)
  /-- R246: Converts elements between types, saturating on narrowing. -/
  | cvt (o : VOp)
  /-- R247: Quantises blocks of 32 elements with one E8M0 scale each. -/
  | qpack (o : VOp)
  /-- R248: Sums all lanes in the fixed tree order. -/
  | vreds (o : VOp)
  /-- R248: Maximum or minimum over all lanes. -/
  | vredm (o : VOp)
  /-- R249: Running sum over 64 elements in ascending order. -/
  | vscan (o : VOp)
  /-- R250: Keeps the N largest of each group of M elements, or emits the metadata. -/
  | vcompress (o : VOp)
  /-- R244: Looks up table entries indexed by the bytes of A. -/
  | vlut (o : VOp)
  /-- R242: Extracts a bit field per element. -/
  | vbfx (o : VOp)
  /-- R242: Funnel shift per element. -/
  | vfsh (o : VOp)
  /-- R251: Gathers one 4-byte element per lane from data SRAM on path ST. -/
  | vldx (o : VOp)
  /-- R251: Scatters one 4-byte element per lane to data SRAM on path ST. -/
  | vstx (o : VOp)
  /-- R253: Writes keyed random bits per element. -/
  | vrng (o : VOp)
  /-- R254: Applies keyed dropout and a scale per element. -/
  | vdrop (o : VOp)
  /-- R255: Absorbs 256 bytes as four SHA-256 blocks. -/
  | vdigestAbsorb (a : BitVec 4) (lend : Option Byte)
  /-- R255: Writes the digest of a copy of the state with the length block. -/
  | vdigestFinish (dst : BitVec 4)
  /-- R245: Moves bytes 0-7 of a vector to a g register. -/
  | vmovg (gd : BitVec 6) (a : BitVec 4) (lend : Option Byte)
  /-- R245: Moves a mask register to a g register. -/
  | vmovgM (gd : BitVec 6) (m : BitVec 2)
  /-- R245: Writes a mask register from the broadcast g register. -/
  | vmovgSetm (m : BitVec 2) (lend : Option Byte)
  /-- R272: Sets the weight format and clears both weight banks. -/
  | wfmt (fmt : BitVec 2)
  /-- R273: Consumes one port row and writes weights into the banks. -/
  | wload (stream : BitVec 4) (plane bank : BitVec 3) (k : BitVec 7)
  /-- R275: Pushes an activation row from a port through the array into an accumulator row. -/
  | push (row : BitVec 6) (stream : BitVec 4) (bank : BitVec 3) (first : Bool)
  /-- R276: Pushes a K row built by the unfolding unit from a handle. -/
  | pushx (row : BitVec 6) (h : BitVec 4) (bank : BitVec 3) (first adv : Bool)
  /-- R277: Pushes a dense K row gathered from a CSR matrix. -/
  | pushg (row : BitVec 6) (h : BitVec 4) (bank : BitVec 3) (first adv : Bool)
  /-- R278: Zeroes one or all accumulator rows and sets their mode. -/
  | accz (row : BitVec 6) (fp all : Bool)
  /-- R278: Multiplies an accumulator row by 4 to the power of the count. -/
  | shift (row : BitVec 6) (count : BitVec 3)
  /-- R279: Scales, converts and writes an accumulator row to an output port, optionally zeroing it. -/
  | drain (row : BitVec 6) (stream scale ty : BitVec 4) (zero : Bool)
  /-- R274: Sets the activation format and default scale code of an input port. -/
  | afmt (stream : BitVec 4) (fmt : BitVec 2) (code : BitVec 8)
  /-- R302: Opens a row in a vault bank. -/
  | act (bank : BitVec 5) (row : BitVec 13)
  /-- R302: Closes a vault bank. -/
  | pre (bank : BitVec 5)
  /-- R303: Reads a 128-byte vault column into data SRAM. -/
  | rd (o : ColOp)
  /-- R294: Reads a 2:4 column and expands it to 256 dense bytes in SRAM. -/
  | rdx (o : ColOp)
  /-- R303: Writes 128 bytes of SRAM into a vault column. -/
  | wr (o : ColOp)
  /-- R293: Writes the bytes of a vault column selected by a 128-bit mask. -/
  | wrm (o : ColOp)
  /-- R296: Refreshes one bank, lowers the debt and sets its round flag. -/
  | refpb (bank : BitVec 5)
  /-- R304: Writes a snapshot of bank, debt, band or refresh state to a g register. -/
  | vstat (bank : BitVec 5) (gd : BitVec 6) (sel : BitVec 11)
  /-- R223: Binds a handle to a stream port after its checks. -/
  | bind (ga : BitVec 6) (h port : BitVec 4) (narrow : Bool)
  /-- R223: Binds a handle to a port as a gather or scatter by a block list. -/
  | bindg (ga : BitVec 6) (h port : BitVec 4) (narrow : Bool)
  /-- R224: Releases a port, optionally posting a token for its buffered output rows. -/
  | unbind (port : BitVec 4) (post : Bool) (t : BitVec 3)
  /-- R225: Advances a port's position. -/
  | sskip (ga : BitVec 6) (port : BitVec 4)
  /-- R226: Queries a port's remaining rows, position, state or origin. -/
  | sqry (ga : BitVec 6) (port : BitVec 4) (sel : BitVec 3)
  /-- R311: Copies a byte range between address kinds, reporting on a token. -/
  | cpy (ga gb : BitVec 6) (dkind skind : BitVec 2) (t : BitVec 3) (len : BitVec 6)
  /-- R312: Copies a box between the tensors of two handles. -/
  | cpyb (hd hs : BitVec 4) (t : BitVec 3)
  /-- R317: Starts or resumes a chain channel walking transfer records. -/
  | cpych (ga : BitVec 6) (ch : BitVec 2) (t : BitVec 3) (kind : BitVec 2)
  /-- R313: Accumulate-on-write of one word at its home. -/
  | accw (ga gb : BitVec 6) (op : BitVec 4) (t ty : BitVec 3) (kind : BitVec 2) (rel : Bool)
  /-- R314: Compare-and-swap of one word at its home, returning the old value. -/
  | casw (ga gb : BitVec 6) (t ty : BitVec 3) (kind : BitVec 2) (rel : Bool)
  /-- R323: Reads a token field. -/
  | tokq (ga : BitVec 6) (t : BitVec 3) (sel : BitVec 2)
  /-- R323: Waits for a token to drain, raises any unreported error, then clears it. -/
  | tokclr (t : BitVec 3)
  /-- R348: Sends rows as beats on a point-to-point flow in its departure slots. -/
  | msend (ga gb : BitVec 6) (n : BitVec 4) (t : BitVec 3) (flow : BitVec 6) (post : Bool)
  /-- R348: Sends rows as beats on a multicast flow. -/
  | mcast (ga gb : BitVec 6) (n : BitVec 4) (t : BitVec 3) (flow : BitVec 6) (post : Bool)
  /-- R349: Claims landed beats of a flow and writes them to SRAM, freezing the tile if they are late. -/
  | mland (ga gb : BitVec 6) (n : BitVec 4) (flow : BitVec 6)
  /-- R350: Queries flow latency, buffer occupancy, lost count or slots. -/
  | mqry (ga : BitVec 6) (sel : BitVec 2) (flow : BitVec 6)
  /-- R369: Sends a configuration message that claims and initialises a barrier object. -/
  | binit (ga gb : BitVec 6) (t : BitVec 3)
  /-- R362: Sends an arrival for a phase, as a release. -/
  | barr (ga gb : BitVec 6) (t : BitVec 3) (pd : BitVec 5)
  /-- R365: Sends a wait for a phase and blocks the context until released or timed out. -/
  | bwait (ga gb : BitVec 6) (pd : BitVec 5) (timed : Bool)
  /-- R370: Invalidates a barrier object, releasing waiters with error. -/
  | binv (ga : BitVec 6) (t : BitVec 3)
  /-- R371: Queries a barrier object's state at its home. -/
  | bqry (ga gb : BitVec 6) (t : BitVec 3) (sel : BitVec 2)
  /-- R387: Sends a page subscription to the owner and posts the page bytes. -/
  | pgsub (ga gb : BitVec 6) (t : BitVec 3) (d128 : Bool)
  /-- R387: Sends a cancellation of a pending subscription. -/
  | pgunsub (ga : BitVec 6)
  /-- R388: Casts a staged page to the main or catch-up subscribers of an entry. -/
  | pgcast (ga gb : BitVec 6) (t : BitVec 3) (d128 catchUp : Bool)
  /-- R389: Opens a Dome slot for a query. -/
  | mrgopen (ga : BitVec 6) (d128 : Bool)
  /-- R390: Hands a partial to a Dome slot by sequence number. -/
  | mrg (ga gb : BitVec 6)
  /-- R391: Finishes a complete slot, writes the normalised or raw result and closes it. -/
  | mrgfin (ga gb : BitVec 6) (bf16 raw : Bool)
  /-- R392: Queries Dome slot or page entry state. -/
  | domeq (ga gb : BitVec 6) (entry : Bool) (sel : BitVec 2)
  /-- R411: Sends cell records to the chain controller to load cells. -/
  | sfload (ga gb : BitVec 6) (reset : Bool) (ns : BitVec 6)
  /-- R412: Clamps or unclamps a range of cells. -/
  | sfclamp (ga gb : BitVec 6)
  /-- R410: Forms or re-seeds a chain and sets its seed, SWC and mode. -/
  | sfseed (ga gb : BitVec 6) (keep entropy : Bool) (m : BitVec 4)
  /-- R413: Queues a Gibbs sweep of n repeats over k colours at the controller. -/
  | sfsweep (ga gb : BitVec 6) (t : BitVec 3) (k : BitVec 3)
  /-- R412: Reads cell states of a range into an SRAM bitmap. -/
  | sfread (ga gb : BitVec 6)
  /-- R412: Writes cell states of a range from an SRAM bitmap. -/
  | sfwrite (ga gb : BitVec 6)
  /-- R414: Queries chain state, SWC, steps left or seed. -/
  | sfqry (ga : BitVec 6) (t : BitVec 3) (sel : BitVec 2)
  /-- R74: A held syllable leaves its slot queue and reaches its engine once its engine, rows or minimums ... -/
  | slotQueueLeave (tile place slot : Nat)
  /-- R128: After older syllables take effect, the trap record is written, the handler bit set and the ... -/
  | trapEntry (tile place : Nat)
  /-- R161: A WAITT, SLEEPT or header wait is released in the cycle after its tokens complete or its cycle ... -/
  | waitRelease (tile place : Nat)
  /-- R162: A needed token passes its promise cycle incomplete, trapping or counting deviation 0x5. -/
  | promiseMissed (tile place : Nat)
  /-- R77: A HALT retires once queues are empty and issued operations finished, releasing ports. -/
  | haltRetire (tile place : Nat)
  /-- R267: A prefetched input row arrives from SRAM into the port buffer. -/
  | streamRowArrival (who : Who) (port : Nat)
  /-- R221: A buffered output row is performed in SRAM on path ST. -/
  | outputRowWrite (who : Who)
  /-- R292: The data of RD or RDX is written to SRAM 24 cycles after the command. -/
  | vaultReadLands (tile : Nat)
  /-- R295: The refresh accumulator reaches tREFI and one debt increment falls on the next bank. -/
  | debtIncrement (tile : Nat)
  /-- R297: At the first cycle every open bank may close, the engine records open rows and precharges all ... -/
  | forcedPrecharge (tile : Nat)
  /-- R297: tRP after the precharge, the engine issues REFAB and zeroes the debt. -/
  | forcedRefab (tile : Nat)
  /-- R297: After tRFCab the engine reopens each recorded row in ascending bank order. -/
  | forcedReactivate (tile : Nat)
  /-- R297: The engine releases the D slots tRAS after the last reactivation. -/
  | forcedRefreshRelease (tile : Nat)
  /-- R299: The grace window expires; the accrual band becomes the measured band and BAND_LATE is set. -/
  | graceWindowTimeout (tile : Nat)
  /-- R145: The array owner's banks and accumulators are spilled and the requester's image filled. -/
  | arrayHandover (tile place : Nat)
  /-- R141: A victim taken at a dispatch boundary moves into a free parked partition. -/
  | park (tile place : Nat)
  /-- R142: A victim's image is written to a vault save slot once its tokens settle. -/
  | fullSave (tile place : Nat)
  /-- R144: A parked context returns to a free active context of its tile. -/
  | resumeParked (who : Who)
  /-- R144: A saved image is loaded, its set group checked, its shape clamped and it resumes. -/
  | restore (who : Who) (onTile : Nat)
  /-- R441: For a waiting higher-priority launch the command processor takes victim contexts. -/
  | preemptVictims (launch : Nat)
  /-- R348: A queued mesh beat departs in its slot cycle. -/
  | beatDeparture (tile : Nat)
  /-- R341: A mesh beat arrives into the landing buffer, or is discarded and marked lost. -/
  | beatArrival (tile : Nat)
  /-- R343: A freeze reaching FREEZELIM ends with PEER_HALTED or MESH_SLOT. -/
  | freezeLimit (tile : Nat)
  /-- R340: The progress tree delivers a new horizon and held CP writes below it are applied. -/
  | horizonUpdate (launch : Nat)
  /-- R340: In a quiescent cycle the held write with the least key is applied. -/
  | quiescentApply (launch : Nat)
  /-- R319: A copy beat reaches its home port, is set-checked and applied in port order. -/
  | copyBeatArrival (op : Nat)
  /-- R314: The old value returns and is written to the return word, completing the token. -/
  | caswReturnWrite (op : Nat)
  /-- R328: A page walk of the hub service completes and fills the translation cache. -/
  | walkComplete (root : Word64) (va : Nat)
  /-- R423: A completion of a host read or AtomicOp returns over PCIe. -/
  | hostReadCompletion (op : Nat)
  /-- R317: A chain channel reads its next record and copies, signals and releases it. -/
  | chainRecordStep (tile ch : Nat)
  /-- R359: Barrier messages arriving at a home are applied in order and replies sent. -/
  | barrierMessageApply (tile : Nat)
  /-- R360: A barrier reply lands, writing its predicate or g result and completing the token. -/
  | barrierReplyLands (who : Who)
  /-- R365: A barrier release lands at the waiter, ending the wait or raising an error. -/
  | bwaitReleaseLands (who : Who)
  /-- R366: A timed wait expires with a false predicate and sends a withdrawal. -/
  | bwaitTimeout (tile place : Nat)
  /-- R379: A subscription or cancellation is applied at the page owner. -/
  | pageMessageApply (tile : Nat)
  /-- R380: A cast reads one beat of its staging range. -/
  | castBeatRead (tile : Nat)
  /-- R380: A cast beat is written at a subscriber's landing range. -/
  | castBeatLanding (tile : Nat)
  /-- R382: One queued partial is merged into its slot over 4 or 6 cycles. -/
  | domeMerge (tile : Nat)
  /-- R384: When every launch context is halted or held for reorder entries, held MRGs raise DOME_ERROR. -/
  | domeNoProgress (tile launch : Nat)
  /-- R406: The chain controller applies the next Sorrel command. -/
  | sfCommandApply (die field : Nat)
  /-- R405: Every free cell of one colour is resampled at once. -/
  | colourStep (die field : Nat)
  /-- R409: A Sorrel reply lands at the issuer, releasing the Q queue. -/
  | sfReplyLands (who : Who)
  /-- R430: The command processor reads a ring slot and starts or refuses the packet. -/
  | ringSlotRead (fn q : Nat)
  /-- R430: A slot found without its valid bit is read again after 1,800 cycles. -/
  | ringSlotRepoll (fn q : Nat)
  /-- R438: A LAUNCH packet is checked and accepted or refused. -/
  | launch (packet : Nat)
  /-- R439: An accepted launch starts once contexts are free, distributing arguments and tables. -/
  | launchStart (launch : Nat)
  /-- R78: The halt tree fires and the completion signal is written. -/
  | launchCompletion (launch : Nat)
  /-- R434: A COPY packet runs a chain on a tile's channel. -/
  | copy (packet : Nat)
  /-- R435: A WAIT-SIGNAL packet reads its signal and holds the queue until met. -/
  | waitSignal (packet : Nat)
  /-- R435: The signal is read again every 1,800 cycles or on a local signal write. -/
  | waitSignalPoll (packet : Nat)
  /-- R435: The timeout expires with status 0x0007 and the queue stops. -/
  | waitSignalTimeout (packet : Nat)
  /-- R436: A SIGNAL packet sets, adds to or subtracts from its target as a release. -/
  | signal (packet : Nat)
  /-- R437: The status record is written and the signal decremented as releases. -/
  | packetCompletion (packet : Nat)
  /-- R455: Loads an Ocsil object, translating its Cigon form if needed, into partitions. -/
  | load (packet : Nat)
  /-- R459: Removes an object, marks it pending, or force-ends its launches. -/
  | unload (packet : Nat)
  /-- R459: A pending object is removed when its last holding context ends. -/
  | unloadPendingRemoval (object : Nat)
  /-- R491: When the partition is idle, a tile is copied to a spare and the remap table rewritten. -/
  | tileRetirement (tile : Nat)
  /-- R49: An op syllable whose opcode is marked with a dash, or lies beyond the last row of its slot's ... -/
  | illegalOpcode (tile place slot : Nat)
  /-- R36: A header of reserved kind or with nonzero reserved bits, or an op syllable with a nonzero ... -/
  | illegalEncoding (tile place slot detail : Nat)
  /-- R342: An MLAND at the head of its Q queue reaches its last beat's arrival cycle with beats missing, ... -/
  | lateLanding (tile place : Nat)
  /-- R105: A copy's read of its source bytes reaches the source home, is checked against the launches ... -/
  | copySourceRead (op : Nat)
  /-- R286: The vault engine issues its own activate, columns and precharge for a copy to an owned bank ... -/
  | copyService (tile op : Nat)
  /-- R298: Every 18,000 cycles the controller measures each vault and sets the tile's measured band. -/
  | temperatureMeasurement (tile : Nat) (celsius : Int)
  /-- R22: Every 1 ms board power is measured and launch starts are stopped or resumed. -/
  | powerSample (watts : Nat)
  /-- R28: A present no-operation syllable in any slot has no effect. -/
  | nop
  /-- R159: Ends the context once its queues have emptied and its engine operations have finished. -/
  | halt
  /-- R160: Gives up the dispatch turn after the bundle. -/
  | yield
  /-- R134: Resumes the context from the trap record and clears the handler bit. -/
  | eret
  /-- R255: Resets the SHA-256 state and DGLEN. -/
  | vdigestInit
  /-- R272: Exchanges the names of wb0 and wb1. -/
  | wswap
  /-- R302: Closes every open bank of the context's groups. -/
  | prea
  /-- R302: Refreshes every bank and zeroes the debt; needs all groups. -/
  | refab
  /-- R298: Above 105 °C every launch halts at the next bundle boundary and vaults enter self-refresh. -/
  | thermalHalt
  /-- R22: A sample above 115% of the limit halts every launch at the next bundle boundary. -/
  | powerFaultHalt
  /-- R345: A package-link flit is received, CRC-checked or retried, and its beat released at D plus ... -/
  | flitReceive (port : BitVec 4) (crcOk : Bool) (depart : BitVec 64) (payload : FlitPayload)
  /-- R21: A package loses domain alignment, reports it and refuses domain-cycle launches. -/
  | alignmentLoss
  /-- R430: A notify index is accepted, ignored or stops the queue with overrun. -/
  | qnotify (fn q : Nat) (index : BitVec 32)
  /-- R428: A write of QCTL.enable starts or stops reading of the ring. -/
  | queueEnable (fn q : Nat) (on : Bool)
  /-- R430: A write of QCTL.resume clears stopped and reading continues. -/
  | queueResume (fn q : Nat)
  /-- R426: Lends or withdraws a partition to its VF, resetting partition counters; ignored while busy. -/
  | pvfWrite (partition : Nat) (lent : Bool)
  /-- R424: Sets the power limit, clamped at 2,300 W. -/
  | pwrlimitWrite (value : Word64)
  /-- R424: Writing 1 clears an EVENT bit. -/
  | eventWrite (value : Word64)
  /-- R345: Sets a port's padding and enable, refused below the padding limit. -/
  | linkpadWrite (port : Nat) (value : Word64)
  /-- R425: Starts domain cycle alignment to the reference package. -/
  | domctlStartAlignment
  /-- R329: Starts a translation invalidation by root and range. -/
  | invctlStart
  /-- R329: An invalidation completes once caches drop entries and old beats settle. -/
  | invalidationComplete
  /-- R424: Ends every context on a partition with status 0x0004. -/
  | killGo (partition : Nat)
  /-- R421: A write to a package or queue register without behaviour of its own, ignored where locked. -/
  | registerWrite (fn bar offset size : Nat) (value : Word64)
  /-- R422: A host read through BAR4 is a CP-path read at its home. -/
  | windowRead (offset size : Nat)
  /-- R422: A host write through BAR4 is a CP-path write checked at the home. -/
  | windowWrite (offset : Nat) (data : List Byte)
  /-- R422: A host FetchAdd through the window acts as ACCW add and returns the old word. -/
  | windowFetchadd (offset size : Nat) (value : Word64)
  /-- R422: A host Swap through the window acts as ACCW swap. -/
  | windowSwap (offset size : Nat) (value : Word64)
  /-- R422: A host CAS through the window acts as CASW. -/
  | windowCas (offset size : Nat) (compare value : Word64)
  /-- R427: Disables a function's queues, kills its launches and chains and resets its registers. -/
  | functionLevelReset (fn : Nat)
  /-- R453: The controller installs signed microcode when no object is resident. -/
  | microcodeInstall (id : BitVec 32) (entries : List (Nat × Nat)) (image : List Byte)
  /-- R10: The controller writes or refuses a spare remap table. -/
  | remapTableWrite (die : Nat) (entries : List (Option Nat))
  /-- R487: At reset the boot ROM verifies and measures the firmware image and starts it or enters ... -/
  | boot (image : List Byte)
  /-- R487: A start word in the recovery window makes the ROM verify a replacement image. -/
  | recoveryStart (image : List Byte)
  /-- R488: SPDM request for supported versions. -/
  | getVersion
  /-- R488: SPDM request for capabilities. -/
  | getCapabilities
  /-- R488: SPDM algorithm negotiation. -/
  | negotiateAlgorithms
  /-- R488: SPDM request for certificate digests. -/
  | getDigests
  /-- R488: SPDM request for the device certificate. -/
  | getCertificate
  /-- R488: SPDM challenge signed with the identity key. -/
  | challenge (nonce : List Byte)
  /-- R488: SPDM request for measurement blocks. -/
  | getMeasurements (index : Nat)
  /-- R489: A signed authorisation opens the debug path and sets measurement 5. -/
  | debugAuthorisation (token : List Byte)
  /-- R476: Sets a context's attached bit. -/
  | attach (tile place : Nat)
  /-- R476: Clears a context's attached bit. -/
  | detach (tile place : Nat)
  /-- R477: Stops an attached context at its next dispatch boundary. -/
  | debugHalt (tile place : Nat)
  /-- R476: A held context dispatches one bundle and stops again. -/
  | step (tile place : Nat)
  /-- R476: A held context resumes from its record. -/
  | resume (tile place : Nat)
  /-- R476: Reads a held context's state in save-image layout. -/
  | ctxrd (who : Who)
  /-- R476: Writes a held context's state in save-image layout. -/
  | ctxwr (who : Who) (image : List Byte)
  /-- R478: Debug read of SRAM, code SRAM, vault or shadow store. -/
  | memrd (tile : Nat) (space : DebugSpace) (addr size : Nat)
  /-- R478: Debug write, unchecked by sets, refused on held code. -/
  | memwr (tile : Nat) (space : DebugSpace) (addr : Nat) (data : List Byte)
  /-- R478: Writes a breakpoint comparator. -/
  | brkset (tile : Nat) (k : BitVec 2) (addr : BitVec 16) (mask : BitVec 4) (on : Bool)
  /-- R476: Reads and removes trace records. -/
  | fiford (tile count : Nat)
  /-- R479: Fires the snapshot trigger. -/
  | trigger
  /-- R476: Reads the latched snapshot and re-arms the trigger. -/
  | snaprd
  /-- R483: The scrubber reads and corrects words of SRAM and vault. -/
  | patrolScrub (tile : Nat) (word : StoredWord) (addr : Nat) (finding : ScrubFinding)
  /-- R490: Every 10 ms the monitors are read and supply raised or tile retired. -/
  | ageingCheck (tile : Nat) (marginLow : Bool)
  /-- R484: A fault in control state ends affected contexts with POISON and marks the tile suspect. -/
  | controlStateFault (tile place : Nat) (code : Bool)
  /-- R482: A command-processor lockstep failure restarts the packet or halts the package. -/
  | lockstepFailure (restartable : Bool)
  /-- R19: Each core cycle the package cycle counter advances by one and wraps modulo 2^64, on every tile ... -/
  | packageCycleAdvance
  /-- R425: Link training on an enabled package port completes, setting training done and the measured raw ... -/
  | linkTrainingDone (port : Nat) (raw : Training)
  /-- R21: Domain alignment to the reference package completes, DOMCTL.aligned becomes 1 and launches ... -/
  | alignmentComplete
  deriving DecidableEq, Repr

end Sys2Proof
end

