-- ==== Sys2Proof/WellFormed.lean ====
section
/-! DEFINITION. Which terms of the syntax are instructions of the JQ-1152: the codes, variants and register pairings that
the encoding rules allow (02_bundles R36-R47 and the encoding tables of the engine chapters). -/

namespace Sys2Proof

/-- R47: two source fields of equal parity, neither of them g0. -/
def sameBank (a b : BitVec 6) : Bool := a != 0 && b != 0 && a.getLsbD 0 == b.getLsbD 0

/-- A header (R27): the scope codes 110 and 111 are refused. -/
def Header.wf (h : Header) : Bool := h.scope.toNat < 6

/-- An F-R3 instruction with the first n variants and two sources (R39, R47). -/
def R3.wf (o : R3) (variants : Nat) : Bool := o.var.toNat < variants && !sameBank o.rs1 o.rs2

/-- POPC, CLZ, CTZ, BREV: rs2 must be zero (R39). -/
def R3.wfUnary (o : R3) : Bool := o.var.toNat < 2 && o.rs2 == 0

/-- A shift by an immediate: a 32-bit form counts 0-31 (R189). -/
def ShiftI.wf (o : ShiftI) : Bool := !(o.narrow && o.count.getLsbD 5)

/-- A load or store with the sizes below n (Table 2.9). -/
def MemOff.wf (o : MemOff) (sizes : Nat) : Bool := o.size.toNat < sizes

/-- LDX and STX (Table 2.9, R47). -/
def MemIdx.wf (o : MemIdx) (sizes : Nat) : Bool := o.size.toNat < sizes && !sameBank o.base o.idx

namespace VOp

/-- The lend byte is there exactly when a source code is 15, and then names a g register (R34, R42). -/
def lendOk (o : VOp) : Bool :=
  if o.a == 15 || o.b == 15 || o.c == 15 then
    match o.lend with
    | some b => b.toNat < 64
    | none => false
  else o.lend.isNone

/-- The rounding modes 000-100 (Table 5.3). -/
def roundOk (o : VOp) : Bool := (o.md.extractLsb' 1 3).toNat < 5

/-- Modifier bits [3:1] zero. -/
def plainOk (o : VOp) : Bool := o.md.toNat < 2

/-- The type sets of R236. -/
def isF (o : VOp) : Bool := o.ty.toNat < 3
def isI (o : VOp) : Bool := [3, 4, 5, 9, 10, 11].contains o.ty.toNat
def isW (o : VOp) : Bool := o.ty.toNat < 12 && o.ty != 8
def isS32 (o : VOp) : Bool := [0, 3, 9].contains o.ty.toNat

/-- Only source A is read. -/
def readsA (o : VOp) : Bool := o.b == 12 && o.c == 12

/-- Only sources A and B are read. -/
def readsAB (o : VOp) : Bool := o.c == 12

/-- A compare writes a mask register only for 32-bit types. -/
def maskOk (o : VOp) : Bool := o.mask == 0 || o.isS32

end VOp

/-- The syntax that has an encoding, with the limits of each instruction's entry. Steps without an encoding are limited
only where they name a tile, a place or a slot. -/
def Instr.wf : Instr → Bool
  | .plainBundle h => h.wf
  | .plainBundleWithLend h lend =>
      h.wf && h.present != 0 &&
        ([0, 1, 2, 3].all fun k => k < ((List.range 7).filter fun j => h.present.getLsbD j).length ||
          lend.extractLsb' (8 * k) 8 == 0)
  | .slotQueueLeave t p k | .illegalOpcode t p k | .illegalEncoding t p k _ => t < Config.tiles && p < 4 && k < 8
  | .setrrb v => !v.getLsbD 0
  | .waitt _ _ m => m != 0
  | .fencex m => m != 0
  | .slice ga _ k => k.toNat ≤ 8 && ga.toNat + k.toNat ≤ 63 && !(ga == 0 && k != 0)
  | .csrr _ n => csrAssigned n.toNat
  | .csrw _ n => csrWritable n.toNat
  | .add o | .sub o => o.wf 3
  | .and o | .or o | .xor o | .mulh o | .mulhu o | .sel o | .bfi o | .fshl o | .fshr o => o.wf 1
  | .shl o | .shr o | .sra o | .mul o | .min o | .max o | .minu o | .maxu o | .bfx o | .div o | .divu o | .remu o => o.wf 2
  | .popc o | .clz o | .ctz o | .brev o => o.wfUnary
  | .cmp o => o.wf 4 && !(o.rd.getLsbD 5 && o.var.toNat < 2)
  | .cmpi o => !(o.rd.getLsbD 5 && !o.imm.getLsbD 13)
  | .shli o | .shri o | .srai o => o.wf
  | .ld o | .ldacq o => o.wf 7
  | .st o | .strel o => o.wf 4
  | .ldx o => o.wf 7
  | .stx o => o.wf 4
  | .hset _ _ c | .hget _ _ c => c.toNat ≤ 0x10
  | .fadd o | .fsub o | .fmul o | .fmin o | .fmax o | .fdiv o => o.isF && o.roundOk && o.readsAB && o.lendOk
  | .fma o | .fms o => o.isF && o.roundOk && o.lendOk
  | .fsqrt o | .frcp o | .frsq o | .fexp2 o | .flog2 o => o.isF && o.roundOk && o.readsA && o.lendOk
  | .fcmp o => o.isF && !o.md.getLsbD 0 && o.readsAB && o.maskOk && o.lendOk
  | .fclass o => o.isF && o.md == 0 && o.readsA && o.lendOk
  | .iadd o | .isub o | .imul o | .ishl o | .vbfx o => o.isI && o.plainOk && o.readsAB && o.lendOk
  | .iand o | .ior o | .ixor o | .ishr o | .isra o | .imin o | .imax o => o.isI && o.md == 0 && o.readsAB && o.lendOk
  | .icmp o => o.isI && !o.md.getLsbD 0 && (o.md.extractLsb' 1 3).toNat < 6 && o.readsAB && o.maskOk && o.lendOk
  | .vsel o | .vperm o | .vlut o => o.isW && o.md == 0 && o.lendOk
  | .movl o => o.ty == 0 && o.md.toNat < 3 && (o.md == 0 || o.a == 12) && (o.md == 1 || o.b == 12) &&
      (o.md == 2 || o.c == 12) && o.lendOk
  | .vbcast o => o.isW && o.md == 0 && o.readsAB && o.lendOk
  | .cvt o => o.ty.toNat < 12 && o.b.toNat < 12 && o.roundOk && !o.md.getLsbD 0 && o.c == 12 && o.lendOk
  | .qpack o => [5, 6, 7].contains o.ty.toNat && o.b.toNat < 2 && o.roundOk && !o.md.getLsbD 0 && o.c == 12 && o.lendOk
  | .vreds o => ((o.isF && o.roundOk && !o.md.getLsbD 0) || (o.isI && o.plainOk)) && o.readsA && o.lendOk
  | .vredm o => (o.isF || o.isI) && o.plainOk && o.readsA && o.lendOk
  | .vscan o => o.isS32 && o.md.toNat < 4 && !(o.ty == 0 && o.md.getLsbD 0) && o.readsA && o.lendOk
  | .vcompress o => o.isW && !o.md.getLsbD 0 && o.md.toNat < 12 && o.readsA && o.lendOk
  | .vfsh o => o.isI && o.plainOk && o.lendOk
  | .vldx o => o.isS32 && o.b == 15 && o.c == 12 && o.lendOk
  | .vstx o => o.isS32 && o.b == 15 && o.dst == 0 && o.lendOk
  | .vrng o => [0, 9, 10, 11].contains o.ty.toNat && o.md == 0 && o.a == 12 && o.readsA && o.lendOk
  | .vdrop o => o.isF && o.roundOk && !o.md.getLsbD 0 && o.c == 15 && o.lendOk
  | .vdigestAbsorb a lend => if a == 15 then (lend.map fun b => decide (b.toNat < 64)) == some true else lend.isNone
  | .vmovg _ a lend => if a == 15 then (lend.map fun b => decide (b.toNat < 64)) == some true else lend.isNone
  | .vmovgSetm m lend => m != 0 && (lend.map fun b => decide (b.toNat < 64)) == some true
  | .wfmt f => f.toNat < 2
  | .wload s p b _ => s.toNat < 8 && p.toNat < 4 && b.toNat < 2
  | .push _ s b _ => s.toNat < 8 && b.toNat < 2
  | .pushx _ _ b _ _ | .pushg _ _ b _ _ => b.toNat < 2
  | .accz r _ all => !(all && r != 0)
  | .shift _ c => 0 < c.toNat && c.toNat < 4
  | .drain _ s sc ty _ => 8 ≤ s.toNat && s.toNat < 12 && (sc.toNat < 8 || sc == 12) && ty.toNat < 8
  | .afmt s f _ => s.toNat < 8 && f.toNat < 3
  | .vstat b _ s => s.toNat < 5 && (s == 0 || b == 0)
  | .bind _ _ p _ | .bindg _ _ p _ | .sskip _ p => p.toNat < 12
  | .unbind p post t => p.toNat < 12 && (post || t == 0) && !(post && p.toNat < 8)
  | .sqry _ p s => p.toNat < 12 && s.toNat < 4
  | .cpych _ _ _ k => k != 1
  | .accw _ _ op _ ty _ _ => op.toNat < 7 && ty.toNat < 6 && !([3, 4, 5].contains op.toNat && [2, 3].contains ty.toNat)
  | .casw ga gb _ ty _ _ => ga != 0 && gb != 0 && !ga.getLsbD 0 && !gb.getLsbD 0 && ty.toNat < 2
  | .msend _ _ _ t _ post | .mcast _ _ _ t _ post => post || t == 0
  | .mqry _ s f => !([1, 2].contains s.toNat && f != 0)
  | .barr _ _ _ pd | .bwait _ _ pd _ => pd != 0
  | .bqry ga _ _ _ => ga != 0
  | .mrgfin _ _ bf16 raw => !(bf16 && raw)
  | .domeq _ _ entry s => !(entry && s != 0)
  | .sfload _ _ _ ns => ns.toNat ≤ 32
  | _ => true
where
  /-- Tables 7.6, 10.9, 11.6, 12.7, 13.10, 14.6, 15.5, 17.8 and 20.3. -/
  csrAssigned (n : Nat) : Bool :=
    n ≤ 4 || (0x10 ≤ n && n ≤ 0x17) || (0x20 ≤ n && n ≤ 0x31) || n == 0x40 || n == 0x41 || n == 0x48 ||
    (0x50 ≤ n && n ≤ 0x56) || (0x58 ≤ n && n ≤ 0x64) || (0x68 ≤ n && n ≤ 0x6B) || (0x70 ≤ n && n ≤ 0x73) ||
    n == 0x78 || n == 0x79 || (0x80 ≤ n && n ≤ 0x83) || (0xC0 ≤ n && n ≤ 0xCF)
  /-- Those not read-only in every field (R155). -/
  csrWritable (n : Nat) : Bool :=
    csrAssigned n && !(n ≤ 4 || (0x20 ≤ n && n ≤ 0x2F) || n == 0x40 || n == 0x41 || n == 0x63 || n == 0x64 || n == 0x6B ||
      (0x71 ≤ n && n ≤ 0x73) || n == 0x79 || n == 0x82 || n == 0x83 || 0xC0 ≤ n)

end Sys2Proof
end

