-- ==== Sys2Proof/Decode.lean ====
section
/-! DEFINITION. From words to instructions: the headers (R26-R34), the op syllables of each slot with their refusals in
the order of R35 and the detail of each (R492 and the detail tables of the engine chapters), and the encoder. -/

namespace Sys2Proof

/-- Why a syllable is refused at dispatch (R35): ILLEGAL_OPCODE, or ILLEGAL_ENCODING with its detail. -/
inductive DecodeError where
  | opcode
  | encoding (detail : Nat)
  deriving DecidableEq, Repr

/-- Bits [lo+len-1:lo] of a word. -/
def fld (w : Word32) (lo len : Nat) : BitVec len := w.extractLsb' lo len

/-- A one-bit field. -/
def bit (w : Word32) (i : Nat) : Bool := w.getLsbD i

/-- The first check that fails gives the refusal; an instruction that passes them all is decoded. -/
def checked (checks : List (Bool × Nat)) (i : Instr) : Except DecodeError Instr :=
  match checks.find? (·.1) with
  | some c => .error (.encoding c.2)
  | none => .ok i

/-- A nonzero lend byte of a syllable that uses none (R34). -/
def lendNonzero (lend : Option Byte) : Bool := lend.getD 0 != 0

/-- Checks of a C syllable whose fields under the mask must be zero (R155, R492). -/
def decodeCFields (lend : Option Byte) (w : Word32) (zeros : Word32) (more : List (Bool × Nat)) (i : Instr) :
    Except DecodeError Instr :=
  checked ((w &&& zeros != 0, 0x0705) :: more ++ [(lendNonzero lend, 0x0705)]) i

/-- The C slot (Table 7.2). -/
def decodeC (lend : Option Byte) (w : Word32) : Except DecodeError Instr :=
  let ga := fld w 20 6
  let imm := fld w 0 14
  let c := decodeCFields lend w
  match (fld w 26 6).toNat with
  | 0x00 => c 0x03FFFFFF [] .nop
  | 0x01 => c 0 [] (.br (fld w 6 20) (bit w 5) (fld w 0 5))
  | 0x02 => c 0 [] (.call (fld w 6 20) (bit w 5) (fld w 0 5))
  | 0x03 => c 0x000FFFFF [] (.ret ga)
  | 0x04 => c 0x000FC000 [] (.jmp ga imm)
  | 0x05 => c 0x03CFC000 [] (.loop (fld w 20 2) imm)
  | 0x06 => c 0x03CFC000 [] (.loopr (fld w 20 2) imm)
  | 0x07 => c 0x03C00000 [] (.lexit (fld w 20 2) (bit w 19) (fld w 14 5) imm)
  | 0x08 => c 0x03FFFFE0 [(bit w 0, 0x0703)] (.setrrb (fld w 0 5))
  | 0x09 => c 0x03FFFFFF [] .halt
  | 0x0A => c 0x03FFFFFF [] .yield
  | 0x0B => if bit w 3 then c 0x000FFFF7 [] (.sleeptCyc ga) else c 0x03FFFFF8 [] (.sleept (fld w 0 3))
  | 0x0C => c 0x000FFE00 [(fld w 0 8 == 0, 0x0705)] (.waitt ga (bit w 8) (fld w 0 8))
  | 0x0D => c 0x03FFFF80 [(fld w 0 7 == 0, 0x0705)] (.fencex (fld w 0 7))
  | 0x0E => c 0x03FFFFF0 [] (.phase (fld w 0 4))
  | 0x0F => c 0x03FFC000 [] (.trap imm)
  | 0x10 => c 0x03FFFFFF [] .eret
  | 0x11 => c 0x000FFF00 [(!Instr.wf (.csrr 0 (fld w 0 8)), 0x0701)] (.csrr ga (fld w 0 8))
  | 0x12 => c 0x000FFF00 [(!Instr.wf (.csrr 0 (fld w 0 8)), 0x0701), (!Instr.wf (.csrw 0 (fld w 0 8)), 0x0702)]
      (.csrw ga (fld w 0 8))
  | 0x13 => c 0x000FF000 [] (.temit ga (fld w 0 12))
  | 0x14 => c 0x00083FFC [] (.shape ga (fld w 14 5) (fld w 0 2))
  | 0x15 => if bit w 2 then c 0x000FFFFB [] (.shapeqCap ga) else c 0x000FFFF8 [] (.shapeq ga (fld w 0 2))
  | 0x16 => c 0x020803E0 [] (.plog (fld w 20 5) (fld w 14 5) (fld w 0 5) (fld w 10 4))
  | 0x17 => c 0x000FFFFF [] (.pmovg ga)
  | 0x18 => c 0x00003FFF [] (.pmovp ga (fld w 14 6))
  | 0x19 => c 0x000FFFFF [] (.rdcyc ga)
  | 0x1A => c 0x03FFFFFE [] (.setpri (bit w 0))
  | 0x1B => c 0x00083FF0 [(!Instr.wf (.slice ga 0 (fld w 0 4)), 0x0704)] (.slice ga (fld w 14 5) (fld w 0 4))
  | 0x1C => c 0x000FFFFF [] (.replan ga)
  | 0x1D => c 0x03FFC000 [] (.bkpt imm)
  | op => if op < 0x38 then .error .opcode else .ok (.extensionOpcode (fld w 26 3) (fld w 0 26))

/-- F-R3 (R39, R204): the first n variants, rs2 zero in the one-source forms, and the bank rule last. -/
def decodeR3 (lend : Option Byte) (w : Word32) (variants : Nat) (unary : Bool) (mk : R3 → Instr) : Except DecodeError Instr :=
  let o : R3 := ⟨fld w 20 6, fld w 14 6, fld w 8 6, bit w 7, fld w 2 5, fld w 0 2⟩
  checked [((unary && o.rs2 != 0) || lendNonzero lend, 0x0804), (variants ≤ o.var.toNat, 0x0803),
    (sameBank o.rs1 o.rs2, 0x0802)] (mk o)

/-- CMP (R194). -/
def decodeCmp (lend : Option Byte) (w : Word32) : Except DecodeError Instr :=
  let o : R3 := ⟨fld w 20 6, fld w 14 6, fld w 8 6, bit w 7, fld w 2 5, fld w 0 2⟩
  checked [(lendNonzero lend, 0x0804), (o.rd.getLsbD 5 && o.var.toNat < 2, 0x0803), (sameBank o.rs1 o.rs2, 0x0802)] (.cmp o)

/-- F-RI, with the lend byte above the immediate (R40). -/
def decodeRI (lend : Option Byte) (w : Word32) (mk : RI → Instr) : Except DecodeError Instr :=
  .ok (mk ⟨fld w 20 6, fld w 14 6, fld w 0 14, lend⟩)

/-- SHLI, SHRI, SRAI (R40, R189). -/
def decodeShift (lend : Option Byte) (w : Word32) (mk : ShiftI → Instr) : Except DecodeError Instr :=
  let o : ShiftI := ⟨fld w 20 6, fld w 14 6, bit w 6, fld w 0 6⟩
  checked [(fld w 7 7 != 0 || !o.wf || lendNonzero lend, 0x0804)] (mk o)

/-- LDI, LDIH (R40). -/
def decodeLoadI (lend : Option Byte) (w : Word32) (mk : LoadI → Instr) : Except DecodeError Instr :=
  checked [(fld w 14 6 != 0, 0x0804)] (mk ⟨fld w 20 6, fld w 0 14, lend⟩)

/-- Base plus offset (R41). -/
def decodeMem (lend : Option Byte) (w : Word32) (sizes : Nat) (mk : MemOff → Instr) : Except DecodeError Instr :=
  let o : MemOff := ⟨fld w 20 6, fld w 14 6, fld w 11 3, fld w 0 11, lend⟩
  checked [(sizes ≤ o.size.toNat, 0x0803)] (mk o)

/-- Base plus shifted index (R41, R47). -/
def decodeMemIdx (lend : Option Byte) (w : Word32) (sizes : Nat) (mk : MemIdx → Instr) : Except DecodeError Instr :=
  let o : MemIdx := ⟨fld w 20 6, fld w 14 6, fld w 11 3, fld w 5 6, fld w 2 3⟩
  checked [(fld w 0 2 != 0 || lendNonzero lend, 0x0804), (sizes ≤ o.size.toNat, 0x0803), (sameBank o.base o.idx, 0x0802)] (mk o)

/-- HLD, HST (R41). -/
def decodeMemHandle (lend : Option Byte) (w : Word32) (mk : MemHandle → Instr) : Except DecodeError Instr :=
  checked [(fld w 24 2 != 0, 0x0804), (fld w 11 3 != 0, 0x0803)] (mk ⟨fld w 20 4, fld w 14 6, fld w 0 11, lend⟩)

/-- The X and Y slots (Table 8.2). -/
def decodeXY (lend : Option Byte) (w : Word32) : Except DecodeError Instr :=
  let r3 := decodeR3 lend w
  match (fld w 26 6).toNat with
  | 0x00 => checked [(fld w 0 26 != 0 || lendNonzero lend, 0x0804)] .nop
  | 0x01 => r3 3 false .add
  | 0x02 => r3 3 false .sub
  | 0x03 => r3 1 false .and
  | 0x04 => r3 1 false .or
  | 0x05 => r3 1 false .xor
  | 0x06 => r3 2 false .shl
  | 0x07 => r3 2 false .shr
  | 0x08 => r3 2 false .sra
  | 0x09 => r3 2 false .mul
  | 0x0A => r3 1 false .mulh
  | 0x0B => r3 1 false .mulhu
  | 0x0C => r3 2 false .min
  | 0x0D => r3 2 false .max
  | 0x0E => r3 2 false .minu
  | 0x0F => r3 2 false .maxu
  | 0x10 => decodeRI lend w .addi
  | 0x11 => decodeRI lend w .andi
  | 0x12 => decodeRI lend w .ori
  | 0x13 => decodeRI lend w .xori
  | 0x14 => decodeShift lend w .shli
  | 0x15 => decodeShift lend w .shri
  | 0x16 => decodeShift lend w .srai
  | 0x17 => decodeLoadI lend w .ldi
  | 0x18 => decodeLoadI lend w .ldih
  | 0x19 => decodeCmp lend w
  | 0x1A => checked [(bit w 25 && !bit w 13, 0x0803)] (.cmpi ⟨fld w 20 6, fld w 14 6, fld w 0 14, lend⟩)
  | 0x1B => r3 1 false .sel
  | 0x1C => r3 2 false .bfx
  | 0x1D => r3 1 false .bfi
  | 0x1E => r3 1 false .fshl
  | 0x1F => r3 1 false .fshr
  | 0x20 => r3 2 true .popc
  | 0x21 => r3 2 true .clz
  | 0x22 => r3 2 true .ctz
  | 0x23 => r3 2 true .brev
  | 0x24 => r3 2 false .div
  | 0x25 => r3 2 false .divu
  | 0x26 => r3 2 false .remu
  | 0x28 => decodeMem lend w 7 .ld
  | 0x29 => decodeMem lend w 4 .st
  | 0x2A => decodeMem lend w 7 .ldacq
  | 0x2B => decodeMem lend w 4 .strel
  | 0x2C => decodeMemIdx lend w 7 .ldx
  | 0x2D => decodeMemIdx lend w 4 .stx
  | 0x2E => decodeMemHandle lend w .hld
  | 0x2F => decodeMemHandle lend w .hst
  | 0x30 => checked [(fld w 24 2 != 0 || 0x10 < (fld w 0 14).toNat || lendNonzero lend, 0x0804)]
      (.hset (fld w 20 4) (fld w 14 6) (fld w 0 14))
  | 0x31 => checked [(fld w 18 2 != 0 || 0x10 < (fld w 0 14).toNat || lendNonzero lend, 0x0804)]
      (.hget (fld w 20 6) (fld w 14 4) (fld w 0 14))
  | op => if op < 0x38 then .error .opcode else .ok (.extensionOpcode (fld w 26 3) (fld w 0 26))

/-- The fields of F-V (R42); the lend byte is kept where a source broadcasts. -/
def vop (lend : Option Byte) (w : Word32) : VOp :=
  { dst := fld w 22 4, a := fld w 18 4, b := fld w 14 4, c := fld w 10 4, mask := fld w 8 2, ty := fld w 4 4, md := fld w 0 4,
    lend := if fld w 18 4 == 15 || fld w 14 4 == 15 || fld w 10 4 == 15 then lend else none }

/-- The V checks in the order of R237: type, modifier, operand codes, mask, lend byte. -/
def decodeVop (lend : Option Byte) (w : Word32) (typeOk modOk readsOk maskOk : VOp → Bool) (mk : VOp → Instr) :
    Except DecodeError Instr :=
  let o := vop lend w
  checked [(!typeOk o, 0x0A02), (!modOk o, 0x0A03), (!readsOk o, 0x0A04), (!maskOk o, 0x0A05), (!o.lendOk, 0x0A04),
    (o.lend.isNone && lendNonzero lend, 0x0A04)] (mk o)

/-- VDIGEST (Table 10.8): init, absorb, finish. -/
def decodeVdigest (lend : Option Byte) (w : Word32) : Except DecodeError Instr :=
  let o := vop lend w
  let absorb := o.md == 1
  checked [(o.ty != 0, 0x0A02), (2 < o.md.toNat, 0x0A03),
    (!o.readsA || (!absorb && o.a != 12) || (o.md != 2 && o.dst != 0), 0x0A04), (o.mask != 0, 0x0A05), (!o.lendOk, 0x0A04),
    (o.lend.isNone && lendNonzero lend, 0x0A04)]
    (if absorb then .vdigestAbsorb o.a o.lend else if o.md == 0 then .vdigestInit else .vdigestFinish o.dst)

/-- VMOVG (Table 10.5). -/
def decodeVmovg (lend : Option Byte) (w : Word32) : Except DecodeError Instr :=
  let o := vop lend w
  let g : BitVec 6 := o.mask ++ o.dst
  let m : BitVec 2 := fld w 4 2
  let tail : List (Bool × Nat) := [(!o.lendOk, 0x0A04), (o.lend.isNone && lendNonzero lend, 0x0A04)]
  match o.md.toNat with
  | 0 => checked ((o.ty != 0, 0x0A02) :: (!o.readsA, 0x0A04) :: tail) (.vmovg g o.a o.lend)
  | 1 => checked ((decide (3 < o.ty.toNat), 0x0A02) :: (!o.readsA || o.a != 12, 0x0A04) :: tail) (.vmovgM g m)
  | 2 => checked ((decide (3 < o.ty.toNat), 0x0A02) :: (!o.readsA || o.a != 15 || o.dst != 0, 0x0A04) ::
      (o.mask != 0 || m == 0, 0x0A05) :: tail) (.vmovgSetm m o.lend)
  | _ => .error (.encoding 0x0A03)

/-- The V slot (Table 10.2). -/
def decodeV (lend : Option Byte) (w : Word32) : Except DecodeError Instr :=
  let v := decodeVop lend w
  let any : VOp → Bool := fun _ => true
  let dash : VOp → Bool := fun o => o.md == 0
  let round : VOp → Bool := fun o => o.roundOk && !o.md.getLsbD 0
  let cond : VOp → Bool := fun o => !o.md.getLsbD 0
  match (fld w 26 6).toNat with
  | 0x00 => checked [(fld w 0 26 != 0 || lendNonzero lend, 0x0A04)] .nop
  | 0x01 => v VOp.isF VOp.roundOk VOp.readsAB any .fadd
  | 0x02 => v VOp.isF VOp.roundOk VOp.readsAB any .fsub
  | 0x03 => v VOp.isF VOp.roundOk VOp.readsAB any .fmul
  | 0x04 => v VOp.isF VOp.roundOk any any .fma
  | 0x05 => v VOp.isF VOp.roundOk any any .fms
  | 0x06 => v VOp.isF VOp.roundOk VOp.readsAB any .fmin
  | 0x07 => v VOp.isF VOp.roundOk VOp.readsAB any .fmax
  | 0x08 => v VOp.isF VOp.roundOk VOp.readsAB any .fdiv
  | 0x09 => v VOp.isF VOp.roundOk VOp.readsA any .fsqrt
  | 0x0A => v VOp.isF VOp.roundOk VOp.readsA any .frcp
  | 0x0B => v VOp.isF VOp.roundOk VOp.readsA any .frsq
  | 0x0C => v VOp.isF VOp.roundOk VOp.readsA any .fexp2
  | 0x0D => v VOp.isF VOp.roundOk VOp.readsA any .flog2
  | 0x0E => v VOp.isF cond VOp.readsAB VOp.maskOk .fcmp
  | 0x0F => v VOp.isF dash VOp.readsA any .fclass
  | 0x10 => v VOp.isI VOp.plainOk VOp.readsAB any .iadd
  | 0x11 => v VOp.isI VOp.plainOk VOp.readsAB any .isub
  | 0x12 => v VOp.isI VOp.plainOk VOp.readsAB any .imul
  | 0x13 => v VOp.isI dash VOp.readsAB any .iand
  | 0x14 => v VOp.isI dash VOp.readsAB any .ior
  | 0x15 => v VOp.isI dash VOp.readsAB any .ixor
  | 0x16 => v VOp.isI VOp.plainOk VOp.readsAB any .ishl
  | 0x17 => v VOp.isI dash VOp.readsAB any .ishr
  | 0x18 => v VOp.isI dash VOp.readsAB any .isra
  | 0x19 => v VOp.isI (fun o => cond o && (o.md.extractLsb' 1 3).toNat < 6) VOp.readsAB VOp.maskOk .icmp
  | 0x1A => v VOp.isI dash VOp.readsAB any .imin
  | 0x1B => v VOp.isI dash VOp.readsAB any .imax
  | 0x1C => v VOp.isW dash any any .vsel
  | 0x1D => v (fun o => o.ty == 0) (fun o => o.md.toNat < 3)
      (fun o => (o.md == 0 || o.a == 12) && (o.md == 1 || o.b == 12) && (o.md == 2 || o.c == 12)) any .movl
  | 0x1E => v VOp.isW dash VOp.readsAB any .vbcast
  | 0x1F => v VOp.isW dash any any .vperm
  | 0x20 => v (fun o => o.ty.toNat < 12 && o.b.toNat < 12) round VOp.readsAB any .cvt
  | 0x21 => v (fun o => [5, 6, 7].contains o.ty.toNat && o.b.toNat < 2) round VOp.readsAB any .qpack
  | 0x22 => v (fun o => o.isF || o.isI) (fun o => if o.isF then round o else o.plainOk) VOp.readsA any .vreds
  | 0x23 => v (fun o => o.isF || o.isI) VOp.plainOk VOp.readsA any .vredm
  | 0x24 => v VOp.isS32 (fun o => o.md.toNat < 4 && !(o.ty == 0 && o.md.getLsbD 0)) VOp.readsA any .vscan
  | 0x25 => v VOp.isW (fun o => cond o && o.md.toNat < 12) VOp.readsA any .vcompress
  | 0x26 => v VOp.isW dash any any .vlut
  | 0x27 => v VOp.isI VOp.plainOk VOp.readsAB any .vbfx
  | 0x28 => v VOp.isI VOp.plainOk any any .vfsh
  | 0x29 => v VOp.isS32 any (fun o => o.b == 15 && o.c == 12) any .vldx
  | 0x2A => v VOp.isS32 any (fun o => o.b == 15 && o.dst == 0) any .vstx
  | 0x2B => v (fun o => [0, 9, 10, 11].contains o.ty.toNat) dash (fun o => o.a == 12 && o.readsA) any .vrng
  | 0x2C => v VOp.isF round (fun o => o.c == 15) any .vdrop
  | 0x2D => decodeVdigest lend w
  | 0x2E => decodeVmovg lend w
  | op => if op < 0x38 then .error .opcode else .ok (.extensionOpcode (fld w 26 3) (fld w 0 26))

/-- The M slot (Table 11.4). Every refused field carries 0x0B06. -/
def decodeM (lend : Option Byte) (w : Word32) : Except DecodeError Instr :=
  let row := fld w 20 6
  let s := fld w 16 4
  let sh := fld w 13 3
  let bank := fld w 10 3
  let m (zeros : Word32) (i : Instr) : Except DecodeError Instr :=
    checked [(w &&& zeros != 0 || !i.wf || lendNonzero lend, 0x0B06)] i
  match (fld w 26 6).toNat with
  | 0x00 => m 0x03FFFFFF .nop
  | 0x01 => m 0x03FFFFFC (.wfmt (fld w 0 2))
  | 0x02 => m 0x03F00380 (.wload s sh bank (fld w 0 7))
  | 0x03 => m 0x03FFFFFF .wswap
  | 0x04 => m 0x0000E3FE (.push row s bank (bit w 0))
  | 0x05 => m 0x0000E3FC (.pushx row s bank (bit w 0) (bit w 1))
  | 0x06 => m 0x0000E3FC (.pushg row s bank (bit w 0) (bit w 1))
  | 0x07 => m 0x000FFFFC (.accz row (bit w 0) (bit w 1))
  | 0x08 => m 0x000F1FFF (.shift row sh)
  | 0x09 => m 0x0000FC01 (.drain row s (fld w 6 4) (fld w 2 4) (bit w 1))
  | 0x0A => m 0x03F0FC00 (.afmt s (fld w 8 2) (fld w 0 8))
  | op => if op < 0x38 then .error .opcode else .ok (.extensionOpcode (fld w 26 3) (fld w 0 26))

/-- The D slot (Table 12.5). Every refused field carries 0x0C07; the column forms use the lend byte. -/
def decodeD (lend : Option Byte) (w : Word32) : Except DecodeError Instr :=
  let bank := fld w 21 5
  let col : ColOp := ⟨bank, fld w 17 4, fld w 11 6, fld w 0 11, lend⟩
  let d (zeros : Word32) (i : Instr) : Except DecodeError Instr :=
    checked [(w &&& zeros != 0 || !i.wf || lendNonzero lend, 0x0C07)] i
  match (fld w 26 6).toNat with
  | 0x00 => d 0x03FFFFFF .nop
  | 0x01 => d 0x000000FF (.act bank (fld w 8 13))
  | 0x02 => d 0x001FFFFF (.pre bank)
  | 0x03 => d 0x03FFFFFF .prea
  | 0x04 => .ok (.rd col)
  | 0x05 => .ok (.rdx col)
  | 0x06 => .ok (.wr col)
  | 0x07 => .ok (.wrm col)
  | 0x08 => d 0x001FFFFF (.refpb bank)
  | 0x09 => d 0x03FFFFFF .refab
  | 0x0A => d 0x001E0000 (.vstat bank (fld w 11 6) (fld w 0 11))
  | op => if op < 0x38 then .error .opcode else .ok (.extensionOpcode (fld w 26 3) (fld w 0 26))

/-- The refused-field detail of a Q opcode's chapter (R492). -/
def qDetail (op : Nat) : Nat :=
  if op < 0x08 then 0x0910 else if op < 0x10 then 0x0D0E else if op < 0x18 then 0x0E09 else if op < 0x20 then 0x0F08
  else if op < 0x28 then 0x100A else 0x1108

/-- The Q slot (Tables 9.6, 13.3, 14.4, 15.4, 16.4, 17.5). -/
def decodeQ (lend : Option Byte) (w : Word32) : Except DecodeError Instr :=
  let ga := fld w 20 6
  let gb := fld w 14 6
  let h := fld w 10 4
  let t := fld w 7 3
  let port := fld w 3 4
  let op := (fld w 26 6).toNat
  let q (zeros : Word32) (i : Instr) : Except DecodeError Instr :=
    checked [(w &&& zeros != 0 || !i.wf || lendNonzero lend, qDetail op)] i
  match op with
  | 0x00 => q 0x03FFFFFF .nop
  | 0x01 => q 0x000FC383 (.bind ga h port (bit w 2))
  | 0x02 => q 0x000FC383 (.bindg ga h port (bit w 2))
  | 0x03 => q 0x03FFFC06 (.unbind port (bit w 0) t)
  | 0x04 => q 0x000FFF87 (.sskip ga port)
  | 0x05 => q 0x000FFF80 (.sqry ga port (fld w 0 3))
  | 0x08 => q 0x00000001 (.cpy ga gb (fld w 12 2) (fld w 10 2) t (fld w 1 6))
  | 0x09 => q 0x030FC07F (.cpyb (fld w 20 4) h t)
  | 0x0A => q 0x000FF01F (.cpych ga (fld w 10 2) t (fld w 5 2))
  | 0x0B => q 0x00000002 (.accw ga gb h t (fld w 4 3) (fld w 2 2) (bit w 0))
  | 0x0C => q 0x00003C02 (.casw ga gb t (fld w 4 3) (fld w 2 2) (bit w 0))
  | 0x0D => q 0x000FFC7C (.tokq ga t (fld w 0 2))
  | 0x0E => q 0x03FFFC7F (.tokclr t)
  | 0x10 => q 0 (.msend ga gb h t (fld w 1 6) (bit w 0))
  | 0x11 => q 0 (.mcast ga gb h t (fld w 1 6) (bit w 0))
  | 0x12 => q 0x00000381 (.mland ga gb h (fld w 1 6))
  | 0x13 => q 0x000FF381 (.mqry ga (fld w 10 2) (fld w 1 6))
  | 0x18 => q 0x00003C7F (.binit ga gb t)
  | 0x19 => q 0x00003C03 (.barr ga gb t (fld w 2 5))
  | 0x1A => q 0x00003F81 (.bwait ga gb (fld w 2 5) (bit w 1))
  | 0x1B => q 0x000FFC7F (.binv ga t)
  | 0x1C => q 0x00003C7C (.bqry ga gb t (fld w 0 2))
  | 0x20 => q 0x00003C7E (.pgsub ga gb t (bit w 0))
  | 0x21 => q 0x000FFFFF (.pgunsub ga)
  | 0x22 => q 0x00003C7C (.pgcast ga gb t (bit w 1) (bit w 0))
  | 0x23 => q 0x000FFFFE (.mrgopen ga (bit w 0))
  | 0x24 => q 0x00003FFF (.mrg ga gb)
  | 0x25 => q 0x00003FFC (.mrgfin ga gb (bit w 1) (bit w 0))
  | 0x26 => q 0x00003FF8 (.domeq ga gb (bit w 2) (fld w 0 2))
  | 0x28 => q 0x00003F80 (.sfload ga gb (bit w 6) (fld w 0 6))
  | 0x29 => q 0x00003FFF (.sfclamp ga gb)
  | 0x2A => q 0x00003FC0 (.sfseed ga gb (bit w 5) (bit w 4) (fld w 0 4))
  | 0x2B => q 0x00003C78 (.sfsweep ga gb t (fld w 0 3))
  | 0x2C => q 0x00003FFF (.sfread ga gb)
  | 0x2D => q 0x00003FFF (.sfwrite ga gb)
  | 0x2E => q 0x000FFC7C (.sfqry ga t (fld w 0 2))
  | op => if op < 0x38 then .error .opcode else .ok (.extensionOpcode (fld w 26 3) (fld w 0 26))

/-- An op syllable by its slot number (Table 2.5). -/
def decode (slot : Nat) (lend : Option Byte) (w : Word32) : Except DecodeError Instr :=
  match slot with
  | 0 => decodeC lend w
  | 1 | 2 => decodeXY lend w
  | 3 => decodeV lend w
  | 4 => decodeM lend w
  | 5 => decodeD lend w
  | 6 => decodeQ lend w
  | _ => .error .opcode

/-- The slot numbers a presence mask names, in slot order (Table 2.2: bit 28 is C, bit 22 is Q). -/
def presentSlots (p : BitVec 7) : List Nat := (List.range 7).filter fun k => p.getLsbD (6 - k)

/-- The fields of a plain header (Table 2.2). -/
def headerOf (w : Word32) : Header := ⟨fld w 22 7, fld w 18 4, bit w 17, fld w 8 8, fld w 5 3⟩

/-- A header, with the word after it for kind 010 (R26-R34, R492). -/
def decodeHeader (w lend : Word32) : Except DecodeError Instr :=
  match (fld w 29 3).toNat with
  | 0 => checked [(bit w 16 || fld w 0 5 != 0 || !(headerOf w).wf, 0x0201)] (.plainBundle (headerOf w))
  | 1 => checked [(fld w 0 16 != 0, 0x0201)] (.emptyRun (fld w 16 13))
  | 2 => checked [(bit w 16 || fld w 0 5 != 0 || !(headerOf w).wf, 0x0201), (fld w 22 7 == 0, 0x0202),
      (!Instr.wf (.plainBundleWithLend (headerOf w) lend), 0x0203)] (.plainBundleWithLend (headerOf w) lend)
  | _ => .error (.encoding 0x0200)

/-- The lend byte of the k-th present op syllable, in a bundle with a lend syllable (R34). -/
def lendByte (lend : Option Word32) (k : Nat) : Option Byte :=
  match lend with
  | some l => if k < 4 then some (l.extractLsb' (8 * k) 8) else none
  | none => none

/-- How many words of the code follow a header (R24). -/
def bundleLength (w : Word32) : Nat :=
  match (fld w 29 3).toNat with
  | 0 => 1 + (presentSlots (fld w 22 7)).length
  | 2 => 2 + (presentSlots (fld w 22 7)).length
  | _ => 1

/-- One op syllable of a bundle as the fetch finds it: slot, lend byte, word. -/
def bundleOps (w : Word32) (rest : List Word32) : List (Nat × Option Byte × Word32) :=
  let lend : Option Word32 := if (fld w 29 3).toNat == 2 then rest.head? else none
  let ops := if lend.isSome then rest.drop 1 else rest
  ((presentSlots (fld w 22 7)).zip ops).mapIdx fun k so => (so.1, lendByte lend k, so.2)

/-- The words of a bundle from its bytes, least significant byte first (R1). -/
def wordsOf : List Byte → List Word32
  | b0 :: b1 :: b2 :: b3 :: rest => (b3 ++ b2 ++ b1 ++ b0) :: wordsOf rest
  | _ => []

/-- An op syllable from its opcode and bits [25:0]. -/
def word (op : BitVec 6) (rest : BitVec 26) : Word32 := op ++ rest

/-- F-R3 bits [25:0] (R39). -/
def encR3 (o : R3) : BitVec 26 := o.rd ++ o.rs1 ++ o.rs2 ++ BitVec.ofBool o.neg ++ o.guard ++ o.var

/-- F-V bits [25:0] (R42). -/
def encV (o : VOp) : BitVec 26 := o.dst ++ o.a ++ o.b ++ o.c ++ o.mask ++ o.ty ++ o.md

/-- A plain header (Table 2.2). -/
def encHeader (kind : BitVec 3) (h : Header) : Word32 :=
  kind ++ h.present ++ h.stall ++ BitVec.ofBool h.sync ++ (0 : BitVec 1) ++ h.wait ++ h.scope ++ (0 : BitVec 5)

/-- The word of a header or op syllable, written from the encoding tables. A step without an encoding has none. -/
def encode : Instr → Word32
  | .nop => 0
  | .plainBundle h => encHeader 0 h
  | .plainBundleWithLend h _ => encHeader 2 h
  | .emptyRun n => ((1 : BitVec 3) ++ n ++ (0 : BitVec 16) : BitVec 32)
  | .extensionOpcode x y => ((7 : BitVec 3) ++ x ++ y : BitVec 32)
  | .br d n g => word 0x01 (d ++ BitVec.ofBool n ++ g)
  | .call d n g => word 0x02 (d ++ BitVec.ofBool n ++ g)
  | .ret ga => word 0x03 (ga ++ (0 : BitVec 20))
  | .jmp ga i => word 0x04 (ga ++ (0 : BitVec 6) ++ i)
  | .loop n i => word 0x05 ((0 : BitVec 4) ++ n ++ (0 : BitVec 6) ++ i)
  | .loopr n i => word 0x06 ((0 : BitVec 4) ++ n ++ (0 : BitVec 6) ++ i)
  | .lexit n x p i => word 0x07 ((0 : BitVec 4) ++ n ++ BitVec.ofBool x ++ p ++ i)
  | .setrrb v => word 0x08 ((0 : BitVec 21) ++ v)
  | .halt => word 0x09 ((0 : BitVec 26))
  | .yield => word 0x0A ((0 : BitVec 26))
  | .sleept t => word 0x0B ((0 : BitVec 23) ++ t)
  | .sleeptCyc ga => word 0x0B (ga ++ (0 : BitVec 16) ++ (8 : BitVec 4))
  | .waitt ga y m => word 0x0C (ga ++ (0 : BitVec 11) ++ BitVec.ofBool y ++ m)
  | .fencex m => word 0x0D ((0 : BitVec 19) ++ m)
  | .phase g => word 0x0E ((0 : BitVec 22) ++ g)
  | .trap c => word 0x0F ((0 : BitVec 12) ++ c)
  | .eret => word 0x10 ((0 : BitVec 26))
  | .csrr ga c => word 0x11 (ga ++ (0 : BitVec 12) ++ c)
  | .csrw ga c => word 0x12 (ga ++ (0 : BitVec 12) ++ c)
  | .temit ga t => word 0x13 (ga ++ (0 : BitVec 8) ++ t)
  | .shape ga p z => word 0x14 (ga ++ (0 : BitVec 1) ++ p ++ (0 : BitVec 12) ++ z)
  | .shapeq ga z => word 0x15 (ga ++ (0 : BitVec 18) ++ z)
  | .shapeqCap ga => word 0x15 (ga ++ (0 : BitVec 17) ++ (4 : BitVec 3))
  | .plog pd pa pb tt => word 0x16 ((0 : BitVec 1) ++ pd ++ (0 : BitVec 1) ++ pa ++ tt ++ (0 : BitVec 5) ++ pb)
  | .pmovg ga => word 0x17 (ga ++ (0 : BitVec 20))
  | .pmovp ga gb => word 0x18 (ga ++ gb ++ (0 : BitVec 14))
  | .rdcyc ga => word 0x19 (ga ++ (0 : BitVec 20))
  | .setpri p => word 0x1A ((0 : BitVec 25) ++ BitVec.ofBool p)
  | .slice ga p k => word 0x1B (ga ++ (0 : BitVec 1) ++ p ++ (0 : BitVec 10) ++ k)
  | .replan ga => word 0x1C (ga ++ (0 : BitVec 20))
  | .bkpt c => word 0x1D ((0 : BitVec 12) ++ c)
  | .add o => word 0x01 (encR3 o)
  | .sub o => word 0x02 (encR3 o)
  | .and o => word 0x03 (encR3 o)
  | .or o => word 0x04 (encR3 o)
  | .xor o => word 0x05 (encR3 o)
  | .shl o => word 0x06 (encR3 o)
  | .shr o => word 0x07 (encR3 o)
  | .sra o => word 0x08 (encR3 o)
  | .mul o => word 0x09 (encR3 o)
  | .mulh o => word 0x0A (encR3 o)
  | .mulhu o => word 0x0B (encR3 o)
  | .min o => word 0x0C (encR3 o)
  | .max o => word 0x0D (encR3 o)
  | .minu o => word 0x0E (encR3 o)
  | .maxu o => word 0x0F (encR3 o)
  | .addi o => word 0x10 (o.rd ++ o.rs1 ++ o.imm)
  | .andi o => word 0x11 (o.rd ++ o.rs1 ++ o.imm)
  | .ori o => word 0x12 (o.rd ++ o.rs1 ++ o.imm)
  | .xori o => word 0x13 (o.rd ++ o.rs1 ++ o.imm)
  | .shli o => word 0x14 (o.rd ++ o.rs1 ++ (0 : BitVec 7) ++ BitVec.ofBool o.narrow ++ o.count)
  | .shri o => word 0x15 (o.rd ++ o.rs1 ++ (0 : BitVec 7) ++ BitVec.ofBool o.narrow ++ o.count)
  | .srai o => word 0x16 (o.rd ++ o.rs1 ++ (0 : BitVec 7) ++ BitVec.ofBool o.narrow ++ o.count)
  | .ldi o => word 0x17 (o.rd ++ (0 : BitVec 6) ++ o.imm)
  | .ldih o => word 0x18 (o.rd ++ (0 : BitVec 6) ++ o.imm)
  | .cmp o => word 0x19 (encR3 o)
  | .cmpi o => word 0x1A (o.rd ++ o.rs1 ++ o.imm)
  | .sel o => word 0x1B (encR3 o)
  | .bfx o => word 0x1C (encR3 o)
  | .bfi o => word 0x1D (encR3 o)
  | .fshl o => word 0x1E (encR3 o)
  | .fshr o => word 0x1F (encR3 o)
  | .popc o => word 0x20 (encR3 o)
  | .clz o => word 0x21 (encR3 o)
  | .ctz o => word 0x22 (encR3 o)
  | .brev o => word 0x23 (encR3 o)
  | .div o => word 0x24 (encR3 o)
  | .divu o => word 0x25 (encR3 o)
  | .remu o => word 0x26 (encR3 o)
  | .ld o => word 0x28 (o.data ++ o.base ++ o.size ++ o.off)
  | .st o => word 0x29 (o.data ++ o.base ++ o.size ++ o.off)
  | .ldacq o => word 0x2A (o.data ++ o.base ++ o.size ++ o.off)
  | .strel o => word 0x2B (o.data ++ o.base ++ o.size ++ o.off)
  | .ldx o => word 0x2C (o.data ++ o.base ++ o.size ++ o.idx ++ o.shift ++ (0 : BitVec 2))
  | .stx o => word 0x2D (o.data ++ o.base ++ o.size ++ o.idx ++ o.shift ++ (0 : BitVec 2))
  | .hld o => word 0x2E ((0 : BitVec 2) ++ o.h ++ o.base ++ (0 : BitVec 3) ++ o.off)
  | .hst o => word 0x2F ((0 : BitVec 2) ++ o.h ++ o.base ++ (0 : BitVec 3) ++ o.off)
  | .hset h rs c => word 0x30 ((0 : BitVec 2) ++ h ++ rs ++ c)
  | .hget rd h c => word 0x31 (rd ++ (0 : BitVec 2) ++ h ++ c)
  | .fadd o => word 0x01 (encV o)
  | .fsub o => word 0x02 (encV o)
  | .fmul o => word 0x03 (encV o)
  | .fma o => word 0x04 (encV o)
  | .fms o => word 0x05 (encV o)
  | .fmin o => word 0x06 (encV o)
  | .fmax o => word 0x07 (encV o)
  | .fdiv o => word 0x08 (encV o)
  | .fsqrt o => word 0x09 (encV o)
  | .frcp o => word 0x0A (encV o)
  | .frsq o => word 0x0B (encV o)
  | .fexp2 o => word 0x0C (encV o)
  | .flog2 o => word 0x0D (encV o)
  | .fcmp o => word 0x0E (encV o)
  | .fclass o => word 0x0F (encV o)
  | .iadd o => word 0x10 (encV o)
  | .isub o => word 0x11 (encV o)
  | .imul o => word 0x12 (encV o)
  | .iand o => word 0x13 (encV o)
  | .ior o => word 0x14 (encV o)
  | .ixor o => word 0x15 (encV o)
  | .ishl o => word 0x16 (encV o)
  | .ishr o => word 0x17 (encV o)
  | .isra o => word 0x18 (encV o)
  | .icmp o => word 0x19 (encV o)
  | .imin o => word 0x1A (encV o)
  | .imax o => word 0x1B (encV o)
  | .vsel o => word 0x1C (encV o)
  | .movl o => word 0x1D (encV o)
  | .vbcast o => word 0x1E (encV o)
  | .vperm o => word 0x1F (encV o)
  | .cvt o => word 0x20 (encV o)
  | .qpack o => word 0x21 (encV o)
  | .vreds o => word 0x22 (encV o)
  | .vredm o => word 0x23 (encV o)
  | .vscan o => word 0x24 (encV o)
  | .vcompress o => word 0x25 (encV o)
  | .vlut o => word 0x26 (encV o)
  | .vbfx o => word 0x27 (encV o)
  | .vfsh o => word 0x28 (encV o)
  | .vldx o => word 0x29 (encV o)
  | .vstx o => word 0x2A (encV o)
  | .vrng o => word 0x2B (encV o)
  | .vdrop o => word 0x2C (encV o)
  | .vdigestInit => 0xB4333000
  | .vdigestAbsorb a _ => word 0x2D ((0 : BitVec 4) ++ a ++ (12 : BitVec 4) ++ (12 : BitVec 4) ++ (0 : BitVec 6) ++ (1 : BitVec 4))
  | .vdigestFinish d => word 0x2D (d ++ (12 : BitVec 4) ++ (12 : BitVec 4) ++ (12 : BitVec 4) ++ (0 : BitVec 6) ++ (2 : BitVec 4))
  | .vmovg g a _ => word 0x2E (g.extractLsb' 0 4 ++ a ++ (12 : BitVec 4) ++ (12 : BitVec 4) ++ g.extractLsb' 4 2 ++ (0 : BitVec 8))
  | .vmovgM g m => word 0x2E (g.extractLsb' 0 4 ++ (12 : BitVec 4) ++ (12 : BitVec 4) ++ (12 : BitVec 4) ++ g.extractLsb' 4 2 ++ (0 : BitVec 2) ++ m ++ (1 : BitVec 4))
  | .vmovgSetm m _ => word 0x2E ((0 : BitVec 4) ++ (15 : BitVec 4) ++ (12 : BitVec 4) ++ (12 : BitVec 4) ++ (0 : BitVec 4) ++ m ++ (2 : BitVec 4))
  | .wfmt f => word 0x01 ((0 : BitVec 24) ++ f)
  | .wload s p b k => word 0x02 ((0 : BitVec 6) ++ s ++ p ++ b ++ (0 : BitVec 3) ++ k)
  | .wswap => word 0x03 ((0 : BitVec 26))
  | .push r s b f => word 0x04 (r ++ s ++ (0 : BitVec 3) ++ b ++ (0 : BitVec 9) ++ BitVec.ofBool f)
  | .pushx r h b f a => word 0x05 (r ++ h ++ (0 : BitVec 3) ++ b ++ (0 : BitVec 8) ++ BitVec.ofBool a ++ BitVec.ofBool f)
  | .pushg r h b f a => word 0x06 (r ++ h ++ (0 : BitVec 3) ++ b ++ (0 : BitVec 8) ++ BitVec.ofBool a ++ BitVec.ofBool f)
  | .accz r fp all => word 0x07 (r ++ (0 : BitVec 18) ++ BitVec.ofBool all ++ BitVec.ofBool fp)
  | .shift r c => word 0x08 (r ++ (0 : BitVec 4) ++ c ++ (0 : BitVec 13))
  | .drain r s sc ty zero => word 0x09 (r ++ s ++ (0 : BitVec 6) ++ sc ++ ty ++ BitVec.ofBool zero ++ (0 : BitVec 1))
  | .afmt s f c => word 0x0A ((0 : BitVec 6) ++ s ++ (0 : BitVec 6) ++ f ++ c)
  | .act b r => word 0x01 (b ++ r ++ (0 : BitVec 8))
  | .pre b => word 0x02 (b ++ (0 : BitVec 21))
  | .prea => word 0x03 ((0 : BitVec 26))
  | .rd o => word 0x04 (o.bank ++ o.col ++ o.gs ++ o.off)
  | .rdx o => word 0x05 (o.bank ++ o.col ++ o.gs ++ o.off)
  | .wr o => word 0x06 (o.bank ++ o.col ++ o.gs ++ o.off)
  | .wrm o => word 0x07 (o.bank ++ o.col ++ o.gs ++ o.off)
  | .refpb b => word 0x08 (b ++ (0 : BitVec 21))
  | .refab => word 0x09 ((0 : BitVec 26))
  | .vstat b g s => word 0x0A (b ++ (0 : BitVec 4) ++ g ++ s)
  | .bind ga h p w => word 0x01 (ga ++ (0 : BitVec 6) ++ h ++ (0 : BitVec 3) ++ p ++ BitVec.ofBool w ++ (0 : BitVec 2))
  | .bindg ga h p w => word 0x02 (ga ++ (0 : BitVec 6) ++ h ++ (0 : BitVec 3) ++ p ++ BitVec.ofBool w ++ (0 : BitVec 2))
  | .unbind p post t => word 0x03 ((0 : BitVec 16) ++ t ++ p ++ (0 : BitVec 2) ++ BitVec.ofBool post)
  | .sskip ga p => word 0x04 (ga ++ (0 : BitVec 13) ++ p ++ (0 : BitVec 3))
  | .sqry ga p s => word 0x05 (ga ++ (0 : BitVec 13) ++ p ++ s)
  | .cpy ga gb d s t l => word 0x08 (ga ++ gb ++ d ++ s ++ t ++ l ++ (0 : BitVec 1))
  | .cpyb hd hs t => word 0x09 ((0 : BitVec 2) ++ hd ++ (0 : BitVec 6) ++ hs ++ t ++ (0 : BitVec 7))
  | .cpych ga ch t k => word 0x0A (ga ++ (0 : BitVec 8) ++ ch ++ t ++ k ++ (0 : BitVec 5))
  | .accw ga gb op t ty k r => word 0x0B (ga ++ gb ++ op ++ t ++ ty ++ k ++ (0 : BitVec 1) ++ BitVec.ofBool r)
  | .casw ga gb t ty k r => word 0x0C (ga ++ gb ++ (0 : BitVec 4) ++ t ++ ty ++ k ++ (0 : BitVec 1) ++ BitVec.ofBool r)
  | .tokq ga t s => word 0x0D (ga ++ (0 : BitVec 10) ++ t ++ (0 : BitVec 5) ++ s)
  | .tokclr t => word 0x0E ((0 : BitVec 16) ++ t ++ (0 : BitVec 7))
  | .msend ga gb n t f post => word 0x10 (ga ++ gb ++ n ++ t ++ f ++ BitVec.ofBool post)
  | .mcast ga gb n t f post => word 0x11 (ga ++ gb ++ n ++ t ++ f ++ BitVec.ofBool post)
  | .mland ga gb n f => word 0x12 (ga ++ gb ++ n ++ (0 : BitVec 3) ++ f ++ (0 : BitVec 1))
  | .mqry ga s f => word 0x13 (ga ++ (0 : BitVec 8) ++ s ++ (0 : BitVec 3) ++ f ++ (0 : BitVec 1))
  | .binit ga gb t => word 0x18 (ga ++ gb ++ (0 : BitVec 4) ++ t ++ (0 : BitVec 7))
  | .barr ga gb t pd => word 0x19 (ga ++ gb ++ (0 : BitVec 4) ++ t ++ pd ++ (0 : BitVec 2))
  | .bwait ga gb pd y => word 0x1A (ga ++ gb ++ (0 : BitVec 7) ++ pd ++ BitVec.ofBool y ++ (0 : BitVec 1))
  | .binv ga t => word 0x1B (ga ++ (0 : BitVec 10) ++ t ++ (0 : BitVec 7))
  | .bqry ga gb t s => word 0x1C (ga ++ gb ++ (0 : BitVec 4) ++ t ++ (0 : BitVec 5) ++ s)
  | .pgsub ga gb t d => word 0x20 (ga ++ gb ++ (0 : BitVec 4) ++ t ++ (0 : BitVec 6) ++ BitVec.ofBool d)
  | .pgunsub ga => word 0x21 (ga ++ (0 : BitVec 20))
  | .pgcast ga gb t d c => word 0x22 (ga ++ gb ++ (0 : BitVec 4) ++ t ++ (0 : BitVec 5) ++ BitVec.ofBool d ++ BitVec.ofBool c)
  | .mrgopen ga d => word 0x23 (ga ++ (0 : BitVec 19) ++ BitVec.ofBool d)
  | .mrg ga gb => word 0x24 (ga ++ gb ++ (0 : BitVec 14))
  | .mrgfin ga gb f r => word 0x25 (ga ++ gb ++ (0 : BitVec 12) ++ BitVec.ofBool f ++ BitVec.ofBool r)
  | .domeq ga gb e s => word 0x26 (ga ++ gb ++ (0 : BitVec 11) ++ BitVec.ofBool e ++ s)
  | .sfload ga gb r ns => word 0x28 (ga ++ gb ++ (0 : BitVec 7) ++ BitVec.ofBool r ++ ns)
  | .sfclamp ga gb => word 0x29 (ga ++ gb ++ (0 : BitVec 14))
  | .sfread ga gb => word 0x2C (ga ++ gb ++ (0 : BitVec 14))
  | .sfwrite ga gb => word 0x2D (ga ++ gb ++ (0 : BitVec 14))
  | .sfseed ga gb k e m => word 0x2A (ga ++ gb ++ (0 : BitVec 8) ++ BitVec.ofBool k ++ BitVec.ofBool e ++ m)
  | .sfsweep ga gb t k => word 0x2B (ga ++ gb ++ (0 : BitVec 4) ++ t ++ (0 : BitVec 4) ++ k)
  | .sfqry ga t s => word 0x2E (ga ++ (0 : BitVec 10) ++ t ++ (0 : BitVec 5) ++ s)
  | _ => 0

/-- The lend byte that an op syllable needs beside its word (R34). -/
def lendOf : Instr → Option Byte
  | .addi o | .andi o | .ori o | .xori o | .cmpi o => o.lend
  | .ldi o | .ldih o => o.lend
  | .ld o | .st o | .ldacq o | .strel o => o.lend
  | .hld o | .hst o => o.lend
  | .rd o | .rdx o | .wr o | .wrm o => o.lend
  | .vdigestAbsorb _ l | .vmovg _ _ l | .vmovgSetm _ l => l
  | .fadd o | .fsub o | .fmul o | .fma o | .fms o | .fmin o | .fmax o | .fdiv o | .fsqrt o | .frcp o | .frsq o | .fexp2 o | .flog2 o | .fcmp o | .fclass o | .iadd o | .isub o | .imul o | .iand o | .ior o | .ixor o | .ishl o
  | .ishr o | .isra o | .icmp o | .imin o | .imax o | .vsel o | .movl o | .vbcast o | .vperm o | .cvt o | .qpack o | .vreds o | .vredm o | .vscan o | .vcompress o | .vlut o | .vbfx o | .vfsh o | .vldx o | .vstx o | .vrng o | .vdrop o => o.lend
  | _ => none

/-- The slot whose opcode table holds the instruction (Tables 2.13-2.17); X for both X and Y, C for NOP and the extension
window, which every slot holds; 7 for a header (Table 2.5); none for a step without an encoding. -/
def slotOf : Instr → Option Nat
  | .plainBundle _ | .plainBundleWithLend _ _ | .emptyRun _ => some 7
  | .nop | .extensionOpcode _ _ | .br _ _ _ | .call _ _ _ | .ret _ | .jmp _ _ | .loop _ _ | .loopr _ _
    | .lexit _ _ _ _ | .setrrb _ | .halt | .yield | .sleept _ | .sleeptCyc _ | .waitt _ _ _ | .fencex _ | .phase _
    | .trap _ | .eret | .csrr _ _ | .csrw _ _ | .temit _ _ | .shape _ _ _ | .shapeq _ _ | .shapeqCap _
    | .plog _ _ _ _ | .pmovg _ | .pmovp _ _ | .rdcyc _ | .setpri _ | .slice _ _ _ | .replan _ | .bkpt _ => some 0
  | .add _ | .sub _ | .and _ | .or _ | .xor _ | .shl _ | .shr _ | .sra _ | .mul _ | .mulh _ | .mulhu _ | .min _
    | .max _ | .minu _ | .maxu _ | .addi _ | .andi _ | .ori _ | .xori _ | .shli _ | .shri _ | .srai _ | .ldi _
    | .ldih _ | .cmp _ | .cmpi _ | .sel _ | .bfx _ | .bfi _ | .fshl _ | .fshr _ | .popc _ | .clz _ | .ctz _ | .brev _
    | .div _ | .divu _ | .remu _ | .ld _ | .st _ | .ldacq _ | .strel _ | .ldx _ | .stx _ | .hld _ | .hst _
    | .hset _ _ _ | .hget _ _ _ => some 1
  | .fadd _ | .fsub _ | .fmul _ | .fma _ | .fms _ | .fmin _ | .fmax _ | .fdiv _ | .fsqrt _ | .frcp _ | .frsq _
    | .fexp2 _ | .flog2 _ | .fcmp _ | .fclass _ | .iadd _ | .isub _ | .imul _ | .iand _ | .ior _ | .ixor _ | .ishl _
    | .ishr _ | .isra _ | .icmp _ | .imin _ | .imax _ | .vsel _ | .movl _ | .vbcast _ | .vperm _ | .cvt _ | .qpack _
    | .vreds _ | .vredm _ | .vscan _ | .vcompress _ | .vlut _ | .vbfx _ | .vfsh _ | .vldx _ | .vstx _ | .vrng _
    | .vdrop _ | .vdigestInit | .vdigestAbsorb _ _ | .vdigestFinish _ | .vmovg _ _ _ | .vmovgM _ _ | .vmovgSetm _ _ => some 3
  | .wfmt _ | .wload _ _ _ _ | .wswap | .push _ _ _ _ | .pushx _ _ _ _ _ | .pushg _ _ _ _ _ | .accz _ _ _
    | .shift _ _ | .drain _ _ _ _ _ | .afmt _ _ _ => some 4
  | .act _ _ | .pre _ | .prea | .rd _ | .rdx _ | .wr _ | .wrm _ | .refpb _ | .refab | .vstat _ _ _ => some 5
  | .bind _ _ _ _ | .bindg _ _ _ _ | .unbind _ _ _ | .sskip _ _ | .sqry _ _ _ | .cpy _ _ _ _ _ _ | .cpyb _ _ _
    | .cpych _ _ _ _ | .accw _ _ _ _ _ _ _ | .casw _ _ _ _ _ _ | .tokq _ _ _ | .tokclr _ | .msend _ _ _ _ _ _
    | .mcast _ _ _ _ _ _ | .mland _ _ _ _ | .mqry _ _ _ | .binit _ _ _ | .barr _ _ _ _ | .bwait _ _ _ _ | .binv _ _
    | .bqry _ _ _ _ | .pgsub _ _ _ _ | .pgunsub _ | .pgcast _ _ _ _ _ | .mrgopen _ _ | .mrg _ _ | .mrgfin _ _ _ _
    | .domeq _ _ _ _ | .sfload _ _ _ _ | .sfclamp _ _ | .sfseed _ _ _ _ _ | .sfsweep _ _ _ _ | .sfread _ _
    | .sfwrite _ _ | .sfqry _ _ _ => some 6
  | _ => none

/-- Bits that the row of an instruction in the opcode tables fixes; more fixed bits mean a more specific row. -/
def fixedBits : Instr → Nat
  | .extensionOpcode _ _ => 3
  | .shl _ | .shr _ | .sra _ | .mul _ | .min _ | .max _ | .minu _ | .maxu _ | .bfx _ | .div _ | .divu _ | .remu _ 
    | .cpy _ _ _ _ _ _ | .accw _ _ _ _ _ _ _ => 7
  | .and _ | .or _ | .xor _ | .mulh _ | .mulhu _ | .sel _ | .bfi _ | .fshl _ | .fshr _ | .ldx _ | .stx _ | .hset _ _ _ 
    | .hget _ _ _ => 8
  | .plainBundle _ | .plainBundleWithLend _ _ | .vfsh _ => 9
  | .lexit _ _ _ _ | .fadd _ | .fsub _ | .fmul _ | .fmin _ | .fmax _ | .fdiv _ | .vsel _ | .vperm _ | .vlut _ 
    | .vstat _ _ _ | .mland _ _ _ _ => 10
  | .hld _ | .hst _ | .fcmp _ | .icmp _ | .cvt _ | .qpack _ | .vdrop _ => 11
  | .jmp _ _ | .ldi _ | .ldih _ | .movl _ | .barr _ _ _ _ => 12
  | .plog _ _ _ _ | .shli _ | .shri _ | .srai _ | .popc _ | .clz _ | .ctz _ | .brev _ | .iadd _ | .isub _ | .imul _ 
    | .ishl _ | .vbfx _ | .drain _ _ _ _ _ | .casw _ _ _ _ _ _ | .sfload _ _ _ _ => 13
  | .temit _ _ | .fsqrt _ | .frcp _ | .frsq _ | .fexp2 _ | .flog2 _ | .iand _ | .ior _ | .ixor _ | .ishr _ | .isra _ 
    | .imin _ | .imax _ | .vbcast _ | .vreds _ | .vldx _ | .vstx _ | .act _ _ | .bwait _ _ _ _ | .sfseed _ _ _ _ _ 
    | .sfsweep _ _ _ _ => 14
  | .vcompress _ | .wload _ _ _ _ | .bqry _ _ _ _ | .pgcast _ _ _ _ _ => 15
  | .loop _ _ | .loopr _ _ | .vscan _ | .pgsub _ _ _ _ => 16
  | .waitt _ _ _ | .slice _ _ _ | .vredm _ | .pushx _ _ _ _ _ | .pushg _ _ _ _ _ | .bind _ _ _ _ | .bindg _ _ _ _ 
    | .binit _ _ _ | .domeq _ _ _ _ => 17
  | .trap _ | .csrr _ _ | .csrw _ _ | .bkpt _ | .fclass _ | .push _ _ _ _ | .afmt _ _ _ | .mqry _ _ _ 
    | .mrgfin _ _ _ _ => 18
  | .emptyRun _ | .shape _ _ _ | .sqry _ _ _ | .cpych _ _ _ _ => 19
  | .pmovp _ _ | .mrg _ _ | .sfclamp _ _ | .sfread _ _ | .sfwrite _ _ => 20
  | .cpyb _ _ _ | .tokq _ _ _ | .sfqry _ _ _ => 21
  | .vrng _ | .vmovg _ _ _ | .vmovgM _ _ | .sskip _ _ => 22
  | .shift _ _ | .binv _ _ => 23
  | .shapeq _ _ | .accz _ _ _ | .unbind _ _ _ => 24
  | .fencex _ | .mrgopen _ _ => 25
  | .ret _ | .sleeptCyc _ | .shapeqCap _ | .pmovg _ | .rdcyc _ | .replan _ | .pgunsub _ => 26
  | .setrrb _ | .pre _ | .refpb _ => 27
  | .phase _ | .vdigestAbsorb _ _ | .vdigestFinish _ | .vmovgSetm _ _ => 28
  | .sleept _ | .tokclr _ => 29
  | .wfmt _ => 30
  | .setpri _ => 31
  | .nop | .halt | .yield | .eret | .vdigestInit | .wswap | .prea | .refab => 32
  | _ => 6

/-- Every instruction that some slot's decoder, or the header decoder, reads from a word, in slot order. -/
def readings (lend : Option Byte) (w : Word32) : List Instr :=
  (decodeHeader w 0 :: [0, 1, 3, 4, 5, 6].map fun k => decode k lend w).filterMap fun r =>
    match r with
    | .ok i => some i
    | .error _ => none

/-- The opcode table's words carry no slot, and one word can stand for an instruction in several slots: the reading whose
row fixes the most bits is answered, the earlier slot first. A word that no slot reads without a lend byte is read with a lend byte
of 0 (log 5). -/
def decodeTableWord (nbits w : Nat) : Option Instr :=
  if nbits ≤ 32 then
    let bare := readings none (BitVec.ofNat 32 w)
    (if bare.isEmpty then readings (some 0) (BitVec.ofNat 32 w) else bare).foldl (fun best i =>
      match best with
      | some j => if fixedBits j < fixedBits i then some i else some j
      | none => some i) none
  else none

end Sys2Proof
end

