-- ==== Sys2Proof/Machine/State.lean ====
section
/-! DEFINITION. The state of one JQ-1152 package: everything the manual gives it, as plain data, with the few fields the
model adds to order the events of one cycle. The comment of each field names the rule it comes from. -/

namespace Sys2Proof.Machine

/-- Byte storage: (address, byte) pairs in one canonical form, which Memory.wf of Machine/Maps.lean states. -/
abbrev Memory := List Host.Cell

/-! ### Registers of a context -/

/-- A register of a context, by physical number (R46, R139): g, p, h, the latches a0-c3 (0-11), m, z, and the CSRs. -/
inductive Reg where
  | g (n : Nat) | p (n : Nat) | h (n : Nat) | v (n : Nat) | m (n : Nat) | z (n : Nat) | csr (n : Nat)
  deriving DecidableEq, Repr

/-- A result on its way to a register (R51, R52): the bits under the mask are replaced for what dispatches from tile cycle vis
on; seq and slot order writes of one cycle; poison says what becomes of the poison bit, none leaving it. A consumer is held
until cycle arrive, and counts that under cause (R493). -/
structure RegWrite where
  reg : Reg
  vis : Nat
  arrive : Nat
  cause : Nat
  seq : Nat
  slot : Nat
  mask : Vec
  val : Vec
  poison : Option Bool
  deriving DecidableEq, Repr

/-- The register files (Tables 8.1, 10.1; R135, R180): values that every syllable still to act may read. Unlisted entries are
zero. -/
structure RegFile where
  g : Table Word64
  gPoison : BitVec 64
  p : BitVec 32
  h : Table Handle
  hPoison : BitVec 16
  v : Table Vec
  vPoison : BitVec 12
  m : Table Word64
  z : Table Word64
  csr : Table Word64
  deriving DecidableEq, Repr

/-! ### Tokens, ports and waits -/

/-- A token t0-t7 (R321, R322): bytes, promise, error flag and its cause, and the first tile cycle in which a completion
counts (R161). -/
structure Token where
  expected : Word64 := 0
  remaining : Word64 := 0
  promise : Word64 := 0
  error : Bool := false
  cause : BitVec 16 := 0
  detail : BitVec 16 := 0
  address : Word64 := 0
  reported : Bool := false
  missed : Word64 := 0
  misses : Nat := 0
  doneFrom : Nat := 0
  deriving DecidableEq, Repr

/-- A bound stream port (R218): the handle copy, W = 128, origin, rows assigned, BINDG, first row not yet arrived, how many
rows are on their way, and the bundle whose BIND, or SSKIP past the end of a repeated stream, began this count of rows. -/
structure Port where
  handle : Handle
  narrow : Bool
  origin : BitVec 56
  position : Nat
  gather : Bool
  arrived : Nat
  fetching : Nat
  bind : Nat
  deriving DecidableEq, Repr

/-- A row given to a syllable at dispatch (R219): the port as it then was and the ordinal, or none for a port that was
unbound or past its end, with the STREAM_FAULT detail. -/
structure RowUse where
  port : Nat
  bound : Option Port
  ordinal : Nat
  fault : Nat
  deriving DecidableEq, Repr

/-- An output row produced and not yet performed (R218, R221): bytes to write from ascending addresses, and the token that
an UNBIND posted for it (R224). -/
structure OutRow where
  port : Nat
  seq : Nat
  bytes : List (Nat × Byte)
  poisoned : Bool
  token : Option Nat
  deriving DecidableEq, Repr

/-! ### Messages beside the mesh (R358, R379) -/

/-- What a message to a barrier home or a page owner asks (R362-R371, R379). -/
inductive Ask where
  | init (cfg : Word64)
  | arrive (phase : BitVec 32)
  | await (phase : BitVec 32)
  | withdraw (phase : BitVec 32)
  | invalidate
  | query (sel : Nat)
  | subscribe (landing : Nat) (d128 : Bool)
  | cancel
  deriving DecidableEq, Repr

/-- A message beside the mesh: the time at which it arrives, the logical tile it goes to, its issuer with its launch tile,
its number, its object or entry, what it asks, the syllable's bundle, token, predicate and physical g register, and its
pending operation. -/
structure Message where
  arrive : Nat
  home : Nat
  who : Who
  launchTile : Nat
  id : Nat
  object : Nat
  ask : Ask
  seq : Nat
  token : Nat
  pd : Nat
  gd : Nat
  pending : Nat
  deriving DecidableEq, Repr

/-- A wait that holds the next bundle (R161, R162, R365): tokens, a cycle, the halt, a barrier phase. seq, addr and present
name the bundle of the wait. A barrier wait has the message it sent, the counted cycles left of a timed form, and the release once
it has landed, as success, detail and tile cycle. -/
inductive Wait where
  | tokens (seq addr : Nat) (present : BitVec 7) (mask : BitVec 8) (any : Bool) (dest : Option Nat)
  | until (seq addr : Nat) (present : BitVec 7) (cycle : Word64)
  | halt (seq addr : Nat) (present : BitVec 7)
  | barrier (seq addr : Nat) (present : BitVec 7) (msg : Message) (left : Option Nat) (answer : Option (Bool × Nat × Nat))
  deriving DecidableEq, Repr

/-! ### Issue -/

/-- A syllable in a slot queue, or at its engine (R73, R74): its word, the bundle it came from, the dispatch cycle and what
its bundle fixed at dispatch (RRB R151, set group R104, rows R219). held is the deviation cause that holds it (R493), left the
tile cycle in which it left its queue, and acted says that it took effect at its dispatch and only keeps its place (R17, R219). sched counts
for the spacing of R74, stamp is the schedule count of its bundle (R340), time the package time of its dispatch (R131, R175), and entries holds
the list entries of its rows, by port, as they were fetched (R215). -/
structure Queued where
  slot : Nat
  word : Word32
  lend : Option Byte
  seq : Nat
  disp : Nat
  sched : Nat
  addr : Nat
  scope : BitVec 3
  rrb : BitVec 5
  group : BitVec 4
  rows : List RowUse
  held : Nat
  left : Nat
  acted : Bool := false
  stamp : Nat := 0
  time : Nat := 0
  entries : Table Nat := []
  deriving DecidableEq, Repr

/-- The syllable that is at its engine: where its context is, and what it is. -/
structure Issued where
  tile : Nat
  place : Nat
  q : Queued
  deriving DecidableEq, Repr

/-- A bundle in flight (R75, R131): present and finished slots by slot number, where it starts and ends, RRB and loop mask
before it, and the rows assigned to it (R220). -/
structure Flight where
  seq : Nat
  addr : Nat
  next : Nat
  disp : Nat
  present : BitVec 7
  done : BitVec 7
  rrb : BitVec 5
  loops : BitVec 4
  remainder : Nat
  rows : List RowUse
  stamp : Nat := 0
  deriving DecidableEq, Repr

/-- What a trap carries (R131): cause, detail, value bits [63:16], address. -/
structure Trap where
  cause : Nat
  detail : Nat := 0
  value : BitVec 48 := 0
  address : Word64 := 0
  deferred : Bool := false
  deriving DecidableEq, Repr

/-- A trap on its way to entry (R75, R128): the bundle and slot that raised it, the done mask where the raising entry fixes
it, and whether the other syllables of its bundle still take effect (R166). -/
structure Stopping where
  trap : Trap
  seq : Nat
  addr : Nat
  slot : Nat
  done : Option (BitVec 7)
  cycle : Word64
  rrb : BitVec 5
  loops : BitVec 4
  remainder : Nat
  deriving DecidableEq, Repr

/-- The pending ERET state (R75, R134, R139), with the rows that stay assigned to the syllables to run again (R220), bundle
by bundle, and the schedule counts of those bundles (R340). -/
structure EretState where
  addr : Nat
  done : BitVec 7
  counts : List Nat
  remainder : Nat
  rows : List (List RowUse)
  stamps : List Nat := []
  deriving DecidableEq, Repr

/-- The last syllable that left a queue (R74): its leave and dispatch cycles, the schedule count, and the cause behind its
slip. -/
structure LastLeave where
  leave : Nat
  disp : Nat
  sched : Nat
  held : Nat
  deriving DecidableEq, Repr

/-- An order in force on paths (R96): accesses on the paths in the mask from bundles at or after seq wait until those before
it are performed, which publishes them at every scope that holds their home (R92). -/
structure Fence where
  seq : Nat
  mask : BitVec 7
  deriving DecidableEq, Repr

/-- A byte overwritten by a syllable of bundle seq, what it wrote there, and whether the granule was poisoned before (R90, R303). -/
structure Undo where
  seq : Nat
  path : Nat
  addr : Nat
  old : Byte
  new : Byte
  bad : Bool
  deriving DecidableEq, Repr

/-- The commands that the minimums of Table 12.2 bind (R288). -/
inductive Command where
  | act | pre | rd | wr | refpb | refab
  deriving DecidableEq, Repr

/-- A blocked episode (R473): the bundle blocked, its cause, the slot of the held syllable (7 for none), its first cycle and its cycles so far. -/
structure Episode where
  bundle : Nat
  cause : Nat
  slot : Nat
  first : Word64
  cycles : Nat
  deriving DecidableEq, Repr

/-- An operation that an engine has taken and not finished (R77, R93): its number, its bundle and its access path, 7 for an
operation that is no access. -/
structure Pending where
  id : Nat
  seq : Nat
  path : Nat
  deriving DecidableEq, Repr

/-- A Sorrel syllable whose command is under way: it holds the Q queue until its reply (R409). -/
structure SfWait where
  seq : Nat
  id : Nat
  deriving DecidableEq, Repr

/-! ### Cigon contexts (R462) -/

/-- What the completion of an instruction of the Cigon form still owes: an x register the slice index or all ones, a
predicate as 0 or 1, or the granted shape; ARRAYCFG its scale code. -/
inductive Owed where
  | nothing
  | slice (rd : Nat)
  | predicate (rd : Nat)
  | shape (rd : Nat)
  | scale (code : BitVec 8)
  deriving DecidableEq, Repr

/-- What a context that runs a translated body holds of its Cigon program beside the g registers (R462): x0-x31 are g0-g31
and f0-f31 the low halves of g32-g63. The pc is a Cigon byte offset; vtype is none with vill set; owed and ready say what the
last instruction still writes, and the tile cycle from which the next may dispatch. -/
structure Cigon where
  pc : Nat
  v : Table Vec
  vtype : Option (BitVec 8)
  vl : Nat
  vstart : Nat
  vxrm : BitVec 2
  vxsat : Bool
  frm : BitVec 3
  owed : Owed
  ready : Nat
  deriving DecidableEq, Repr

/-- A Cigon context at its first instruction (R462). -/
def Cigon.start (entry : Nat) : Cigon :=
  { pc := entry, v := [], vtype := none, vl := 0, vstart := 0, vxrm := 0, vxsat := false, frm := 0, owed := .nothing, ready := 0 }

/-- A hardware context (R139), in an active place, parked or saved. base is the tile cycle from which a stall counts (R29);
resume what ERET left for the next dispatch, skips and again the younger syllables and rows after it (R75, R220); lost the
cause and slot that this cycle counts under (R493); take is set on a victim: true to park, false to save (R141, R142); recent
holds the accumulator rows as the updates of the last eight beats found them (R265: dispatch, row, mode, contents); cigon is
there in a context of a translated body. release is the tile cycle from which the context takes the turn before others (R71, R128, R144), and
found the first 16 bytes of the trap record, with their poison, as an ERET that has dispatched found them (R131). count is the schedule
count of the next new bundle, stamps those of the younger bundles to run again (R340). awaits says that the last bundle held a BWAIT
(R365), timed the package time at which the last BWAIT left its queue (R366). blocks holds, by port, the list entry fetched last: the
binding, its block and the entry (R215). -/
structure Ctx where
  launch : Nat
  num : Nat
  pc : Nat
  remainder : Nat
  regs : RegFile
  writes : List RegWrite
  tokens : Table Token
  ports : Table Port
  outRows : List OutRow
  queues : Table (List Queued)
  flights : List Flight
  last : Table LastLeave
  seq : Nat
  sched : Nat
  base : Nat
  stopping : Option Stopping
  eret : Option EretState
  resume : Option EretState
  skips : List Nat
  again : List (List RowUse)
  wait : Option Wait
  fences : List Fence
  pending : List Pending
  undo : List Undo
  group : BitVec 4
  slicePos : Nat
  home : Nat
  dev : Table Word64
  readyFor : Nat
  release : Option Nat
  yielded : Bool
  take : Option Bool
  away : Bool
  lost : Option (Nat × Nat)
  episode : Option Episode
  dispatched : Nat
  attached : Bool
  heldByDebug : Bool
  stepPending : Bool
  haltRequest : Bool
  passBreak : Bool
  commands : List (Nat × Command × Nat)
  sf : Option SfWait
  timed : Option Nat
  recent : List (Nat × Nat × Bool × Vec)
  cigon : Option Cigon
  found : Option (List Byte × Bool) := none
  count : Nat := 0
  stamps : List Nat := []
  awaits : Bool := false
  blocks : Table (Nat × Nat × Nat) := []
  deriving DecidableEq, Repr

/-! ### Tiles -/

/-- The matrix array (Table 11.1): owner as launch and number, banks by K row, accumulator rows, poison bits, the context
whose image the reserved window holds (R146), and the place whose handover is under way (R145). -/
structure MatrixArray where
  owner : Option (Nat × Nat)
  wb0 : Table (BitVec 128)
  wb1 : Table (BitVec 128)
  acc : Table Vec
  bankPoison : BitVec 2
  rowPoison : BitVec 64
  image : Option (Nat × Nat)
  handover : Option Nat
  deriving DecidableEq, Repr

/-- An array without an owner (R268): all zero. -/
def MatrixArray.empty : MatrixArray :=
  { owner := none, wb0 := [], wb1 := [], acc := [], bankPoison := 0, rowPoison := 0, image := none, handover := none }

/-- A command on a vault's bus (R290): package time, command, bank, and the launch and number of its context, none for the
engine. -/
structure BusEntry where
  time : Nat
  command : Command
  bank : Nat
  source : Option (Nat × Nat)
  deriving DecidableEq, Repr

/-- Data of a RD or RDX on its way to the SRAM (R292): its context and bundle, and 64-byte pieces with their poison. -/
structure Landing where
  launch : Nat
  num : Nat
  seq : Nat
  pieces : List (Nat × List Byte × Bool)
  deriving DecidableEq, Repr

/-- A forced refresh under way (R297): its first cycle F, the rows recorded and not yet re-activated, whether REFAB has been
issued, and the release cycle once known. -/
structure Forced where
  start : Nat
  rows : List (Nat × Nat)
  refreshed : Bool
  deriving DecidableEq, Repr

/-- The vault engine (Table 12.1). Bands are 0 A, 1 B, 2 C; earlier is the band before the last change of the measured one
and changed the time of that change; window is the time at which the grace window ends; stepDue says that a debt increment
falls in this cycle, by the accrual band stepBand in which the cycle began; landed is what has landed in this cycle with the bytes and poison
that it replaced; refreshing lists the banks that the engine has a REFPB of its own for, closing those that it has opened
for a copy (R286), and busy when each is free for its owner again. -/
structure Vault where
  opened : Table Nat
  round : BitVec 32
  debt : Int
  accumulator : Nat
  increments : Nat
  accruing : Bool
  stepDue : Bool
  stepBand : Nat
  measured : Nat
  earlier : Nat
  changed : Nat
  accrual : Nat
  window : Option Nat
  forced : Option Forced
  bus : List BusEntry
  landings : List Landing
  landed : List (Landing × List (Nat × Byte × Bool))
  refreshing : List Nat
  closing : List Nat
  busy : Table Nat
  deriving DecidableEq, Repr

/-- R287: closed, no debt, band A. -/
def Vault.reset : Vault :=
  { opened := [], round := 0, debt := 0, accumulator := 0, increments := 0, accruing := false, stepDue := false, stepBand := 0, measured := 0,
    earlier := 0, changed := 0, accrual := 0, window := none, forced := none, bus := [], landings := [], landed := [], refreshing := [], closing := [],
    busy := [] }

/-- A slot of the vault's save area in use (R143): whose it is, and which of its two images it holds. -/
structure SaveSlot where
  launch : Nat
  num : Nat
  context : Bool
  array : Bool
  deriving DecidableEq, Repr

/-- A chain that a channel runs (R317): the record it is at, its token or the packet it runs for, its context, none for the
command processor, the syllable that started it, the stage (0 record, 1 copy, 2 signal, 3 status), the record's qwords and the
cause and detail of its failure. -/
structure ChainRun where
  record : Word64
  kind : Nat
  token : Option Nat
  packet : Nat
  owner : Option Who
  q : Queued
  pending : Nat
  stage : Nat
  words : List Word64
  cause : Nat
  detail : Nat
  deriving DecidableEq, Repr

/-- A chain channel (R317, R331): its chain if one runs, its resume point as address and kind, whether its last stop was a
failure, and its starting context. -/
structure Channel where
  run : Option ChainRun
  resume : Option (Word64 × Nat)
  failed : Bool
  starter : Nat
  deriving DecidableEq, Repr

def Channel.stopped : Channel := { run := none, resume := none, failed := false, starter := 0 }

def Channel.running (c : Channel) : Bool := c.run.isSome

/-! ### Copies (R308-R330) -/

/-- What an operation of the copy engine does at its home: writes source bytes, accumulates, compares and swaps, stores a
qword of its chain, or reads a chain record. -/
inductive CopyMode where
  | move
  | accw (op ty : Nat) (v : Word64)
  | casw (ty : Nat) (compare new : Word64) (ret : Nat)
  | store (v : Word64)
  | fetch
  deriving DecidableEq, Repr

/-- Bytes that have reached their home (R340): its tile or none, address, bytes, and the offsets of those from poisoned
granules (R137). -/
structure HeldBytes where
  addr : Nat
  bytes : List Byte
  poisoned : List Nat
  deriving DecidableEq, Repr

/-- An operation of the copy engine (R310-R315): its tile, context and syllable; the channel that it serves; its token; its
kinds, bases, row bytes, extents and strides; the bytes done, the bytes that this row has overwritten (R311), the source
bytes in hand with the offsets of poisoned ones, whether it goes on unit by unit since a beat of it failed in part, its issue
cycle, and for its promise the latest cycle, the budget and the host and remote parts so far (R324), the global address that
it reaches now, the cycle of its column behind an activate of the engine's own (R286), the page it waits for and the failure
of that page's walk, the cycles for which a bank has passed it over (R320), the old value of a CASW, what it holds for its
horizon and since when (R340), the launch in whose order it waits, and whether the vault engine applies a held write of it now. -/
structure CopyOp where
  tile : Nat
  owner : Option Who
  chain : Option Nat
  packet : Nat
  q : Queued
  mode : CopyMode
  token : Option Nat
  dkind : Nat
  skind : Nat
  dst : Word64
  src : Word64
  row : Nat
  extents : List Nat
  dstrides : List Nat
  sstrides : List Nat
  total : Nat
  pos : Nat
  saved : List (Nat × Byte)
  savedPoison : List Nat
  hand : Option (List Byte × List Nat)
  fine : Bool
  issued : Word64
  since : Word64
  budget : Nat
  parts : Nat
  reach : Option Word64
  column : Nat
  walk : Option (Word64 × Nat)
  fault : Option (Nat × Nat × Nat)
  passed : Nat
  old : Word64
  held : List HeldBytes
  order : Option (Nat × Word64)
  applying : Bool := false
  deriving DecidableEq, Repr

/-- A page in a tile's translation cache (R328): root, page number at its size, offset bits, leaf. -/
structure TlbEntry where
  root : Word64
  page : Nat
  bits : Nat
  leaf : Word64
  deriving DecidableEq, Repr

/-- An entry of a table at levels 0-2 that the page-walk service holds (R328): root, offset bits of its level, the virtual
address above them, and the entry. -/
structure LevelEntry where
  root : Word64
  bits : Nat
  prefix_ : Nat
  entry : Nat
  deriving DecidableEq, Repr

/-- A walk under way, or waiting for one of the 1,024 that the service runs at once (R328): root, 64 KiB page, and the tiles
that take a miss slot for it. -/
structure Walk where
  root : Word64
  page : Nat
  tiles : List Nat
  deriving DecidableEq, Repr

/-! ### Mesh (R334-R351) -/

/-- A flow of a launch (R336, R337): source launch tile and context, destination launch tiles and context, departure slots, and
its route latency. -/
structure Flow where
  flow : Nat
  source : Nat
  sourceCtx : Nat
  multicast : Bool
  dests : List Nat
  destCtx : Nat
  slots : List Nat
  latency : Nat
  deriving DecidableEq, Repr

/-- A beat that has not departed (R348): its context, flow, departure time and named arrival cycle, row, token, and the tiles of
this package and the context that it goes to, with its latency. -/
structure OutBeat where
  who : Who
  flow : Nat
  depart : Nat
  arrival : Word64
  data : List Byte
  poisoned : List Nat
  token : Option Nat
  pending : Nat
  dests : List Nat
  destCtx : Nat
  latency : Nat
  deriving DecidableEq, Repr

/-- A beat for a context (R341): flow, the arrival cycle it carries, row, and the link-delay mark of R345. -/
structure InBeat where
  launch : Nat
  num : Nat
  flow : Nat
  arrival : Word64
  data : List Byte
  poisoned : List Nat
  linked : Bool
  deriving DecidableEq, Repr

/-! ### Barriers (R355-R371) -/

/-- A waiter of a barrier object (R355): the phase it awaits, and the message that entered it, with launch tile and context. -/
structure Waiter where
  phase : BitVec 32
  msg : Message
  deriving DecidableEq, Repr

/-- A barrier object (R355). -/
structure Barrier where
  owner : Option Nat
  n : Nat
  base : BitVec 32
  counts : List Nat
  waiters : List Waiter
  deriving DecidableEq, Repr

def Barrier.free : Barrier := { owner := none, n := 0, base := 0, counts := [0, 0, 0, 0], waiters := [] }

/-- A message that has not left: a BARR before R93 is met at its scope, or one behind it on its way to one home (R359, R364). -/
structure Unsent where
  release : Option (BitVec 3)
  msg : Message
  deriving DecidableEq, Repr

/-- What a home answers (R360-R371, R379): accepted, refused, a value, an error detail, a release of a wait, that the waiter is
entered, that a subscription missed its cast, or that a subscription ended with some of its bytes. -/
inductive Answer where
  | accepted
  | refused
  | value (v : Word64)
  | error (detail : Nat)
  | released (ok : Bool) (detail : Nat)
  | entered
  | missed
  | finished (bytes : Nat) (detail : Nat)
  deriving DecidableEq, Repr

/-- A reply on its way: the time at which it lands and the message it answers. -/
structure Reply where
  land : Nat
  msg : Message
  answer : Answer
  deriving DecidableEq, Repr

/-- A message, or with an answer a reply, on the links (R358): the time at which it is to enter the next segment, and the
segments to come, each with the cycles to the one after it. -/
structure Moving where
  enters : Nat
  path : List (Nat × Nat)
  msg : Message
  answer : Option Answer
  deriving DecidableEq, Repr

/-! ### Yarrow and the Dome (R376-R394) -/

/-- A pending subscription (R379): tile, landing, context, token, head dimension 128, and its pending operation. -/
structure Subscription where
  who : Who
  landing : Nat
  token : Nat
  d128 : Bool
  pending : Nat
  deriving DecidableEq, Repr

/-- A page entry (R377, R379). -/
structure PageEntry where
  owner : Option Nat
  main : List Subscription
  late : List Subscription
  opened : Bool
  deriving DecidableEq, Repr

def PageEntry.free : PageEntry := { owner := none, main := [], late := [], opened := false }

/-- A queued cast (R388): its context, staging address, head dimension, destinations, token, bundle and next beat. -/
structure Cast where
  who : Who
  seq : Nat
  stage : Nat
  d128 : Bool
  dests : List Subscription
  token : Nat
  next : Nat
  pending : Nat
  deriving DecidableEq, Repr

/-- A cast beat on its way to one destination (R380). -/
structure CastBeat where
  land : Nat
  link : Nat
  sub : Subscription
  index : Nat
  last : Bool
  data : List Byte
  poisoned : List Nat
  deriving DecidableEq, Repr

/-- m, l and o of a partial or a slot as binary32 patterns (R381). -/
structure Partial where
  m : Word32
  l : Word32
  o : List Word32
  deriving DecidableEq, Repr

/-- An open Dome slot (R381). -/
structure DomeSlot where
  owner : Nat
  opener : Who
  d128 : Bool
  n : Nat
  next : Nat
  mask : BitVec 64
  acc : Partial
  deriving DecidableEq, Repr

/-- A record accepted or parked (R383): its context, slot, sequence, contents, whether it holds a reorder entry, and its pending
operation. -/
structure Merge where
  who : Who
  slot : Nat
  s : Nat
  record : Partial
  entry : Bool
  pending : Nat
  deriving DecidableEq, Repr

/-! ### Sorrel (R398-R415) -/

/-- A present cell (R401): links are neighbours by chain index with their weights. -/
structure Cell where
  state : Bool
  clamp : Bool
  bias : Int
  colour : Nat
  links : List (Nat × Int)
  deriving DecidableEq, Repr

/-- A command to a chain (Table 17.4). -/
inductive SfKind where
  | seed (seed swc : Word64) (keep entropy : Bool) (m : Nat)
  | load (first q : Nat) (reset : Bool) (records : List (List Word32))
  | clamp (first q : Nat) (codes : List Nat)
  | write (first q : Nat) (bits : List Bool)
  | read (first q addr : Nat)
  | sweep (n beta k : Nat)
  | query (sel : Nat)
  deriving DecidableEq, Repr

/-- A command with its arrival, issuer and number. -/
structure SfCommand where
  arrive : Nat
  who : Who
  launchTile : Nat
  id : Nat
  part : Nat
  kind : SfKind
  seq : Nat
  token : Nat
  gd : Nat
  pending : Nat
  deriving DecidableEq, Repr

/-- The running sweep: steps left of the repetition and of the whole, and what it has set. -/
structure SfSweep where
  cmd : SfCommand
  left : Nat
  saturated : Bool
  drawn : Bool
  deriving DecidableEq, Repr

/-- A chain of fields (R399, R410): its fields from the first partition up, seed, SWC, mode, present cells, waiting commands, the
running sweep and the end of the command under way. closing says that its launch is over and its last colour step runs (R415). -/
structure SfChain where
  m : Nat
  seed : Word64
  swc : Word64
  entropy : Bool
  cells : Table Cell
  waiting : List SfCommand
  sweep : Option SfSweep
  busy : Nat
  closing : Bool := false
  deriving DecidableEq, Repr

def SfChain.single (seed : Word64) : SfChain :=
  { m := 1, seed := seed, swc := 0, entropy := false, cells := [], waiting := [], sweep := none, busy := 0 }

/-- What a reply of a controller carries (R409, R412-R414): the trap of a refused command, a read image, a value, or the end of a
sweep of n repeats with what it set. -/
inductive SfAnswer where
  | done
  | trap (detail value : Nat)
  | image (addr : Nat) (bytes : List Byte)
  | value (v : Word64)
  | swept (n : Nat) (saturated drawn : Bool)
  deriving DecidableEq, Repr

/-- A controller's reply on its way. -/
structure SfReply where
  land : Nat
  cmd : SfCommand
  answer : SfAnswer
  deriving DecidableEq, Repr

/-- A freeze of a tile (R342): the package time of its first frozen cycle, the first cycle in which the tile's clock stands,
the place of the MLAND that waits, and whether the awaited beat carries the link-delay mark or has a hold entry (R346). -/
structure Freeze where
  since : Nat
  stands : Nat
  place : Nat
  linked : Bool
  deriving DecidableEq, Repr

/-- A trace record made in this cycle: the context that made it, its first qword but for the sequence number, the cycle it
gives and its data (Table 20.1). -/
structure MadeRecord where
  who : Option Who
  head : Word64
  cycle : Word64
  data0 : Word64
  data1 : Word64
  deriving DecidableEq, Repr

/-- A logical tile: its clock, which stands still while the tile is frozen (R72), its issue turn and its engines; arrived lists the copy
operations whose beats its SRAM port has taken and not yet applied, in the order of their arrival (R319), and accepted the slots from which a
syllable has left in this cycle (R234, R265). -/
structure Tile where
  clock : Nat
  turn : Option Nat
  lastHolder : Table Nat
  lines : List Nat
  scLines : List Nat
  ports : List Nat
  vHeld : Nat
  mHeld : Nat
  dHeld : Nat
  columns : Nat
  array : MatrixArray
  slots : Table SaveSlot
  vault : Vault
  begun : List Nat
  freeze : Option Freeze
  channels : Table Channel
  due : List (Nat × Nat × Instr)
  trace : List (Word64 × Word64 × Word64 × Word64)
  traceSeq : BitVec 16
  made : List MadeRecord
  breaks : Table (BitVec 16 × BitVec 4)
  tlb : List TlbEntry
  starved : List Nat
  arrived : List Nat
  accepted : List Nat
  outbound : List OutBeat
  incoming : List (Nat × InBeat)
  landing : List InBeat
  lost : Table Nat
  marks : List (Nat × Nat × Nat × Word64)
  holds : List (Nat × Nat × Nat × Word64)
  thawed : Nat
  barriers : Table Barrier
  messages : List Message
  pages : Table PageEntry
  casts : List Cast
  castBeats : List CastBeat
  dome : Table DomeSlot
  parked : List Merge
  merges : List Merge
  merging : Option Nat
  shadow : Memory
  deriving DecidableEq, Repr

/-- Table 2.3 onward: a tile after reset. -/
def Tile.reset : Tile :=
  { clock := 0, turn := none, lastHolder := [], lines := [], scLines := [], ports := [], vHeld := 0, mHeld := 0, dHeld := 0, columns := 64,
    array := MatrixArray.empty, slots := [], vault := Vault.reset, begun := [],
    freeze := none, channels := [], due := [], trace := [], traceSeq := 0, made := [], breaks := [], tlb := [], starved := [], arrived := [], accepted := [],
    outbound := [], incoming := [], landing := [], lost := [], marks := [], holds := [], thawed := 0, barriers := [], messages := [],
    pages := [], casts := [], castBeats := [], dome := [], parked := [], merges := [], merging := none, shadow := [] }

/-! ### Launches -/

/-- A declared set entry (Table 4.5): granules base to base + length - 1 of the data SRAM or the vault. -/
structure SetEntry where
  perContext : Bool
  group : Nat
  path : Nat
  write : Bool
  vault : Bool
  base : Nat
  length : Nat
  deriving DecidableEq, Repr

/-- One used level of a loop table (Table 3.3); kind 0 temporal, 1 tile, 2 die, 3 package. -/
structure Level where
  extent : Nat
  step : Int
  kind : Nat
  deriving DecidableEq, Repr

/-- How a launch ends other than by halts (R437, Table 18.6): cycle, status, launch tile, context, cause and detail, reason of
R129, value field and place of the failure. -/
structure Ending where
  cycle : Word64
  status : Nat
  launchTile : Nat
  num : Nat
  cause : Nat
  detail : Nat
  reason : Nat
  value : BitVec 48
  place : Word64
  deriving DecidableEq, Repr

/-- A flow entry of an object (Table 19.4): one departure slot of a flow; dest is a launch tile or a mask. -/
structure FlowEntry where
  flow : Nat
  slot : Nat
  multicast : Bool
  sourceCtx : Nat
  destCtx : Nat
  source : Nat
  dest : Nat
  deriving DecidableEq, Repr

/-- A kernel of a loaded object (R447), with the tables it names. -/
structure Kernel where
  entry : Nat
  centry : Nat
  argBytes : Nat
  cmax : Nat
  levels : List Level
  sets : Option (List SetEntry)
  flows : List FlowEntry
  place : List (Nat × Nat)
  banks : List (BitVec 8)
  variants : List (Option Nat)
  data : List (Nat × List Byte)
  deriving DecidableEq, Repr

/-- An instruction of a translated object's Cigon code: its offset and the native address that the Cigon map pairs with it
(R463), its word, the literal of a gl.eng, and the gl.ord before it as release and scope (R467, R468). -/
structure CigonLine where
  off : Nat
  addr : Nat
  word : Word32
  literal : Word32
  order : Option (Bool × BitVec 3)
  deriving DecidableEq, Repr

/-- A resident object (R455): its partitions, the function that loaded it (0 the PF), its code and its kernels; leaving marks a
pending unload, going the partitions that it names (R459), hash is the device's at the load (R471). A translated one keeps its Cigon code with the Cigon map (R463, R471). -/
structure CodeObject where
  partitions : List Nat
  fn : Nat
  trusted : Bool
  origin : Nat
  syllables : Nat
  kernels : List Kernel
  cigon : List CigonLine
  leaving : Bool
  going : List Nat := []
  hash : BitVec 128 := 0
  deriving DecidableEq, Repr

/-- A launch (R57): what its packet and its object fix. partitions are all launch partitions in the order of R58, each with
the ordinal of its package; ordinal is this package's, packages their number; levels are in walk order (R60); place holds the
launch tile of each group index (R64); variants are the addresses of bands A, B, C (R175); claimed counts, by launch tile,
the slices that an unordered launch has handed out (R65). centry is the Cigon offset of its entry where its body is
translated (R462). start is the launch start (R335), none while it waits under R439, order the order of R460; live holds the
contexts that have not halted, by launch tile and number (R78); horizon is the last one delivered (R340); far is what the
links have brought of its other packages (log 3). toward holds, by the ordinal of a package, this package's link port toward it and the
padding of that port (R337, R345). tried says that it has found no room and waits (R439). -/
structure Launch where
  partitions : List (Nat × Nat)
  ordinal : Nat
  packages : Nat
  place : List Nat
  claimed : Table Nat
  contexts : Nat
  deterministic : Bool
  trusted : Bool
  sets : Option (List SetEntry)
  levels : List Level
  variants : List (Option Nat)
  packet : Nat
  priority : Nat
  order : Nat
  object : Nat
  entry : Nat
  centry : Option Nat
  argAddr : Nat
  argBytes : Nat
  seed : Word64
  high : Bool
  data : List (Nat × List Byte)
  banks : List (BitVec 8)
  flows : List Flow
  start : Option Word64
  live : List (Nat × Nat)
  ending : Option Ending
  horizon : Nat
  delivering : Bool
  far : FarProgress
  toward : List (Nat × Nat) := []
  tried : Bool := false
  deriving DecidableEq, Repr

/-- A queue of a function (Table 18.3): the last accepted notify index, whether a slot read is under way, and
the words of a slot that was read with bit 0 set and whose packet waits to start (R431). -/
structure HostQueue where
  base : Nat
  enabled : Bool
  stopped : Bool
  priority : Nat
  log : Nat
  rptr : Word32
  shadow : Nat
  err : Word64
  notify : Word32
  reading : Bool
  taken : List Word64 := []
  deriving DecidableEq, Repr

def HostQueue.reset : HostQueue :=
  { base := 0, enabled := false, stopped := false, priority := 0, log := 4, rptr := 0, shadow := 0, err := 0, notify := 0, reading := false }

/-- A packet that has been read and has not completed (R430-R437): its function, queue and qwords, whether it has started, and the
time at which a WAIT-SIGNAL expires. -/
structure Packet where
  fn : Nat
  queue : Nat
  words : List Word64
  started : Bool
  expiry : Option Nat
  status : Ending
  deriving DecidableEq, Repr

/-! ### The package -/

/-- What one cycle still has to do (log 2): a step with or without an encoding, or a point at which the tile decides. -/
inductive Work where
  | event (i : Instr)
  | waits (tile place : Nat)
  | dispatch (tile : Nat)
  | leave (tile place slot : Nat)
  | enter (tile place : Nat)
  deriving DecidableEq, Repr

/-- A debug access to a memory that goes on (R478): the bytes read or written so far, those read, the cycles in which it was passed over, and
the vault bank that the engine opens for it with the time from which its column may go. -/
structure Probe where
  done : Nat
  got : List Byte
  passed : Nat
  bank : Option (Nat × Nat)
  column : Nat
  deriving DecidableEq, Repr

/-- The package (Table 1.2): registers of Table 18.2 by offset, queues by 8 times their function, packets and objects by
number, launches and their order, page walks and invalidations, the remap entries that name another tile than their own (R10)
and the failed tiles, the Sorrel fields' launches by partition and chains by first partition, board power of the last ten
samples and whether launch starts are stopped (R22), the recovery state and measurements (R487, R488), the open debug path
(R489), the snapshot trigger with its fired number and what it latched (R479), supply steps, suspect tiles and tiles being
moved (R490, R491), the last answer to a request from outside, whether a TEMIT has fired the trigger, the health records
(R485: tile, structure, 0 corrected or 1 detected, cycle), the EVENT bits for which the package waits (R22, R298), the reason
of the recovery state, and whether the package has halted (Table 21.1), the ports that have found a peer with this package's
own id (R23), and the status with which every context ends at its next bundle boundary while the package halts its launches
(R22, R298), and the cycle in which the command processor acted on it (R437); whether domain alignment is being established (R20), the
management events that MSI-X vector 0 has carried (R420), the debug access to a memory under way, the commands of the debug path that have come
and not acted, and whether the first of them waits for its memory (R476, R478), and the trap records that have reached the debugger (R477). -/
structure Hub where
  pkgid : BitVec 14
  microcode : BitVec 32
  entries : List (Nat × Nat × List Byte)
  launches : Table Launch
  counters : Table Word64
  regs : Table Word64
  queues : Table HostQueue
  packets : Table Packet
  objects : Table CodeObject
  order : Nat
  walks : List Walk
  levels : List LevelEntry
  remap : Table (Option Nat)
  failed : List Nat
  owners : Table Nat
  chains : Table SfChain
  watts : List Nat
  stopped : Bool
  recovery : Bool
  measurements : Table (List Byte)
  debugOpen : Bool
  nonce : Nat
  armed : Bool
  fired : Nat
  snapshot : List Word64
  supply : Table Nat
  suspect : List Nat
  moving : List Nat
  answer : List Byte
  tagged : Bool
  health : List (Nat × Nat × Nat × Word64)
  waits : Word64
  reason : Word64
  halted : Bool
  conflicts : List Nat
  halting : Option Nat
  haltAt : Word64 := 0
  aligning : Bool := false
  interrupts : Nat := 0
  probe : Option Probe := none
  debugQueue : List Instr := []
  debugWaits : Bool := false
  records : List (List Byte) := []
  deriving DecidableEq, Repr

def Hub.reset : Hub :=
  { pkgid := 0, microcode := 1, entries := [], launches := [], counters := [], regs := [], queues := [], packets := [], objects := [],
    order := 0, walks := [], levels := [], remap := [], failed := [], owners := [], chains := [], watts := [], stopped := false,
    recovery := false, measurements := [], debugOpen := false, nonce := 0, armed := true, fired := 0, snapshot := [],
    supply := [], suspect := [], moving := [], answer := [], tagged := false, health := [], waits := 0, reason := 0,
    halted := false, conflicts := [], halting := none }

/-- The state of the package. inbox holds what the outside does by cycle, stores what the host writes to its memory; links
are the segments that cast beats take, with their times (R380). Contexts are listed by 16 times their tile plus their place:
0-3 active, 4-5 parked, 8-11 the save slots. Memory is addressed by the global physical addresses of this package (R86). -/
structure State where
  cycle : Word64
  time : Nat
  tiles : Table Tile
  ctxs : Table Ctx
  mem : Memory
  poison : List Nat
  code : Memory
  starts : List Nat
  hub : Hub
  due : List (Nat × Nat × Instr)
  inbox : List (Nat × Instr)
  agenda : List Work
  issuing : Option (Nat × Nat)
  engine : Option Issued
  ids : Nat
  free : Nat
  copies : Table CopyOp
  stores : List (Nat × Nat × List Byte)
  unsent : List Unsent
  replies : List Reply
  sfReplies : List SfReply
  links : List (Nat × Nat)
  moving : List Moving
  abroad : List (Message × Bool)
  deriving DecidableEq, Repr

/-- Why the machine stops. -/
inductive Fault where
  /-- Raised by a step of the table that names a context which does not exist, or an op syllable when no syllable is at its
  engine. No step of the machine asks for it. Safe. -/
  | noSyllable
  deriving DecidableEq, Repr

/-- Why an instruction has no meaning here. -/
inductive Refusal where
  /-- Raised by the arms of Dispatch.lean alone, for an instruction without a meaning. Safe. -/
  | notModelled (mnemonic : String)
  deriving DecidableEq, Repr

/-- The package right after reset (R19, R25, R424): nothing resident, no context, nothing to do. -/
def State.reset : State :=
  { cycle := 0, time := 0, tiles := [], ctxs := [], mem := [], poison := [], code := [], starts := [], hub := Hub.reset,
    due := [], inbox := [], agenda := [], issuing := none, engine := none, ids := 0, free := 0, copies := [],
    stores := [], unsent := [], replies := [], sfReplies := [], links := [], moving := [], abroad := [] }

/-- What a microcode entry makes of its syllable (R458): a trap; registers, each with its latency, and bytes of the data SRAM; or all that
another syllable of its slot does. -/
inductive MicroOutcome where
  | raises (t : Trap)
  | gives (registers : List (Reg × Nat × Vec)) (bytes : List (Nat × List Byte))
  | acts (word : Word32)
  deriving DecidableEq, Repr, Inhabited

end Sys2Proof.Machine

namespace Sys2Proof.Config

/-- What a signed microcode entry does (R458; log 18), from its image, the slot, the opcode, bits [25:0] of the syllable and the registers
of the context. -/
opaque microcode : List Byte → Nat → BitVec 3 → BitVec 26 → Machine.RegFile → Machine.MicroOutcome

end Sys2Proof.Config
end

