-- ==== Sys2Proof/Machine/Maps.lean ====
section
/-! DEFINITION. Sparse tables, byte memories and sorted lists of numbers: the storage operations every other file uses. -/

namespace Sys2Proof

/-! ### Tables by number -/

/-- The entry of a key, if listed. -/
def Table.find? {α : Type} : Table α → Nat → Option α
  | [], _ => none
  | (k, v) :: t, n => if k = n then some v else if n < k then none else Table.find? t n

/-- The entry of a key, or the default of the table. -/
def Table.getD {α : Type} (t : Table α) (n : Nat) (d : α) : α := (Table.find? t n).getD d

/-- Lists an entry, in the order of keys. -/
def Table.put {α : Type} : Table α → Nat → α → Table α
  | [], n, v => [(n, v)]
  | (k, w) :: t, n, v => if n < k then (n, v) :: (k, w) :: t else if n = k then (n, v) :: t else (k, w) :: Table.put t n v

/-- Removes an entry. -/
def Table.erase {α : Type} : Table α → Nat → Table α
  | [], _ => []
  | (k, w) :: t, n => if n < k then (k, w) :: t else if n = k then t else (k, w) :: Table.erase t n

/-- Writes an entry; the default of the table is not listed, so that equal contents are equal tables. -/
def Table.set {α : Type} [DecidableEq α] (t : Table α) (n : Nat) (v d : α) : Table α :=
  if v = d then Table.erase t n else Table.put t n v

/-- Keys rise strictly. -/
def Table.sorted {α : Type} : Table α → Bool
  | [] => true
  | [_] => true
  | (k, _) :: (k', w) :: t => decide (k < k') && Table.sorted ((k', w) :: t)

end Sys2Proof

namespace Sys2Proof.Machine

/-! ### Byte memories -/

/-- What a byte that nothing has written reads as: the manual gives no power-on contents (log 1). -/
def emptyByte : Byte := 0

/-- One byte of a memory. -/
def Memory.read (m : Memory) (a : Nat) : Byte := Table.getD m a emptyByte

/-- Writes one byte. -/
def Memory.write (m : Memory) (a : Nat) (b : Byte) : Memory := Table.set m a b emptyByte

/-- The canonical form: addresses rise strictly and no entry equals what an unlisted byte reads as. -/
def Memory.wf (m : Memory) : Bool := Table.sorted m && m.all fun c => c.2 != emptyByte

/-- n bytes from an address up. -/
def Memory.readN (m : Memory) (a : Nat) : Nat → List Byte
  | 0 => []
  | n + 1 => Memory.read m a :: Memory.readN m (a + 1) n

/-- Consecutive bytes from an address up. -/
def Memory.writeN (m : Memory) (a : Nat) : List Byte → Memory
  | [] => m
  | b :: bs => Memory.writeN (Memory.write m a b) (a + 1) bs

/-- Bytes at listed addresses, in list order. -/
def Memory.writeAll (m : Memory) : List (Nat × Byte) → Memory
  | [] => m
  | (a, b) :: r => Memory.writeAll (Memory.write m a b) r

/-! ### Bytes and numbers, least significant byte first (R1) -/

/-- The number whose little-endian bytes are given. -/
def leNat : List Byte → Nat
  | [] => 0
  | b :: bs => b.toNat + 256 * leNat bs

/-- The n low bytes of a number. -/
def leBytes : Nat → Nat → List Byte
  | 0, _ => []
  | n + 1, v => BitVec.ofNat 8 v :: leBytes n (v / 256)

/-! ### Sorted lists of numbers -/

/-- Inserts a number. -/
def NatSet.insert : List Nat → Nat → List Nat
  | [], n => [n]
  | k :: t, n => if n < k then n :: k :: t else if n = k then k :: t else k :: NatSet.insert t n

/-- Removes a number. -/
def NatSet.erase (l : List Nat) (n : Nat) : List Nat := l.filter (· != n)

/-! ### Fields of a number -/

/-- Bits [lo+len-1:lo] of a number. -/
def bitsOf (v lo len : Nat) : Nat := v / 2 ^ lo % 2 ^ len

/-- A number read as an n-bit two's complement value. -/
def signed (n v : Nat) : Int :=
  let u := v % 2 ^ n
  if 2 * u < 2 ^ n then (u : Int) else (u : Int) - (2 ^ n : Int)

/-- An integer modulo 2^n. -/
def wrapTo (n : Nat) (v : Int) : Nat := (v % (2 ^ n : Int)).toNat

/-- Rounds up to a multiple of a positive number. -/
def ceilTo (n m : Nat) : Nat := (n + m - 1) / m * m

/-- Division rounded up. -/
def ceilDiv (n m : Nat) : Nat := (n + m - 1) / m

end Sys2Proof.Machine
end

