-- ==== Sys2Proof/Machine/Ops.lean ====
section
/-! DEFINITION. The operations every meaning is built from: tiles and contexts, registers in dispatch time (R51, R52),
memory with its poison (R135-R137), the declared sets (R98-R104), and how a syllable ends: done, or with a trap (R75). -/

namespace Sys2Proof.Machine

/-! ### Tiles and contexts -/

/-- A logical tile. -/
def State.tile (s : State) (t : Nat) : Tile := s.tiles.getD t Tile.reset

/-- Changes a tile. -/
def State.updTile (s : State) (t : Nat) (f : Tile → Tile) : State := { s with tiles := s.tiles.put t (f (s.tile t)) }

/-- The key of a context: 16 times its tile plus its place. -/
def ctxKey (tile place : Nat) : Nat := 16 * tile + place

/-- The context at a place of a tile. -/
def State.ctx? (s : State) (tile place : Nat) : Option Ctx := s.ctxs.find? (ctxKey tile place)

/-- Puts a context at a place. -/
def State.putCtx (s : State) (tile place : Nat) (c : Ctx) : State := { s with ctxs := s.ctxs.put (ctxKey tile place) c }

/-- Changes the context at a place, if there is one. -/
def State.updCtx (s : State) (tile place : Nat) (f : Ctx → Ctx) : State :=
  match s.ctx? tile place with
  | some c => s.putCtx tile place (f c)
  | none => s

/-- Empties a place. -/
def State.dropCtx (s : State) (tile place : Nat) : State := { s with ctxs := s.ctxs.erase (ctxKey tile place) }

/-- Every context with its tile and place, in order. -/
def State.allCtxs (s : State) : List (Nat × Nat × Ctx) := s.ctxs.map fun kc => (kc.1 / 16, kc.1 % 16, kc.2)

/-- The contexts of a tile with their places. -/
def State.tileCtxs (s : State) (t : Nat) : List (Nat × Ctx) :=
  (s.allCtxs.filter fun x => x.1 == t).map fun x => x.2

/-- Where a context named by launch and number is held: tile and place. -/
def State.findWho (s : State) (w : Who) : Option (Nat × Nat × Ctx) :=
  s.allCtxs.find? fun x => x.1 == w.tile && x.2.2.launch == w.launch && x.2.2.num == w.num

/-- The tile's clock (R72). -/
def State.clock (s : State) (t : Nat) : Nat := (s.tile t).clock

/-! ### Places on the package (R9, R13) -/

/-- The die of a logical tile. -/
def dieOf (tile : Nat) : Nat := tile / 288

/-- The partition of a logical tile. -/
def partOf (tile : Nat) : Nat := 16 * dieOf tile + 2 * (tile % 288 / 18 / 2) + tile % 18 / 9

/-- The index of a logical tile in its partition. -/
def partIndex (tile : Nat) : Nat := 9 * (tile % 288 / 18 % 2) + tile % 9

/-- The logical tile of a partition and an index. -/
def partTile (part k : Nat) : Nat := 288 * (part / 16) + 18 * (2 * (part % 16 / 2) + k / 9) + 9 * (part % 2) + k % 9

/-! ### Steps to come -/

/-- Lists a step at a time, behind those already listed for it with an order key no greater. -/
def insertDue (l : List (Nat × Nat × Instr)) (at_ key : Nat) (i : Instr) : List (Nat × Nat × Instr) :=
  match l with
  | [] => [(at_, key, i)]
  | (a, k, j) :: r =>
    if at_ < a || (at_ == a && key < k) then (at_, key, i) :: (a, k, j) :: r else (a, k, j) :: insertDue r at_ key i

/-- A step of the package n cycles from now. -/
def State.after (s : State) (n : Nat) (i : Instr) (key : Nat := 0) : State := { s with due := insertDue s.due (s.time + n) key i }

/-- A step n cycles of the tile's clock from now. -/
def State.afterTile (s : State) (t n : Nat) (i : Instr) (key : Nat := 0) : State :=
  s.updTile t fun x => { x with due := insertDue x.due (x.clock + n) key i }

/-- A step of this cycle, next. -/
def State.now (s : State) (i : Instr) : State := { s with agenda := .event i :: s.agenda }

/-- A free latency (log 4): at least one cycle and at most the bound the manual gives. -/
def State.drawDelay (s : State) (bound : Nat) : Nat × State :=
  (1 + Config.delay s.free % bound, { s with free := s.free + 1 })

/-! ### Registers (R46, R51, R52) -/

/-- The physical g register of an encoded number under a rotating base (R46). -/
def physG (n : BitVec 6) (rrb : BitVec 5) : Nat :=
  if n.toNat < 32 then n.toNat else 32 + (n.toNat - 32 + rrb.toNat) % 32

/-- All bits of a register file entry, widened. -/
def RegFile.get (f : RegFile) : Reg → Vec
  | .g n => (f.g.getD n 0).setWidth 2048
  | .p n => if f.p.getLsbD n then 1 else 0
  | .h n => (f.h.getD n 0).setWidth 2048
  | .v n => f.v.getD n 0
  | .m n => (f.m.getD n 0).setWidth 2048
  | .z n => (f.z.getD n 0).setWidth 2048
  | .csr n => (f.csr.getD n 0).setWidth 2048

/-- The poison bit of a register; only g, h and latches have one (R135, R180). -/
def RegFile.poison (f : RegFile) : Reg → Bool
  | .g n => f.gPoison.getLsbD n
  | .h n => f.hPoison.getLsbD n
  | .v n => f.vPoison.getLsbD n
  | _ => false

/-- Sets or clears one bit. -/
def setBit {w : Nat} (v : BitVec w) (n : Nat) (b : Bool) : BitVec w :=
  if b then v ||| BitVec.twoPow w n else v &&& ~~~(BitVec.twoPow w n)

/-- Replaces a whole register. -/
def RegFile.put (f : RegFile) (r : Reg) (v : Vec) : RegFile :=
  match r with
  | .g n => { f with g := f.g.set n (v.setWidth 64) 0 }
  | .p n => { f with p := setBit f.p n (v.getLsbD 0) }
  | .h n => { f with h := f.h.set n (v.setWidth 256) 0 }
  | .v n => { f with v := f.v.set n v 0 }
  | .m n => { f with m := f.m.set n (v.setWidth 64) 0 }
  | .z n => { f with z := f.z.set n (v.setWidth 64) 0 }
  | .csr n => { f with csr := f.csr.set n (v.setWidth 64) 0 }

/-- Writes a poison bit. -/
def RegFile.setPoison (f : RegFile) (r : Reg) (b : Bool) : RegFile :=
  match r with
  | .g n => { f with gPoison := setBit f.gPoison n b }
  | .h n => { f with hPoison := setBit f.hPoison n b }
  | .v n => { f with vPoison := setBit f.vPoison n b }
  | _ => f

/-- A result becomes visible. -/
def RegFile.apply (f : RegFile) (w : RegWrite) : RegFile :=
  let f := f.put w.reg ((f.get w.reg &&& ~~~w.mask) ||| (w.val &&& w.mask))
  match w.poison with
  | some b => f.setPoison w.reg b
  | none => f

/-- g0 and p0 discard writes (R46, R39). -/
def Reg.discards : Reg → Bool
  | .g 0 | .p 0 => true
  | _ => false

/-- R52: by visibility cycle, then bundle, then slot. -/
def RegWrite.before (a b : RegWrite) : Bool :=
  a.vis < b.vis || (a.vis == b.vis && (a.seq < b.seq || (a.seq == b.seq && a.slot ≤ b.slot)))

/-- Keeps the results in the order of R52. -/
def insertWrite (w : RegWrite) : List RegWrite → List RegWrite
  | [] => [w]
  | x :: r => if x.before w then x :: insertWrite w r else w :: x :: r

/-- The registers that a syllable dispatched in tile cycle d reads (R51). -/
def Ctx.regsAt (c : Ctx) (d : Nat) : RegFile := ((c.writes.takeWhile fun w => w.vis ≤ d).foldl RegFile.apply c.regs)

/-- Puts a result on its way. -/
def Ctx.post (c : Ctx) (w : RegWrite) : Ctx := if w.reg.discards then c else { c with writes := insertWrite w c.writes }

/-- A syllable's result: visible latency cycles after its dispatch (R51), all bits, poison as told. -/
def Ctx.result (c : Ctx) (q : Queued) (latency : Nat) (r : Reg) (v : Vec) (poison : Option Bool := some false) : Ctx :=
  c.post ⟨r, q.disp + latency, q.left + latency, q.held, q.seq, q.slot, BitVec.allOnes 2048, v, poison⟩

/-- A syllable's result in a g register named in its word (R46, R151). -/
def Ctx.resultG (c : Ctx) (q : Queued) (latency : Nat) (n : BitVec 6) (v : Word64) (poison : Bool := false) : Ctx :=
  c.result q latency (.g (physG n q.rrb)) (v.setWidth 2048) (some poison)

/-- A syllable's result in a predicate. -/
def Ctx.resultP (c : Ctx) (q : Queued) (latency : Nat) (n : Nat) (b : Bool) : Ctx :=
  c.result q latency (.p n) (if b then 1 else 0)

/-- Sets bits of a sticky CSR when the result becomes visible (R119). -/
def Ctx.setFlags (c : Ctx) (q : Queued) (latency csr : Nat) (flags : Nat) : Ctx :=
  if flags = 0 then c
  else c.post ⟨.csr csr, q.disp + latency, q.left + latency, q.held, q.seq, q.slot, BitVec.ofNat 2048 flags, BitVec.ofNat 2048 flags, none⟩

/-- A register written by the hardware now, seen by what dispatches from the given tile cycle on. -/
def Ctx.writeAt (c : Ctx) (vis : Nat) (r : Reg) (v : Word64) (mask : Word64 := BitVec.allOnes 64) : Ctx :=
  c.post ⟨r, vis, 0, 0, c.seq, 7, mask.setWidth 2048, v.setWidth 2048, some false⟩

/-- A CSR as a syllable dispatched in cycle d reads it from the register file. -/
def Ctx.csrAt (c : Ctx) (d n : Nat) : Word64 := (c.regsAt d).csr.getD n 0

/-- A CSR with every result applied, as the hardware holds it last. -/
def Ctx.csrLast (c : Ctx) (n : Nat) : Word64 := ((c.writes.foldl RegFile.apply c.regs).csr.getD n 0)

/-- A CSR as the bundles before one left it, in program order (R256, R294). -/
def Ctx.csrBefore (c : Ctx) (seq n : Nat) : Word64 :=
  ((c.writes.filter fun w => decide (w.seq < seq)).foldl RegFile.apply c.regs).csr.getD n 0

/-- Puts the result of a CSR whose writes take effect in program order on its way: older ones that would become visible after it come into
force before it, and it before newer ones, so that each syllable finds what the bundles before its own left (R255, R256). -/
def Ctx.postInOrder (c : Ctx) (w : RegWrite) : Ctx :=
  let late (x : RegWrite) : Bool := x.reg == w.reg && decide (x.seq < w.seq ∧ w.vis < x.vis)
  let vis := (c.writes.filter fun x => x.reg == w.reg && decide (w.seq < x.seq)).foldl (fun v x => min v x.vis) w.vis
  let moved := (c.writes.filter late).foldl (fun l x => insertWrite { x with vis := w.vis } l) (c.writes.filter fun x => !late x)
  { c with writes := moved }.post { w with vis := vis }

/-- A g register as read at dispatch, without its poison (R182). -/
def Ctx.gRaw (c : Ctx) (q : Queued) (n : BitVec 6) : Word64 := (c.regsAt q.disp).g.getD (physG n q.rrb) 0

/-- Whether that register is poisoned. -/
def Ctx.gPoisoned (c : Ctx) (q : Queued) (n : BitVec 6) : Bool := (c.regsAt q.disp).gPoison.getLsbD (physG n q.rrb)

/-- A predicate as read at dispatch. -/
def Ctx.pred (c : Ctx) (q : Queued) (n : Nat) : Bool := (c.regsAt q.disp).p.getLsbD n

/-- Results that every syllable still to act sees become part of the files. -/
def Ctx.fold (c : Ctx) (clock : Nat) : Ctx :=
  let oldest := (c.queues.flatMap fun kq => kq.2.map fun q => q.disp).foldl min clock
  let old := c.writes.takeWhile fun w => w.vis ≤ oldest && w.arrive ≤ clock
  { c with regs := old.foldl RegFile.apply c.regs, writes := c.writes.drop old.length }

/-! ### Traps (R75, R128-R134) -/

def causeIllegalOpcode : Nat := 0x01
def causeIllegalEncoding : Nat := 0x02
def causeMisalignedTarget : Nat := 0x03
def causeSramRange : Nat := 0x04
def causePoison : Nat := 0x05
def causeStallUndersized : Nat := 0x06
def causeVaultTiming : Nat := 0x07
def causeVaultOwnership : Nat := 0x08
def causeSetOverlap : Nat := 0x09
def causePromiseMissed : Nat := 0x0A
def causeTranslationFault : Nat := 0x0B
def causePermission : Nat := 0x0C
def causeHostAtomic : Nat := 0x0D
def causeShapeRevalidate : Nat := 0x0E
def causeStreamFault : Nat := 0x0F
def causeBarrierError : Nat := 0x10
def causeDomeError : Nat := 0x11
def causeFieldError : Nat := 0x12
def causePeerHalted : Nat := 0x13
def causeCodeRevoked : Nat := 0x14
def causeBreakpoint : Nat := 0x15
def causeSoftware : Nat := 0x16
def causeArrayOwnership : Nat := 0x17
def causeMeshSlot : Nat := 0x18

/-- POISON of a g register (detail 0x0020; value [21:16] is the register as encoded). -/
def poisonG (n : BitVec 6) : Trap := { cause := causePoison, detail := 0x20, value := n.setWidth 48 }

/-- A g operand, or POISON (R138). -/
def Ctx.g (c : Ctx) (q : Queued) (n : BitVec 6) : Except Trap Word64 :=
  if c.gPoisoned q n then .error (poisonG n) else .ok (c.gRaw q n)

/-- A handle operand, or POISON (R180). -/
def Ctx.h (c : Ctx) (q : Queued) (n : BitVec 4) : Except Trap Handle :=
  if (c.regsAt q.disp).hPoison.getLsbD n.toNat then
    .error { cause := causePoison, detail := 0x24, value := n.setWidth 48 }
  else .ok ((c.regsAt q.disp).h.getD n.toNat 0)

/-- How a syllable ends: with its effect, or with a trap in the state it leaves. -/
inductive Act where
  | done (s : State)
  | trap (s : State) (t : Trap)

/-- The syllables of a queue that a stop at bundle seq leaves in it (R75): the older ones, and an UNBIND, whose later steps
run whatever trap follows (R219). -/
def keepOlder (seq : Nat) (qs : List Queued) : List Queued :=
  qs.filter fun q => q.seq < seq || (q.slot == 6 && fld q.word 26 6 == 3)

/-- Stops the context at a trap. The oldest trapping syllable is the one that stops it (R75). -/
def Ctx.stop (c : Ctx) (st : Stopping) : Ctx :=
  match c.stopping with
  | some old => if old.seq ≤ st.seq then c else { c with stopping := some st, queues := c.queues.map fun kq => (kq.1, keepOlder st.seq kq.2) }
  | none => { c with stopping := some st, queues := c.queues.map fun kq => (kq.1, keepOlder st.seq kq.2) }

/-- A stop at a syllable of a bundle in flight; the done mask is the bundle's own unless the entry fixes it. -/
def Ctx.trapAt (c : Ctx) (cycle : Word64) (seq slot : Nat) (t : Trap) (done : Option (BitVec 7) := none) : Ctx :=
  match c.flights.find? fun f => f.seq == seq with
  | some f => c.stop ⟨t, seq, f.addr, slot, done, cycle, f.rrb, f.loops, f.remainder⟩
  | none => c.stop ⟨t, seq, c.pc, slot, done, cycle, 0, 0, 0⟩

/-- A slot of a bundle has taken effect. -/
def Ctx.markDone (c : Ctx) (seq slot : Nat) : Ctx :=
  { c with flights := c.flights.map fun f => if f.seq = seq then { f with done := setBit f.done slot true } else f }

/-- Ends the syllable at the engine. -/
def Act.commit (e : Issued) : Act → State
  | .done s => ({ s with engine := none }).updCtx e.tile e.place fun c => c.markDone e.q.seq e.q.slot
  | .trap s t => ({ s with engine := none }).updCtx e.tile e.place fun c => c.trapAt s.cycle e.q.seq e.q.slot t

/-- The meaning of an op syllable: what it does at its engine, for the context it came from. -/
def onSyllable (s : State) (f : Issued → Ctx → Act) : Host.Outcome State Fault Refusal :=
  match s.engine with
  | some e =>
    match s.ctx? e.tile e.place with
    | some c => .next ((f e c).commit e)
    | none => .fault .noSyllable
  | none => .fault .noSyllable

/-- A syllable that changes its own context alone. -/
def onCtx (s : State) (f : Queued → Ctx → Except Trap Ctx) : Host.Outcome State Fault Refusal :=
  onSyllable s fun e c =>
    match f e.q c with
    | .ok c' => .done (s.putCtx e.tile e.place c')
    | .error t => .trap s t

/-! ### Memory (R83-R86, R135-R137) -/

/-- The key of a byte of a tile's data SRAM: its global address in this package (R86, package bits zero). -/
def sramKey (tile addr : Nat) : Nat := 2 ^ 47 + tile * 2 ^ 36 + addr

/-- The key of a byte of a tile's vault (R85, R86). -/
def vaultKey (tile off : Nat) : Nat := tile * 2 ^ 36 + off

/-- The key of a byte of host memory (R86). -/
def hostKey (addr : Nat) : Nat := 3 * 2 ^ 47 + addr % 2 ^ 47

/-- The vault linear offset of a location (R85). -/
def vaultOffset (bank row col : Nat) : Nat := bank * 2 ^ 24 + row * 2 ^ 11 + col * 2 ^ 7

/-- The granules (64 bytes) that a range touches. -/
def granules (a n : Nat) : List Nat := if n = 0 then [] else (List.range ((a + n - 1) / 64 - a / 64 + 1)).map (a / 64 + ·)

/-- The granules that a range covers whole. -/
def fullGranules (a n : Nat) : List Nat := (granules a n).filter fun k => a ≤ 64 * k && 64 * k + 64 ≤ a + n

/-- n bytes at a key. -/
def State.read (s : State) (a n : Nat) : List Byte := s.mem.readN a n

/-- Whether a granule of a range is poisoned. -/
def State.poisoned (s : State) (a n : Nat) : Bool := (granules a n).any s.poison.contains

/-- A write by one access: bytes at a key; poison lands on each granule written, or goes from each covered whole (R136). -/
def State.write (s : State) (a : Nat) (bs : List Byte) (poison : Bool) : State :=
  { s with
    mem := s.mem.writeN a bs
    poison := if poison then (granules a bs.length).foldl NatSet.insert s.poison
      else (fullGranules a bs.length).foldl NatSet.erase s.poison }

/-- The offsets of a range's bytes that lie in poisoned granules (R137). -/
def State.badBytes (s : State) (a n : Nat) : List Nat :=
  if s.poisoned a n then (List.range n).filter fun k => s.poison.contains ((a + k) / 64) else []

/-- A write by one access whose bytes at the offsets listed come from poisoned sources: each granule that receives one of them is
poisoned, and one covered whole by others is not (R136, R137). -/
def State.writeMixed (s : State) (a : Nat) (bs : List Byte) (bad : List Nat) : State :=
  let s := s.write a bs false
  { s with poison := bad.foldl (fun p k => NatSet.insert p ((a + k) / 64)) s.poison }

/-- SRAM_RANGE (R196): a misaligned address, one outside the data SRAM, one in the reserved window (R84). -/
def sramRange (a n : Nat) (misaligned outside : Nat) (align : Nat) : Option Trap :=
  let t (d : Nat) : Option Trap := some { cause := causeSramRange, detail := d, address := BitVec.ofNat 64 a }
  if a % align ≠ 0 then t misaligned
  else if Config.sramBytes < a + n then t outside
  else if Config.windowBase < a + n then t 0x0002
  else none

/-! ### Launches and declared sets (R98-R104) -/

/-- The launch of a context. -/
def State.launchOf (s : State) (c : Ctx) : Option Launch := s.hub.launches.find? c.launch

/-- The set table of a context's launch, if it has one. -/
def State.setsOf (s : State) (c : Ctx) : Option (List SetEntry) := (s.launchOf c).bind (·.sets)

/-- The first granule of an entry for a context number (Table 4.5, ctx). -/
def SetEntry.first (e : SetEntry) (num : Nat) : Nat := if e.perContext then e.base + num * e.length else e.base

/-- Whether an entry of a context holds a granule of a space. -/
def SetEntry.holds (e : SetEntry) (num : Nat) (vault : Bool) (granule : Nat) : Bool :=
  e.vault == vault && e.first num ≤ granule && granule < e.first num + e.length

/-- The current entries of a context that hold a granule, by path and direction. -/
def currentEntry (sets : List SetEntry) (num : Nat) (group : Nat) (path : Nat) (write vault : Bool) (granule : Nat) : Bool :=
  sets.any fun e => e.group == group && e.path == path && e.write == write && e.holds num vault granule

/-- A granule is in a sync region (R102): two current entries of paths SC or CP hold it, of different paths of one context or of
different contexts of the launch on the tile, at least one a write. -/
def syncRegion (sets : List SetEntry) (active : List (Nat × Nat)) (vault : Bool) (granule : Nat) : Bool :=
  let holding : List (Nat × Nat × Bool) := active.flatMap fun ng =>
    [(0, true), (0, false), (3, true), (3, false)].filterMap fun pw =>
      if currentEntry sets ng.1 ng.2 pw.1 pw.2 vault granule then some (ng.1, pw.1, pw.2) else none
  holding.any fun a => a.2.2 && holding.any fun b => a.1 != b.1 || a.2.1 != b.2.1

/-- The contexts of a launch on a tile that count for R103, with their groups: active and parked ones. -/
def State.groupsOn (s : State) (tile launch : Nat) : List (Nat × Nat) :=
  (s.tileCtxs tile).filterMap fun pc => if pc.1 < 6 && pc.2.launch == launch then some (pc.2.num, pc.2.group.toNat) else none

/-- The set check of R104 for one access of a context: path, read and write, and whether it is one that a sync region allows.
The fault address is the first granule that fails, or the access's own address. -/
def State.setCheck (s : State) (tile : Nat) (c : Ctx) (group : BitVec 4) (path : Nat) (rd wr sync vault : Bool) (a n : Nat) :
    Option Trap :=
  match s.setsOf c with
  | none => none
  | some sets =>
    let active := (c.num, group.toNat) :: (s.groupsOn tile c.launch).filter fun x => x.1 != c.num
    let inRecord (k : Nat) : Bool := path == 0 && !vault &&
      64 * k == (c.regs.csr.getD 0x13 0).toNat && (c.regs.csr.getD 0x10 0).getLsbD 3
    let fail (k : Nat) : Option Nat :=
      if inRecord k then none
      else if (rd && !currentEntry sets c.num group.toNat path false vault k) ||
          (wr && !currentEntry sets c.num group.toNat path true vault k) then some 0x0007
      else if (path == 0 || path == 3) && !sync && syncRegion sets active vault k then some 0x0008
      else none
    ((granules a n).findSome? fail).map fun d => { cause := causeSetOverlap, detail := d, address := BitVec.ofNat 64 a }

/-- The first of several checks that fails (R130). -/
def firstTrap (l : List (Option Trap)) : Option Trap := l.findSome? id

/-- Code SRAM of a tile by syllable address. -/
def codeKey (tile addr : Nat) : Nat := tile * 2 ^ 16 + addr

/-- The word of code at an address; beyond the code SRAM there is none, and a plain header of nothing stands for it (R25). -/
def State.codeWord (s : State) (tile addr : Nat) : Word32 :=
  if addr < 0x10000 then BitVec.ofNat 32 (leNat (s.code.readN (codeKey tile addr) 4)) else 0

/-- Whether a bundle starts at an address (R25). -/
def State.startBit (s : State) (tile addr : Nat) : Bool := s.starts.contains (codeKey tile addr)

/-- The check of a redirect target (R25): outside code, or no bundle start. -/
def State.targetTrap (s : State) (tile : Nat) (a : Nat) : Option Trap :=
  if 0x10000 ≤ a then some { cause := causeMisalignedTarget, detail := 1 }
  else if a % 4 ≠ 0 || !s.startBit tile a then some { cause := causeMisalignedTarget, detail := 0 }
  else none

/-- The same check of a target that may lie below the code. -/
def State.targetCheck (s : State) (tile : Nat) (a : Int) : Option Trap :=
  if a < 0 then some { cause := causeMisalignedTarget, detail := 1 } else s.targetTrap tile a.toNat

/-! ### Bytes as they stood (R90, R303) -/

/-- A byte, with its poison, before the latest of its writes as long as those are hidden: a write that none of them made stays. -/
def beforeHidden (hides : Undo → Bool) (now : Byte × Bool) : List Undo → Byte × Bool
  | [] => now
  | u :: older => if hides u && u.new == now.1 then beforeHidden hides (u.old, u.bad) older else now

/-- The bytes of the SRAM, each with its poison, as they stood before the writes that some hides. -/
def State.bytesBefore (s : State) (tile : Nat) (c : Ctx) (hides : Undo → Bool) (a n : Nat) : List Byte × Bool :=
  let one (i : Nat) : Byte × Bool :=
    beforeHidden hides (s.mem.read (sramKey tile (a + i)), s.poison.contains (sramKey tile (a + i) / 64))
      (c.undo.filter fun u => u.addr == a + i).reverse
  let l := (List.range n).map one
  (l.map (·.1), l.any (·.2))

/-- Bytes from an address up, each with its own. -/
def cellsFrom (a : Nat) (bs : List Byte) : List (Nat × Byte) := bs.mapIdx fun k b => (a + k, b)

/-- What bytes about to be written to the SRAM overwrite, kept for the reads of a bundle that the write is hidden from (R90, R303). -/
def State.kept (s : State) (tile seq path : Nat) (cells : List (Nat × Byte)) : List Undo :=
  cells.map fun x => ⟨seq, path, x.1, s.mem.read (sramKey tile x.1), x.2, s.poison.contains (sramKey tile x.1 / 64)⟩

end Sys2Proof.Machine
end

