-- ==== Sys2Proof/Machine/Flags.lean ====
section
/-! DEFINITION. The sticky FLAGS CSRs (R177, Table 5.5): bit numbers and the CSR of each engine. -/

namespace Sys2Proof.Machine

/-! CSR numbers of the FLAGS registers (Table 7.6). -/
def csrFlagsS : Nat := 0x48
def csrFlagsV : Nat := 0x50
def csrFlagsM : Nat := 0x58
def csrFlagsD : Nat := 0x60
def csrFlagsQ : Nat := 0x68
def csrFlagsN : Nat := 0x70
def csrFlagsA : Nat := 0x78

/-! Bits [5:0] of every FLAGS CSR, in the order R177 gives. -/
def flagSaturated : Nat := 0x01
def flagNanToZero : Nat := 0x02
def flagInvalid : Nat := 0x04
def flagTernReserved : Nat := 0x08
def flagBoothReserved : Nat := 0x10
def flagAccOverflow : Nat := 0x20

/-! FLAGS_S (Table 8.5). -/
def flagHfieldTrunc : Nat := 0x100
def flagDivZero : Nat := 0x200
def flagDivOverflow : Nat := 0x400

/-! FLAGS_V (Table 10.10). -/
def flagDivByZero : Nat := 0x100
def flagSqrtNonpos : Nat := 0x200

/-- Whether a CSR number is a FLAGS CSR. -/
def isFlagsCsr (n : Nat) : Bool := [0x48, 0x50, 0x58, 0x60, 0x68, 0x70, 0x78].contains n

end Sys2Proof.Machine
end

