-- ==== Sys2Proof/Machine/Operands.lean ====
section
/-! DEFINITION. Operand forms of the op syllables: guards, immediates with their lend bytes (R34, R40), effective addresses
(R41) and the fields of a handle (Tables 9.2-9.4). -/

namespace Sys2Proof.Machine

/-- A guard predicate, inverted when neg is set (R37, R39). -/
def guardHolds (c : Ctx) (q : Queued) (guard : BitVec 5) (neg : Bool) : Bool := c.pred q guard.toNat ^^ neg

/-- A 14-bit immediate, or 22 bits with the lend byte on top, sign-extended (R40). -/
def imm22 (imm : BitVec 14) (lend : Option Byte) : Word64 :=
  match lend with
  | some b => (b ++ imm : BitVec 22).signExtend 64
  | none => imm.signExtend 64

/-- The immediate of CMPI: 12 bits, or 20 with the lend byte (R40). -/
def imm20 (imm : BitVec 12) (lend : Option Byte) : Word64 :=
  match lend with
  | some b => (b ++ imm : BitVec 20).signExtend 64
  | none => imm.signExtend 64

/-- An 11-bit offset, or 19 bits with the lend byte (R41, R44). -/
def off19 (off : BitVec 11) (lend : Option Byte) : Word64 :=
  match lend with
  | some b => (b ++ off : BitVec 19).signExtend 64
  | none => off.signExtend 64

/-- The access size in bytes of a size code (Table 2.9). -/
def sizeBytes (size : BitVec 3) : Nat := 2 ^ (size.toNat % 4)

/-- Loaded bytes extended to 64 bits (Table 2.9: codes 100-110 sign-extend). -/
def extendLoad (size : BitVec 3) (v : Nat) : Word64 :=
  match size.toNat with
  | 4 => (BitVec.ofNat 8 v).signExtend 64
  | 5 => (BitVec.ofNat 16 v).signExtend 64
  | 6 => (BitVec.ofNat 32 v).signExtend 64
  | _ => BitVec.ofNat 64 v

end Sys2Proof.Machine

namespace Sys2Proof

open Machine

/-! ### Handle fields -/

/-- First bit and width of a handle field by its code (Tables 9.2, 9.4). Bits [255:251] are reserved, which R4 has read as zero, and stand
in Table 9.2 as RW: the model holds and returns them (DESIGN CHOICE, log 49). -/
def handleField (code : Nat) : Nat × Nat :=
  match code with
  | 0x00 => (0, 40)
  | 0x01 => (40, 2)
  | 0x02 => (42, 6)
  | 0x03 => (48, 6)
  | 0x04 => (54, 2)
  | 0x05 => (56, 16)
  | 0x06 => (72, 16)
  | 0x07 => (88, 16)
  | 0x08 => (104, 16)
  | 0x09 => (120, 24)
  | 0x0A => (144, 24)
  | 0x0B => (168, 24)
  | 0x0C => (192, 8)
  | 0x0D => (200, 8)
  | 0x0E => (208, 24)
  | 0x0F => (232, 16)
  | _ => (248, 8)

/-- One field of a handle as a number. -/
def Handle.field (h : Handle) (code : Nat) : Nat := bitsOf h.toNat (handleField code).1 (handleField code).2

/-- Dimensions of a handle (R206). -/
def Handle.dims (h : Handle) : Nat := h.field 0x04 + 1

/-- Extent of a dimension; one beyond the rank counts as 1. -/
def Handle.extent (h : Handle) (d : Nat) : Nat := if d < h.dims then h.field (0x05 + d) else 1

/-- Byte stride of dimension 1-3; ignored beyond the rank. -/
def Handle.stride (h : Handle) (d : Nat) : Nat := if d < h.dims then h.field (0x08 + d) else 0

def Handle.base (h : Handle) : Nat := h.field 0x00
def Handle.space (h : Handle) : Nat := h.field 0x01
def Handle.type (h : Handle) : Nat := h.field 0x02
def Handle.layout (h : Handle) : Nat := h.field 0x03
def Handle.grows (h : Handle) : Nat := h.field 0x0C
def Handle.gcols (h : Handle) : Nat := h.field 0x0D
def Handle.gaddr (h : Handle) : Nat := h.field 0x0E
def Handle.gcount (h : Handle) : Nat := h.field 0x0F
def Handle.valid (h : Handle) : Bool := h.getLsbD 248
def Handle.transpose (h : Handle) : Bool := h.getLsbD 249
def Handle.repeats (h : Handle) : Bool := h.getLsbD 250

/-- Bits per element of a type code (Table 9.3); 0 for a reserved code. -/
def typeBits (code : Nat) : Nat := [32, 16, 16, 32, 16, 8, 8, 8, 2, 32, 16, 8, 8, 4, 64].getD code 0

end Sys2Proof
end

