-- ==== Sys2Proof/Machine/Effects.lean ====
section
/-! DEFINITION. What a syllable reads and writes: the registers of R51-R53, the stream ports of R219, and the access paths of
Table 4.3. Issue holds consumers and orders accesses by these. -/

namespace Sys2Proof.Machine

/-! ### The operands of each format -/

/-- The F-R3 operands of an instruction. -/
def r3Of : Instr → Option R3
  | .add o | .sub o | .and o | .or o | .xor o | .shl o | .shr o | .sra o | .mul o | .mulh o | .mulhu o | .min o | .max o
  | .minu o | .maxu o | .cmp o | .sel o | .bfx o | .bfi o | .fshl o | .fshr o | .popc o | .clz o | .ctz o | .brev o | .div o
  | .divu o | .remu o => some o
  | _ => none

/-- The F-V operands of an instruction. -/
def vopOf : Instr → Option VOp
  | .fadd o | .fsub o | .fmul o | .fma o | .fms o | .fmin o | .fmax o | .fdiv o | .fsqrt o | .frcp o | .frsq o | .fexp2 o
  | .flog2 o | .fcmp o | .fclass o | .iadd o | .isub o | .imul o | .iand o | .ior o | .ixor o | .ishl o | .ishr o | .isra o
  | .icmp o | .imin o | .imax o | .vsel o | .movl o | .vbcast o | .vperm o | .cvt o | .qpack o | .vreds o | .vredm o
  | .vscan o | .vcompress o | .vlut o | .vbfx o | .vfsh o | .vldx o | .vstx o | .vrng o | .vdrop o => some o
  | _ => none

/-- The latency of an F-V result (Table 2.18). -/
def vLatency : Instr → Nat
  | .fadd _ | .fsub _ | .fmul _ | .fma _ | .fms _ => 4
  | .movl _ => 1
  | .fdiv _ | .fsqrt _ => 14
  | .frcp _ | .frsq _ | .vlut _ => 6
  | .fexp2 _ | .flog2 _ | .vldx _ => 8
  | .cvt _ | .qpack _ | .vcompress _ | .vrng _ | .vdrop _ => 3
  | .vreds _ | .vredm _ => 7
  | .vscan _ => 9
  | _ => 2

/-- The latency of an F-R3 result (Table 2.18). -/
def r3Latency : Instr → Nat
  | .mul _ | .mulh _ | .mulhu _ => 3
  | .div _ | .divu _ | .remu _ => 20
  | _ => 1

/-- The source codes of an F-V operation, with their clusters; CVT and QPACK hold a type in B. -/
def vCodes (i : Instr) (o : VOp) : List (Nat × Nat) :=
  match i with
  | .cvt _ | .qpack _ => [(o.a.toNat, 0), (o.c.toNat, 2)]
  | _ => [(o.a.toNat, 0), (o.b.toNat, 1), (o.c.toNat, 2)]

/-- Whether the mask field of an F-V operation is a source; FCMP and ICMP write the register it names. -/
def vMaskRead : Instr → Bool
  | .fcmp _ | .icmp _ => false
  | _ => true

/-! ### Registers read -/

/-- The latch that a source code names. -/
def latchOf (code cluster : Nat) : List Reg := if 8 ≤ code && code < 12 then [.v (4 * cluster + code - 8)] else []

/-- The broadcast g register of a source code 15. -/
def broadcastOf (code : Nat) (lend : Option Byte) : List (BitVec 6) :=
  if code = 15 then [((lend.getD 0).setWidth 6 : BitVec 6)] else []

/-- The g registers that a syllable reads, as encoded. -/
def gReads (i : Instr) : List (BitVec 6) :=
  match r3Of i with
  | some o => [o.rs1, o.rs2] ++ (match i with | .bfi _ | .fshl _ | .fshr _ => [o.rd] | _ => [])
  | none =>
    match vopOf i with
    | some o => (vCodes i o).flatMap fun x => broadcastOf x.1 o.lend
    | none =>
      match i with
      | .ret ga | .jmp ga _ | .sleeptCyc ga | .csrw ga _ | .temit ga _ | .shape ga _ _ => [ga]
      | .pmovp ga gb => [ga, gb]
      | .addi o | .andi o | .ori o | .xori o | .cmpi o => [o.rs1]
      | .shli o | .shri o | .srai o => [o.rs1]
      | .ldih o => [o.rd]
      | .ld o | .ldacq o => [o.base]
      | .st o | .strel o => [o.data, o.base]
      | .ldx o => [o.base, o.idx]
      | .stx o => [o.data, o.base, o.idx]
      | .hld o | .hst o => [o.base]
      | .hset _ rs _ => [rs]
      | .vdigestAbsorb a l | .vmovg _ a l => broadcastOf a.toNat l
      | .vmovgSetm _ l => broadcastOf 15 l
      | .rd o | .rdx o | .wr o | .wrm o => [o.gs]
      | .bind ga _ _ _ | .bindg ga _ _ _ | .sskip ga _ => [ga]
      | .cpy ga gb _ _ _ len => [ga, gb, len]
      | .cpych ga _ _ _ => [ga]
      | .accw ga gb _ _ _ _ _ => [ga, gb]
      | .casw ga gb _ _ _ _ => [ga, ga + 1, gb, gb + 1]
      | .msend ga gb _ _ _ _ | .mcast ga gb _ _ _ _ | .mland ga gb _ _ => [ga, gb]
      | .binit ga gb _ | .barr ga gb _ _ | .bwait ga gb _ _ => [ga, gb]
      | .binv ga _ => [ga]
      | .bqry _ gb _ _ => [gb]
      | .pgsub ga gb _ _ | .pgcast ga gb _ _ _ | .mrg ga gb | .mrgfin ga gb _ _ => [ga, gb]
      | .pgunsub ga | .mrgopen ga _ => [ga]
      | .domeq _ gb _ _ => [gb]
      | .sfload ga gb _ _ | .sfclamp ga gb | .sfread ga gb | .sfwrite ga gb | .sfseed ga gb _ _ _ | .sfsweep ga gb _ _ =>
        [ga, gb]
      | _ => []

/-- The guard of an instruction. -/
def guardOf (i : Instr) : Option (BitVec 5 × Bool) :=
  match r3Of i with
  | some o => some (o.guard, o.neg)
  | none =>
    match i with
    | .br _ n g | .call _ n g => some (g, n)
    | _ => none

/-- The registers that a syllable reads under R51 and R53, with the rotating base of its bundle. -/
def readsOf (rrb : BitVec 5) (i : Instr) : List Reg :=
  ((gReads i).filter (· != 0)).map (fun n => .g (physG n rrb)) ++
    (match guardOf i with | some (g, _) => if g = 0 then [] else [.p g.toNat] | none => []) ++
    (match vopOf i with
      | some o => (vCodes i o).flatMap (fun x => latchOf x.1 x.2) ++
          (if vMaskRead i && o.mask != 0 then [.m o.mask.toNat] else [])
      | none =>
        match i with
        | .lexit _ _ p _ => [.p p.toNat]
        | .plog _ pa pb _ => [.p pa.toNat, .p pb.toNat]
        | .pmovg _ => (List.range 31).map fun n => .p (n + 1)
        | .shapeq _ z => [.z z.toNat]
        | .hst o => [.h o.h.toNat]
        | .hget _ h _ => [.h h.toNat]
        | .vdigestAbsorb a _ | .vmovg _ a _ => latchOf a.toNat 0
        | .vmovgM _ m => if m = 0 then [] else [.m m.toNat]
        | .pushx _ h _ _ _ | .pushg _ h _ _ _ => [.h h.toNat]
        | .bind _ h _ _ | .bindg _ h _ _ => [.h h.toNat]
        | .cpyb hd hs _ => [.h hd.toNat, .h hs.toNat]
        | _ => [])

/-- The registers that a syllable reads with the predicates of its dispatch: under a false guard the guard alone (R181); SEL reads
its guard as a selector (R39). -/
def Ctx.readsAt (c : Ctx) (q : Queued) (i : Instr) : List Reg :=
  let all := readsOf q.rrb i
  match i, r3Of i with
  | .sel _, _ | _, none => all
  | _, some o => if guardHolds c q o.guard o.neg then all else all.filter fun r => match r with | .p _ => true | _ => false

/-! ### Registers written -/

/-- The registers that a syllable writes with a latency of Table 2.18. -/
def writesOf (rrb : BitVec 5) (i : Instr) : List (Reg × Nat) :=
  let g (n : BitVec 6) (l : Nat) : List (Reg × Nat) := if n = 0 then [] else [(.g (physG n rrb), l)]
  let p (n : BitVec 5) : List (Reg × Nat) := if n = 0 then [] else [(.p n.toNat, 1)]
  match r3Of i with
  | some o =>
    match i with
    | .cmp _ => p (o.rd.setWidth 5)
    | _ => g o.rd (r3Latency i)
  | none =>
    match vopOf i with
    | some o =>
      (match i with | .vstx _ => [] | _ => if o.dst.toNat < 12 then [(.v o.dst.toNat, vLatency i)] else []) ++
        (if !vMaskRead i && o.mask != 0 then [(.m o.mask.toNat, 2)] else [])
    | none =>
      match i with
      | .call _ _ _ => g 31 1
      | .csrr ga _ | .shapeq ga _ | .shapeqCap ga | .pmovg ga | .rdcyc ga | .replan ga => g ga 1
      | .plog pd _ _ _ => p pd
      | .pmovp _ _ => (List.range 31).map fun n => (.p (n + 1), 1)
      | .shape _ pd z => p pd ++ [(.z z.toNat, 1)]
      | .slice ga pd k => p pd ++ (List.range (k.toNat + 1)).flatMap fun n => g (ga + BitVec.ofNat 6 n) 1
      | .addi o | .andi o | .ori o | .xori o => g o.rd 1
      | .cmpi o => p (o.rd.setWidth 5)
      | .shli o | .shri o | .srai o => g o.rd 1
      | .ldi o | .ldih o => g o.rd 1
      | .ld o | .ldacq o => g o.data 4
      | .ldx o => g o.data 4
      | .hld o => [(.h o.h.toNat, 5)]
      | .hset h _ _ => [(.h h.toNat, 1)]
      | .hget rd _ _ => g rd 1
      | .vdigestFinish d => if d.toNat < 12 then [(.v d.toNat, 9)] else []
      | .vmovg gd _ _ | .vmovgM gd _ => g gd 2
      | .vmovgSetm m _ => [(.m m.toNat, 2)]
      | .vstat _ gd _ | .sqry gd _ _ | .tokq gd _ _ | .mqry gd _ _ | .domeq gd _ _ _ => g gd 2
      | _ => []

/-- The CSRs that a syllable writes, with the latency of its flags; CSRR and CSRW wait for a slipped one (R51), and those of VXCFG and
VXMETA for every D syllable (R294). -/
def csrWritesOf (i : Instr) : List (Nat × Nat) :=
  match slotOf i with
  | some 1 => [(csrFlagsS, r3Latency i)]
  | some 3 => (csrFlagsV, vLatency i) :: (match i with
      | .vdigestInit | .vdigestAbsorb _ _ => [0x52, 0x53, 0x54, 0x55, 0x56].map fun n => (n, 9)
      | _ => [])
  | some 4 => (csrFlagsM, 8) :: [0x59, 0x5A, 0x5B, 0x5C, 0x5E, 0x5F].map fun n => (n, 1)
  | some 5 => [(0x61, 0), (0x62, 0)]
  | _ => []

/-! ### Ports and paths -/

/-- The stream ports that a syllable takes a row of, outputs from 8 up (R219). -/
def portsOf (i : Instr) : List Nat :=
  let input (code : Nat) : List Nat := if code < 8 then [code] else []
  let output (dst : Nat) : List Nat := if 12 ≤ dst then [dst - 4] else []
  match vopOf i with
  | some o => (vCodes i o).flatMap (fun x => input x.1) ++ (match i with | .vstx _ => [] | _ => output o.dst.toNat)
  | none =>
    match i with
    | .vdigestAbsorb a _ | .vmovg _ a _ => input a.toNat
    | .vdigestFinish d => output d.toNat
    | .wload s _ _ _ | .push _ s _ _ => input s.toNat
    | .drain _ s sc _ _ => s.toNat :: input sc.toNat
    | _ => []

/-- The access paths of a syllable with whether it writes on them; rows of stream ports are path ST (Table 4.3). -/
def pathsOf (i : Instr) : List (Nat × Bool) :=
  (portsOf i).map (fun p => (1, decide (8 ≤ p))) ++
    (match i with
      | .ld _ | .ldacq _ | .ldx _ | .hld _ | .eret => [(0, false)]
      | .st _ | .strel _ | .stx _ | .hst _ => [(0, true)]
      | .vldx _ | .pushx _ _ _ _ _ | .pushg _ _ _ _ _ => [(1, false)]
      | .vstx _ => [(1, true)]
      | .rd _ | .rdx _ | .wr _ | .wrm _ => [(2, true)]
      | .cpy _ _ _ _ _ _ | .cpyb _ _ _ | .cpych _ _ _ _ | .accw _ _ _ _ _ _ _ | .casw _ _ _ _ _ _ => [(3, true)]
      | .msend _ _ _ _ _ _ | .mcast _ _ _ _ _ _ => [(4, false)]
      | .mland _ _ _ _ => [(4, true)]
      | .pgsub _ _ _ _ | .mrgfin _ _ _ _ => [(5, true)]
      | .pgcast _ _ _ _ _ | .mrg _ _ => [(5, false)]
      | .sfload _ _ _ _ | .sfwrite _ _ | .sfclamp _ _ => [(6, false)]
      | .sfread _ _ | .sfsweep _ _ _ _ | .sfseed _ _ _ _ _ => [(6, true)]
      | .sfqry _ _ _ => [(6, false)]
      | _ => [])

/-- Redirects and SETRRB, whose bundle is a redirect bundle (R150). -/
def isRedirect : Instr → Bool
  | .br _ _ _ | .call _ _ _ | .jmp _ _ | .ret _ | .loop _ _ | .loopr _ _ | .lexit _ _ _ _ | .eret | .replan _ | .setrrb _ => true
  | _ => false

/-- C syllables that act after every other syllable of their bundle (R150, R166). -/
def actsLast : Instr → Bool
  | .trap _ | .bkpt _ => true
  | i => isRedirect i

/-- Syllables whose effect takes place in the dispatch cycle, though they pass through the Q queue (R219). -/
def actsAtDispatch : Instr → Bool
  | .bind _ _ _ _ | .bindg _ _ _ _ | .sskip _ _ | .unbind _ _ _ => true
  | _ => false

end Sys2Proof.Machine
end

