-- ==== Sys2Proof/Machine/Trace.lean ====
section
/-! DEFINITION. Trace records (20_debug R472-R474): the FIFO of a tile and the enables of a context. -/

namespace Sys2Proof.Machine

/-- CSRs of Table 20.3. -/
def csrTrctl : Nat := 0x80
def csrTrsamp : Nat := 0x81
def csrTrdrop : Nat := 0x82

/-- Whether a bit of TRCTL is set. -/
def Ctx.traces (c : Ctx) (bit : Nat) : Bool := (c.csrLast csrTrctl).getLsbD bit

/-- A trace record (Table 20.1) of the context at a place, or of the tile where the place holds none. It enters the FIFO at the end of its
cycle. -/
def State.record (s : State) (tile place kind tag bundle slot : Nat) (cycle data0 data1 : Word64) : State :=
  let c := s.ctx? tile place
  let head := BitVec.ofNat 64 (tag % 2 ^ 16 * 2 ^ 32 + bundle % 2 ^ 16 * 2 ^ 16 + slot % 8 * 2 ^ 6 + ((c.map (·.num)).getD 0) % 4 * 2 ^ 4 +
    kind % 16)
  s.updTile tile fun t => { t with made := t.made ++ [⟨c.map fun c => ⟨tile, c.launch, c.num⟩, head, cycle, data0, data1⟩] }

/-- The order in which the records of one cycle enter: by context, then by kind (R472). -/
def MadeRecord.key (r : MadeRecord) : Nat := r.head.toNat % 64

/-- A record at its place among the others of its cycle. -/
def MadeRecord.insert (l : List MadeRecord) (r : MadeRecord) : List MadeRecord :=
  l.takeWhile (fun x => decide (x.key ≤ r.key)) ++ r :: l.dropWhile fun x => decide (x.key ≤ r.key)

/-- A record takes its sequence number and enters the FIFO. Where that holds 256 it is dropped, and TRDROP of its context counts it. -/
def State.enterRecord (s : State) (tile : Nat) (r : MadeRecord) : State :=
  let room := decide ((s.tile tile).trace.length < 256)
  let s := s.updTile tile fun t =>
    { t with
      traceSeq := t.traceSeq + 1
      trace := if room then t.trace ++ [(r.head + BitVec.ofNat 64 (t.traceSeq.toNat * 2 ^ 48), r.cycle, r.data0, r.data1)] else t.trace }
  match (if room then none else r.who.bind s.findWho) with
  | some (t, p, c) =>
    s.putCtx t p { c with regs := { c.regs with csr := c.regs.csr.set csrTrdrop (c.regs.csr.getD csrTrdrop 0 + 1) 0 } }
  | none => s

/-- R472: the records that a cycle has made enter the FIFOs of their tiles. -/
def State.enterRecords (s : State) : State :=
  s.tiles.foldl (fun (s : State) (kt : Nat × Tile) =>
    (kt.2.made.foldl MadeRecord.insert []).foldl (fun (s : State) r => s.enterRecord kt.1 r)
      (if kt.2.made.isEmpty then s else s.updTile kt.1 fun t => { t with made := [] })) s

/-- A record that is made only under its enable bit (R473). -/
def State.recordIf (s : State) (bit : Nat) (tile place kind tag bundle slot : Nat) (cycle data0 data1 : Word64) : State :=
  match s.ctx? tile place with
  | some c => if c.traces bit then s.record tile place kind tag bundle slot cycle data0 data1 else s
  | none => s

/-- Ends a blocked episode: its record if it lasted the threshold (R473). -/
def State.endEpisode (s : State) (tile place : Nat) : State :=
  match s.ctx? tile place with
  | none => s
  | some c =>
    match c.episode with
    | none => s
    | some e =>
      let s := s.putCtx tile place { c with episode := none }
      if c.traces 2 && bitsOf (c.csrLast csrTrctl).toNat 32 16 ≤ e.cycles then
        s.record tile place 3 e.cause e.bundle e.slot e.first s.cycle (BitVec.ofNat 64 e.cycles)
      else s

/-- Adds lost cycles to a deviation counter and DEVTOTAL (R493). -/
def Ctx.deviate (c : Ctx) (cause : Nat) (n : Word64) : Ctx :=
  { c with dev := c.dev.set cause (c.dev.getD cause 0 + n) 0 }

/-- DEVTOTAL. -/
def Ctx.devTotal (c : Ctx) : Word64 := ((List.range 14).map fun k => c.dev.getD (k + 1) 0).foldl (· + ·) 0

end Sys2Proof.Machine
end

