-- ==== Sys2Proof/Machine/Bus.lean ====
section
/-! DEFINITION. The command bus of a vault (12_vault R288-R290): the commands that the minimums of Table 12.2 bind, and the first cycle that
meets them. -/

namespace Sys2Proof.Machine

/-! ### Minimums (R288-R290) -/

def Command.isColumn : Command → Bool
  | .rd | .wr => true
  | _ => false

/-- ACT and REFPB count for rows 5-7. -/
def Command.activates : Command → Bool
  | .act | .refpb => true
  | _ => false

/-- The rows of Table 12.2 that bind a command after another, with their cycles; row 7 apart. -/
def minimums (a : Command) (ab : Nat) (b : Command) (bb : Nat) : List (Nat × Nat) :=
  let same := ab == bb && a != .refab && b != .refab
  let group := ab / 4 == bb / 4 && a != .refab && b != .refab
  (if same && a == .act then (if b.isColumn then [(1, 27)] else if b == .pre then [(2, 58)] else if b == .act then [(3, 85)] else [])
    else []) ++
  (if a == .pre && ((same && b.activates) || b == .refab) then [(4, 27)] else []) ++
  (if a.activates && b.activates && !same then (if group then [(6, 8)] else [(5, 4)]) else []) ++
  (if a.isColumn && b.isColumn then (if group || (a == .rd && b == .wr) then [(9, 4)] else [(8, 1)]) else []) ++
  (if a == .wr && b == .rd then (if group then [(11, 14)] else [(10, 5)]) else []) ++
  (if same && a == .rd && b == .pre then [(12, 14)] else []) ++
  (if same && a == .wr && b == .pre then [(13, 27)] else []) ++
  (if a == .refpb && (same || b == .refab) then [(14, 198)] else []) ++
  (if a == .refab then [(15, 468)] else [])

/-- The rows that a command at a cycle breaks against earlier ones (cycle, command, bank). -/
def brokenRows (earlier : List (Nat × Command × Nat)) (cycle : Nat) (b : Command) (bb : Nat) : List Nat :=
  (earlier.flatMap fun x => ((minimums x.2.1 x.2.2 b bb).filter fun r => cycle < x.1 + r.2).map (·.1)) ++
    (if b.activates && 4 ≤ (earlier.filter fun x => x.2.1.activates && cycle < x.1 + 32).length then [7] else [])

/-- The first cycle from one on that meets every minimum, for a search of some length. -/
def firstMeeting (earlier : List (Nat × Command × Nat)) (b : Command) (bb : Nat) : Nat → Nat → Nat
  | 0, t => t
  | n + 1, t => if (brokenRows earlier t b bb).isEmpty then t else firstMeeting earlier b bb n (t + 1)

/-- The bus as cycles, commands and banks. -/
def busOf (l : List BusEntry) : List (Nat × Command × Nat) := l.map fun x => (x.time, x.command, x.bank)

/-- Puts a command on the bus. -/
def Vault.drive (v : Vault) (time : Nat) (cmd : Command) (bank : Nat) (source : Option (Nat × Nat)) : Vault :=
  { v with bus := (v.bus.filter fun x => time < x.time + 468) ++ [⟨time, cmd, bank, source⟩] }

end Sys2Proof.Machine
end

