-- ==== Sys2Proof/Machine/Numbers.lean ====
section
/-! DEFINITION. Number formats and conversions (05_numbers): exact values, the one rounding `sat` (R117), keyed bits (R120),
sums in fixed order (R122), and the functions of Table 10.3 as exact values cut far below every format's last place. -/

namespace Sys2Proof.Machine

/-! ### Values -/

/-- A value before rounding: a NaN, an infinity, or sign and magnitude (m + d) * 2^e with 0 <= d < 1, where d > 0 exactly when
cut is set. A cut value has far more bits in m than any format keeps. -/
inductive Exact where
  | nan
  | inf (neg : Bool)
  | fin (neg : Bool) (m : Nat) (e : Int) (cut : Bool)
  deriving DecidableEq, Repr

/-- A floating format (R109): fraction bits, exponent bits, greatest finite magnitude code, infinity code, first NaN code and
the canonical NaN. -/
structure FloatFmt where
  frac : Nat
  exp : Nat
  largest : Nat
  inf : Option Nat
  nanFrom : Nat
  nan : Nat
  deriving DecidableEq, Repr

/-! Table 5.1. -/
def fp32 : FloatFmt := ⟨23, 8, 0x7F7FFFFF, some 0x7F800000, 0x7F800001, 0x7FC00000⟩
def bf16 : FloatFmt := ⟨7, 8, 0x7F7F, some 0x7F80, 0x7F81, 0x7FC0⟩
def fp16 : FloatFmt := ⟨10, 5, 0x7BFF, some 0x7C00, 0x7C01, 0x7E00⟩
def e4m3 : FloatFmt := ⟨3, 4, 0x7E, none, 0x7F, 0x7F⟩
def e5m2 : FloatFmt := ⟨2, 5, 0x7B, some 0x7C, 0x7D, 0x7E⟩

/-- The weight of the last place of a subnormal, as a power of two. -/
def FloatFmt.lowest (f : FloatFmt) : Int := 2 - 2 ^ (f.exp - 1) - f.frac

/-- The sign bit of a format as a number. -/
def FloatFmt.sign (f : FloatFmt) (neg : Bool) : Nat := if neg then 2 ^ (f.frac + f.exp) else 0

/-- The value of a code (R109). -/
def FloatFmt.value (f : FloatFmt) (code : Nat) : Exact :=
  let neg := code.testBit (f.frac + f.exp)
  let mag := code % 2 ^ (f.frac + f.exp)
  if f.nanFrom ≤ mag then .nan
  else if f.inf = some mag then .inf neg
  else
    let x := mag / 2 ^ f.frac
    if x = 0 then .fin neg mag f.lowest false
    else .fin neg (2 ^ f.frac + mag % 2 ^ f.frac) (f.lowest + x - 1) false

/-- An integer as a value. -/
def Exact.ofInt (v : Int) : Exact := .fin (decide (v < 0)) v.natAbs 0 false

/-- Minus a value. -/
def Exact.neg : Exact → Exact
  | .nan => .nan
  | .inf s => .inf (!s)
  | .fin s m e c => .fin (!s) m e c

/-- A value times a power of two. -/
def Exact.scale (n : Int) : Exact → Exact
  | .fin s m e c => .fin s m (e + n) c
  | x => x

def Exact.isNan : Exact → Bool
  | .nan => true
  | _ => false

/-- The value is less than or equal to zero, minus infinity included. -/
def Exact.nonPositive : Exact → Bool
  | .nan => false
  | .inf s => s
  | .fin s m _ _ => s || m == 0

def Exact.isZero : Exact → Bool
  | .fin _ 0 _ _ => true
  | _ => false

/-- The signed integer of a finite value over 2^low, for low at most its exponent. -/
def scaledInt (s : Bool) (m : Nat) (e low : Int) : Int := (if s then -1 else 1) * (m * 2 ^ (e - low).toNat : Nat)

/-- x < y as numbers; zeros of either sign are equal; false for a NaN. -/
def Exact.lt : Exact → Exact → Bool
  | .nan, _ => false
  | _, .nan => false
  | .inf s, .inf t => s && !t
  | .inf s, _ => s
  | _, .inf t => !t
  | .fin s m e _, .fin t n f _ => scaledInt s m e (min e f) < scaledInt t n f (min e f)

/-- x = y as numbers; false for a NaN. -/
def Exact.eq (x y : Exact) : Bool := !x.isNan && !y.isNan && !x.lt y && !y.lt x

/-! ### Rounding (R115-R118) -/

/-- The magnitude over 2^u, rounded under a mode of Table 5.3 with keyed bits k (R115, R116). -/
def roundQuotient (mode k : Nat) (neg : Bool) (m : Nat) (e : Int) (cut : Bool) (u : Int) : Nat :=
  if u ≤ e then m * 2 ^ (e - u).toNat
  else
    let n := (u - e).toNat
    let q := m / 2 ^ n
    let r := m % 2 ^ n
    let half := 2 ^ (n - 1)
    let up : Bool :=
      match mode with
      | 0 => half < r || (r == half && (cut || q % 2 == 1))
      | 1 => false
      | 2 => !neg && (r != 0 || cut)
      | 3 => neg && (r != 0 || cut)
      | _ => 2 ^ 16 ≤ r * 2 ^ 16 / 2 ^ n + k % 2 ^ 16
    if up then q + 1 else q

/-- The `sat` of R117 for a floating target: the code and the flags it sets. -/
def satFloat (f : FloatFmt) (mode k : Nat) (keepInf : Bool) : Exact → Nat × Nat
  | .nan => (f.nan, 0)
  | .inf s =>
    match keepInf, f.inf with
    | true, some i => (f.sign s + i, 0)
    | _, _ => (f.sign s + f.largest, flagSaturated)
  | .fin s m e cut =>
    let top : Int := Nat.log2 m + e
    let u : Int := max (top - f.frac) f.lowest
    let code := (u - f.lowest).toNat * 2 ^ f.frac + roundQuotient mode k s m e cut u
    if m = 0 then (f.sign s, 0)
    else if code ≤ f.largest then (f.sign s + code, 0)
    else
      match keepInf, f.inf with
      | true, some i =>
        if mode = 1 || (mode = 2 && s) || (mode = 3 && !s) then (f.sign s + f.largest, 0) else (f.sign s + i, 0)
      | _, _ => (f.sign s + f.largest, flagSaturated)

/-- The integer `sat(x, lo, hi)`: the value and whether it clamped. -/
def satRange (v lo hi : Int) : Int × Bool := if v < lo then (lo, true) else if hi < v then (hi, true) else (v, false)

/-- The `sat` of R117 for an integer target with the range lo to hi. -/
def satInt (lo hi : Int) (mode k : Nat) : Exact → Int × Nat
  | .nan => (0, flagNanToZero)
  | .inf s => (if s then lo else hi, flagSaturated)
  | .fin s m e cut =>
    let q : Int := roundQuotient mode k s m e cut 0
    let r := satRange (if s then -q else q) lo hi
    (r.1, if r.2 then flagSaturated else 0)

/-- `rne32` (R118). -/
def rne32 (x : Exact) : Nat := (satFloat fp32 0 0 true x).1

/-! ### Element types (Table 9.3) -/

/-- The floating format of a type code. -/
def floatFmt (ty : Nat) : Option FloatFmt :=
  match ty with
  | 0 => some fp32
  | 1 => some bf16
  | 2 => some fp16
  | 6 => some e4m3
  | 7 => some e5m2
  | _ => none

/-- Whether an integer type code is unsigned. -/
def unsignedType (ty : Nat) : Bool := 9 ≤ ty && ty ≤ 11

/-- The range of an integer type, or of tern (R117). -/
def typeRange (ty : Nat) : Int × Int :=
  if ty = 8 then (-1, 1)
  else if unsignedType ty then (0, 2 ^ typeBits ty - 1)
  else (-(2 ^ (typeBits ty - 1)), 2 ^ (typeBits ty - 1) - 1)

/-- An element of an integer type as an integer. -/
def readInt (ty code : Nat) : Int :=
  if ty = 8 then (if code % 4 = 1 then 1 else if code % 4 = 3 then -1 else 0)
  else if unsignedType ty then ((code % 2 ^ typeBits ty : Nat) : Int) else signed (typeBits ty) code

/-- An element of any computing type as a value. -/
def readNum (ty code : Nat) : Exact :=
  match floatFmt ty with
  | some f => f.value code
  | none => Exact.ofInt (readInt ty code)

/-- `sat` to a type code: the element and the flags. -/
def satType (ty mode k : Nat) (keepInf : Bool) (x : Exact) : Nat × Nat :=
  match floatFmt ty with
  | some f => satFloat f mode k keepInf x
  | none =>
    let r := satInt (typeRange ty).1 (typeRange ty).2 mode k x
    (wrapTo (typeBits ty) r.1, r.2)

/-- The E8M0 code of a magnitude (R111). -/
def e8m0Of : Exact → Nat
  | .nan => 0xFF
  | .inf _ => 0xFE
  | .fin _ m e _ => if m = 0 then 0 else (min 0xFE (max 0 ((Nat.log2 m : Int) + e + 127))).toNat

/-! ### Exact operations (R110, Table 10.3) -/

/-- x + y; an exact zero sum of opposite signs is minus zero under RDN only. -/
def Exact.add (mode : Nat) : Exact → Exact → Exact
  | .nan, _ => .nan
  | _, .nan => .nan
  | .inf s, .inf t => if s = t then .inf s else .nan
  | .inf s, _ => .inf s
  | _, .inf t => .inf t
  | .fin s m e c, .fin t n f d =>
    let v := scaledInt s m e (min e f) + scaledInt t n f (min e f)
    if v = 0 then .fin (if s = t then s else decide (mode = 3)) 0 0 false
    else .fin (decide (v < 0)) v.natAbs (min e f) (c || d)

/-- x * y. -/
def Exact.mul : Exact → Exact → Exact
  | .nan, _ => .nan
  | _, .nan => .nan
  | .inf s, y => if y.isZero then .nan else .inf (s ^^ (match y with | .inf t => t | .fin t _ _ _ => t | .nan => false))
  | x, .inf t => if x.isZero then .nan else .inf (t ^^ (match x with | .fin s _ _ _ => s | _ => false))
  | .fin s m e c, .fin t n f d => .fin (s ^^ t) (m * n) (e + f) (c || d)

/-- x / y, cut below 100 bits. -/
def Exact.div : Exact → Exact → Exact
  | .nan, _ => .nan
  | _, .nan => .nan
  | .inf _, .inf _ => .nan
  | .inf s, .fin t _ _ _ => .inf (s ^^ t)
  | .fin s _ _ _, .inf t => .fin (s ^^ t) 0 0 false
  | .fin s m e _, .fin t n f _ =>
    if n = 0 then (if m = 0 then .nan else .inf (s ^^ t))
    else
      let k := 100 + Nat.log2 n
      let q := m * 2 ^ k / n
      .fin (s ^^ t) q (e - f - k) (q * n != m * 2 ^ k)

/-- The integer square root, found bit by bit. -/
def isqrt (n : Nat) : Nat → Nat → Nat
  | 0, r => r
  | b + 1, r => isqrt n b (if (r + 2 ^ b) * (r + 2 ^ b) ≤ n then r + 2 ^ b else r)

/-- The square root. -/
def Exact.sqrt : Exact → Exact
  | .nan => .nan
  | .inf s => if s then .nan else .inf false
  | .fin s m e _ =>
    if m = 0 then .fin s 0 0 false
    else if s then .nan
    else
      let k : Nat := if e % 2 = 0 then 200 else 201
      let r := isqrt (m * 2 ^ k) 120 0
      .fin false r ((e - k) / 2) (r * r != m * 2 ^ k)

/-- One over the square root. -/
def Exact.rsqrt : Exact → Exact
  | .nan => .nan
  | .inf s => if s then .nan else .fin false 0 0 false
  | .fin s m e _ =>
    if m = 0 then .inf s
    else if s then .nan
    else
      let k : Nat := if e % 2 = 0 then 240 else 241
      let r := isqrt (2 ^ k / m) 125 0
      .fin false r (-((e + k) / 2)) (r * r * m != 2 ^ k)

/-! Powers and logarithms of two are worked in fixed point with 320 fraction bits (log 9). -/

/-- ln 2 with 320 fraction bits. -/
def ln2Fixed : Nat :=
  0xb17217f7d1cf79abc9e3b39803f2f6af40f343267298b62d8a0d175b8baafa2be7b876206debac98

/-- The terms t^k/k! of an exponential, in fixed point. -/
def expSeries (t : Nat) : Nat → Nat → Nat → Nat
  | 0, _, acc => acc
  | n + 1, term, acc => expSeries t n (term * t / 2 ^ 320 / (80 - n)) (acc + term)

/-- 2^f for a fraction f, both with 320 fraction bits. -/
def exp2Fixed (f : Nat) : Nat := expSeries (f * ln2Fixed / 2 ^ 320) 80 (2 ^ 320) 0

/-- 2^x. -/
def Exact.exp2 : Exact → Exact
  | .nan => .nan
  | .inf s => if s then .fin false 0 0 false else .inf false
  | .fin s m e _ =>
    if m = 0 then .fin false 1 0 false
    else if 20 < (Nat.log2 m : Int) + e then (if s then .fin false (2 ^ 100) (-100000) true else .fin false (2 ^ 100) 100000 true)
    else
      let v : Int := scaledInt s (if 0 ≤ e + 320 then m * 2 ^ (e + 320).toNat else m / 2 ^ (-(e + 320)).toNat) 0 0
      let whole := v / 2 ^ 320
      let part := (v % 2 ^ 320).toNat
      if part = 0 then .fin false 1 whole false else .fin false (exp2Fixed part) (whole - 320) true

/-- The terms z^(2k+1)/(2k+1), in fixed point. -/
def artanhSeries (z2 : Nat) : Nat → Nat → Nat → Nat
  | 0, _, acc => acc
  | n + 1, term, acc => artanhSeries z2 n (term * z2 / 2 ^ 320) (acc + term / (2 * (110 - n) - 1))

/-- log2 y for 1 <= y < 2, both with 320 fraction bits. -/
def log2Fixed (y : Nat) : Nat :=
  let z := (y - 2 ^ 320) * 2 ^ 320 / (y + 2 ^ 320)
  2 * artanhSeries (z * z / 2 ^ 320) 110 z 0 * 2 ^ 320 / ln2Fixed

/-- log2 x. -/
def Exact.log2 : Exact → Exact
  | .nan => .nan
  | .inf s => if s then .nan else .inf false
  | .fin s m e _ =>
    if m = 0 then .inf true
    else if s then .nan
    else
      let n := Nat.log2 m
      let y := m * 2 ^ 320 / 2 ^ n
      if y = 2 ^ 320 then Exact.ofInt (n + e)
      else
        let v : Int := ((n : Int) + e) * 2 ^ 320 + log2Fixed y
        .fin (decide (v < 0)) v.natAbs (-320) true

/-- The lesser value; a NaN prevails, and minus zero is below plus zero. -/
def Exact.min (x y : Exact) : Exact :=
  if x.isNan || y.isNan then .nan
  else if x.lt y then x
  else if y.lt x then y
  else match x with
    | .fin true _ _ _ => x
    | _ => y

/-- The greater value. -/
def Exact.max (x y : Exact) : Exact := (Exact.min x.neg y.neg).neg

/-! ### Keyed bits (R120, R121) -/

/-- One round of `keybits`. -/
def keyRound (seed : Word64) (xy : Word64 × Word64) (j : Nat × Nat) : Word64 × Word64 :=
  let key := seed + BitVec.ofNat 64 j.1 * 0x9E3779B97F4A7C15
  let x := (xy.1 + (xy.2 ^^^ key)).rotateLeft j.2 ^^^ xy.2
  (x, xy.2 * 0xA3D94F617B2CE58D + x)

/-- `keybits` (R120). -/
def keybits (seed step coord : Word64) : Word64 :=
  let r := [(1, 23), (2, 41), (3, 17), (4, 31)].foldl (keyRound seed) (coord, step)
  r.1 ^^^ r.2.rotateLeft 32

/-! ### Sums in fixed order (R122) -/

/-- One level of `tree_sum`. -/
def pairUp {α : Type} (op : α → α → α) : List α → List α
  | a :: b :: r => op a b :: pairUp op r
  | l => l

/-- `tree_sum` of a list of at most 2^levels values. -/
def treeSum {α : Type} (op : α → α → α) : Nat → List α → List α
  | 0, l => l
  | n + 1, l => treeSum op n (pairUp op l)

/-! ### SHA-256 (R255) -/

/-- The first n primes among numbers from k on, given the smaller ones; fuel bounds the search. -/
def primesFrom : Nat → Nat → List Nat → List Nat
  | 0, _, found => found
  | fuel + 1, k, found => primesFrom fuel (k + 1) (if found.all fun p => k % p != 0 then found ++ [k] else found)

/-- The greatest r below 2^bits with r^e at most v, bit by bit from the top. -/
def rootBelow (e v : Nat) : Nat → Nat → Nat
  | 0, r => r
  | bits + 1, r => rootBelow e v bits (if (r + 2 ^ bits) ^ e ≤ v then r + 2 ^ bits else r)

/-- The first 32 bits of the fraction of the e-th root of a prime, which FIPS 180-4 takes its constants from. -/
def rootFraction (e p : Nat) : Word32 := BitVec.ofNat 32 (rootBelow e (p * 2 ^ (32 * e)) 37 0)

/-- The round constants: cube roots of the first 64 primes, up to 311. -/
def shaK : List Word32 := (primesFrom 310 2 []).map (rootFraction 3)

/-- The initial hash value: square roots of the first eight primes. -/
def shaInit : List Word32 := (primesFrom 18 2 []).map (rootFraction 2)

/-- A big-endian word of four bytes at a place of a block. -/
def shaWord (b : List Byte) (i : Nat) : Word32 :=
  b.getD (4 * i) 0 ++ b.getD (4 * i + 1) 0 ++ b.getD (4 * i + 2) 0 ++ b.getD (4 * i + 3) 0

/-- The message schedule, newest word first. -/
def shaSchedule : Nat → List Word32 → List Word32
  | 0, w => w
  | n + 1, w =>
    let x := w.getD 14 0
    let y := w.getD 1 0
    let s0 := x.rotateRight 7 ^^^ x.rotateRight 18 ^^^ (x >>> 3)
    let s1 := y.rotateRight 17 ^^^ y.rotateRight 19 ^^^ (y >>> 10)
    shaSchedule n ((w.getD 15 0 + s0 + w.getD 6 0 + s1) :: w)

/-- One round on the working variables a to h. -/
def shaRound (v : List Word32) (kw : Word32 × Word32) : List Word32 :=
  match v with
  | [a, b, c, d, e, f, g, h] =>
    let s1 := e.rotateRight 6 ^^^ e.rotateRight 11 ^^^ e.rotateRight 25
    let t1 := h + s1 + ((e &&& f) ^^^ (~~~e &&& g)) + kw.1 + kw.2
    let s0 := a.rotateRight 2 ^^^ a.rotateRight 13 ^^^ a.rotateRight 22
    [t1 + s0 + ((a &&& b) ^^^ (a &&& c) ^^^ (b &&& c)), a, b, c, d + t1, e, f, g]
  | v => v

/-- The compression of one 64-byte block. -/
def shaBlock (h : List Word32) (block : List Byte) : List Word32 :=
  let w := (shaSchedule 48 ((List.range 16).map fun i => shaWord block (15 - i))).reverse
  (h.zip ((shaK.zip w).foldl shaRound h)).map fun p => p.1 + p.2

/-- All whole 64-byte blocks of a list of bytes. -/
def shaBlocks (h : List Word32) (bytes : List Byte) : List Word32 :=
  (List.range (bytes.length / 64)).foldl (fun h i => shaBlock h ((bytes.drop (64 * i)).take 64)) h

/-- The bytes of a hash value in SHA-256 order. -/
def shaBytes (h : List Word32) : List Byte := h.flatMap fun w => (leBytes 4 w.toNat).reverse

/-- The last block after whole blocks, with a given bit length. -/
def shaFinal (bits : Nat) : List Byte :=
  0x80 :: List.replicate 55 0 ++ (leBytes 8 bits).reverse

/-- SHA-256 of a list of bytes. -/
def sha256 (bytes : List Byte) : List Byte :=
  let rest := bytes.drop (bytes.length / 64 * 64)
  let pad := rest ++ 0x80 :: List.replicate ((119 - rest.length) % 64) 0 ++ (leBytes 8 (8 * bytes.length)).reverse
  shaBytes (shaBlocks (shaBlocks shaInit bytes) pad)

end Sys2Proof.Machine
end

