-- ==== Sys2Proof/Machine/Rows.lean ====
section
/-! DEFINITION. Stream rows (09_streams R206-R217, R221): where each row of a bound port lies, the checks of its accesses,
what a consumer receives and what a producer leaves to be written. -/

namespace Sys2Proof.Machine

/-! ### Banks of the data SRAM (R199, R320) -/

/-- The lines of a tile's SRAM that a row touches. -/
def rowLines (cells : List Nat) : List Nat := (cells.map (· / 128)).eraseDups

/-- Whether lines need a bank that one of other lines takes (R199). -/
def sameBank (lines taken : List Nat) : Bool := lines.any fun l => taken.any fun k => k % 16 == l % 16 && k != l

/-- Whether a copy that has been passed over too long takes a bank of lines in this cycle (R320). -/
def Tile.starves (t : Tile) (lines : List Nat) : Bool := lines.any fun l => t.starved.any fun k => k % 16 == l % 16

/-- Whether an access finds a bank taken by another line of this cycle or by such a copy (R199, R320). -/
def Tile.bankTaken (t : Tile) (lines : List Nat) : Bool := sameBank lines t.lines || t.starves lines

/-- The cycle of a context whose row or landing is held by a bank counts under 0x3, and not as a consumer's wait for that row (R199,
R221, R493). -/
def State.displaced (s : State) (tile place : Nat) : State :=
  s.updCtx tile place fun c => { c with lost := match c.lost with
    | none | some (1, _) => some (3, 7)
    | l => l }

/-! ### Which of several failing checks is raised (R130) -/

/-- The place of a cause in the order of R130. -/
def causeStage (cause : Nat) : Nat :=
  if cause ≤ 2 then 1
  else if cause = causeMisalignedTarget then 2
  else if cause = causeStallUndersized then 3
  else if cause = causeSramRange then 4
  else if cause = causeSetOverlap then 5
  else if cause = causeVaultOwnership then 6
  else if cause = causeArrayOwnership then 7
  else if cause = causeVaultTiming then 8
  else if cause = causeShapeRevalidate then 9
  else if cause = causePoison then 10
  else 11

/-- The failing check that R130 puts first; among equals, the first listed. -/
def firstByStage (l : List (Option Trap)) : Option Trap :=
  (l.filterMap id).foldl (fun best t =>
    match best with
    | none => some t
    | some b => if causeStage t.cause < causeStage b.cause then some t else some b) none

/-! ### Rows of a binding -/

/-- Bytes of a port row (R210). -/
def Port.width (p : Port) : Nat := if p.narrow then 128 else 256

/-- Bits per element of the bound handle. -/
def Port.bits (p : Port) : Nat := typeBits p.handle.type

/-- Bytes of one innermost row (R210). -/
def Port.rowBytes (p : Port) : Nat := (p.handle.extent 0 * p.bits + 7) / 8

/-- Port rows per innermost row (R210). -/
def Port.chunks (p : Port) : Nat := ceilDiv p.rowBytes p.width

/-- The rows of the binding, N (R210, R212, R215). -/
def Port.total (p : Port) : Nat :=
  let h := p.handle
  if p.gather then h.gcount * h.grows
  else if h.transpose then h.extent 0 * h.extent 2 * h.extent 3
  else h.extent 1 * h.extent 2 * h.extent 3 * p.chunks

/-- A row: the innermost row it lies in, its first byte there and its length. -/
structure RowPlace where
  i1 : Nat
  i2 : Nat
  i3 : Nat
  off : Nat
  n : Nat
  deriving DecidableEq, Repr

/-- A block list entry c0-c3 (R215). -/
def Port.entryAddr (p : Port) (ordinal : Nat) : Nat := p.handle.gaddr + 8 * (ordinal % p.total / p.handle.grows)

/-- The list entry that was fetched for a syllable's row on a port (R215). -/
def Queued.entry (q : Queued) (port : Nat) : Option Nat := Table.find? q.entries port

/-- The list entry of a row's block, as it stands. -/
def Port.listEntry (s : State) (tile : Nat) (p : Port) (ordinal : Nat) : Nat := leNat (s.read (sramKey tile (p.entryAddr ordinal)) 8)

/-- The row of an ordinal, by the list entry of its block where that has been fetched (R215). -/
def Port.place (s : State) (tile : Nat) (p : Port) (ordinal : Nat) (entry : Option Nat := none) : RowPlace :=
  let h := p.handle
  let q := ordinal % p.total
  if p.gather then
    let e := entry.getD (p.listEntry s tile ordinal)
    { i1 := bitsOf e 16 16 * h.grows + q % h.grows, i2 := bitsOf e 32 16, i3 := bitsOf e 48 16,
      off := bitsOf e 0 16 * h.gcols * p.bits / 8, n := h.gcols * p.bits / 8 }
  else if h.transpose then
    let r := q / h.extent 0
    { i1 := 0, i2 := r % h.extent 2, i3 := r / h.extent 2, off := q % h.extent 0 * p.bits / 8,
      n := h.extent 1 * p.bits / 8 }
  else
    let r := q / p.chunks
    let off := q % p.chunks * p.width
    { i1 := r % h.extent 1, i2 := r / h.extent 1 % h.extent 2, i3 := r / h.extent 1 / h.extent 2, off := off,
      n := min p.width (p.rowBytes - off) }

/-- Where the byte at an offset of an innermost row is stored (R212). -/
def Port.swizzle (p : Port) (i1 off : Nat) : Nat :=
  if p.handle.layout = 1 then 64 * (off / 64 ^^^ i1 % (p.rowBytes / 64)) + off % 64 else off

/-- The first byte of an innermost row. -/
def Port.innermost (p : Port) (i1 i2 i3 : Nat) : Nat :=
  p.handle.base + i1 * p.handle.stride 1 + i2 * p.handle.stride 2 + i3 * p.handle.stride 3

/-- The row's address, which a trap record names. -/
def Port.rowAddr (p : Port) (r : RowPlace) : Nat := p.innermost r.i1 r.i2 r.i3 + r.off

/-- The address of byte b of a row, in the layouts that store every byte of it. -/
def Port.byteAddr (p : Port) (r : RowPlace) (b : Nat) : Nat :=
  if p.handle.transpose && !p.gather then
    let eb := p.bits / 8
    p.innermost (b / eb) r.i2 r.i3 + p.swizzle (b / eb) (r.off + b % eb)
  else p.innermost r.i1 r.i2 r.i3 + p.swizzle r.i1 (r.off + b)

/-- The stored bytes of a row, as row position and address; for layout 4 the kept values (R214). -/
def Port.cells (p : Port) (r : RowPlace) : List (Nat × Nat) :=
  if p.handle.layout = 4 then (List.range (r.n / 2)).map fun b => (b, p.innermost r.i1 r.i2 r.i3 + r.off / 2 + b)
  else (List.range r.n).map fun b => (b, p.byteAddr r b)

/-- The scale byte of a row of layout 2 (R213). -/
def Port.scaleAddr (p : Port) (ordinal : Nat) : Option Nat :=
  if p.handle.layout = 2 && (p.handle.type == 6 || p.handle.type == 7) then
    some (p.handle.gaddr + (if p.handle.repeats then ordinal % p.total else ordinal))
  else none

/-- The metadata bytes of a row of layout 4 (R214): first byte and the nibble it starts with. -/
def Port.metaStart (p : Port) (r : RowPlace) : Nat × Nat :=
  let h := p.handle
  let u := r.i1 + h.extent 1 * (r.i2 + h.extent 2 * r.i3)
  let g := r.off / (4 * (p.bits / 8))
  (h.gaddr + u * ceilTo (ceilDiv (h.extent 0) 8) 64 + g / 2, g % 2)

/-- Groups of four in a row of layout 4. -/
def Port.groups (p : Port) (r : RowPlace) : Nat := r.n / (4 * (p.bits / 8))

/-- The addresses of the metadata bytes. -/
def Port.metaCells (p : Port) (r : RowPlace) : List Nat :=
  if p.handle.layout = 4 then
    let m := p.metaStart r
    (List.range ((m.2 + p.groups r + 1) / 2)).map (m.1 + ·)
  else []

/-- Every byte the unit accesses for a row, the scale byte and the metadata included. -/
def Port.accessed (p : Port) (r : RowPlace) : List Nat :=
  (p.cells r).map (·.2) ++ p.metaCells r

/-- The bytes of the list entry that gives a row its place (R215). -/
def Port.entryCells (p : Port) (ordinal : Nat) : List Nat :=
  if p.gather then (List.range 8).map (p.entryAddr ordinal + ·) else []

/-- The bytes of a row with its scale byte, which is read or written with it (R213). -/
def Port.rowCells (p : Port) (r : RowPlace) (ordinal : Nat) : List Nat := p.accessed r ++ (p.scaleAddr ordinal).toList

/-- The logical index of the element at bit position b of a row (R217); none in its zero fill. -/
def Port.index (p : Port) (r : RowPlace) (b : Nat) : Option Nat :=
  let h := p.handle
  if p.bits = 0 || r.n * 8 ≤ b then none
  else
    let t := h.transpose && !p.gather
    let i0 := if t then r.off * 8 / p.bits else (r.off * 8 + b) / p.bits
    let i1 := if t then b / p.bits else r.i1
    some ((p.origin.toNat + i0 + h.extent 0 * (i1 + h.extent 1 * (r.i2 + h.extent 2 * r.i3))) % 2 ^ 56)

/-! ### Checks (R221) -/

/-- Bytes beyond the data SRAM, then bytes in the reserved window; the record names the given address. -/
def rangeOfCells (named outside : Nat) (l : List Nat) : Option Trap :=
  let t (d : Nat) : Trap := { cause := causeSramRange, detail := d, address := BitVec.ofNat 64 named }
  if l.any fun a => Config.sramBytes ≤ a then some (t outside)
  else if l.any fun a => Config.windowBase ≤ a then some (t 0x0002) else none

/-- The set check of single bytes on path ST; the record names the given address. -/
def State.cellsSet (s : State) (tile : Nat) (c : Ctx) (group : BitVec 4) (write : Bool) (named : Nat) (l : List Nat) : Option Trap :=
  (((l.map (· / 64)).eraseDups).findSome? fun k => s.setCheck tile c group 1 (!write) write false false (64 * k) 64).map
    fun t => { t with address := BitVec.ofNat 64 named }

/-- Whether one of the bytes lies in a poisoned granule of a tile's SRAM. -/
def State.cellsPoisoned (s : State) (tile : Nat) (l : List Nat) : Bool :=
  ((l.map (· / 64)).eraseDups).any fun k => s.poison.contains (sramKey tile 0 / 64 + k)

/-- POISON of a stream row (detail 0x0023). -/
def poisonRow (a : Nat) : Trap := { cause := causePoison, detail := 0x23, address := BitVec.ofNat 64 a }

/-- A STREAM_FAULT. -/
def streamFault (detail : Nat) (a : Nat := 0) : Trap := { cause := causeStreamFault, detail := detail, address := BitVec.ofNat 64 a }

/-- The checks of the list entry of a block, made at its first row (R215): range, set, poison and coordinates. A poisoned entry raises detail
0x0022 with its granule, as a read that is no row's does (DESIGN CHOICE, log 60). -/
def State.entryTraps (s : State) (tile : Nat) (c : Ctx) (group : BitVec 4) (p : Port) (ordinal : Nat) (r : RowPlace) :
    List (Option Trap) :=
  let h := p.handle
  if !p.gather || ordinal % p.total % h.grows != 0 then []
  else
    let a := p.entryAddr ordinal
    let bytes := (List.range 8).map (a + ·)
    [rangeOfCells a 0x090F bytes, s.cellsSet tile c group false a bytes,
     if s.cellsPoisoned tile bytes then some { cause := causePoison, detail := 0x22, address := BitVec.ofNat 64 (a / 64 * 64) } else none,
     if h.extent 0 * p.bits < (r.off + r.n) * 8 || h.extent 1 < r.i1 + h.grows || h.extent 2 ≤ r.i2 || h.extent 3 ≤ r.i3 then
       some (streamFault 0x090B a) else none]

/-- The checks of a row given to a syllable, without its poison: the port it lacks, the list entry, range, set. A block whose entry fails
emits no row (R215). -/
def State.rowTraps (s : State) (tile : Nat) (c : Ctx) (q : Queued) (u : RowUse) : List (Option Trap) :=
  match u.bound with
  | none => [some (streamFault u.fault)]
  | some p =>
    let r := p.place s tile u.ordinal (q.entry u.port)
    let write := 8 ≤ u.port
    let named := p.rowAddr r
    let cells := p.accessed r
    let scale := (p.scaleAddr u.ordinal).toList
    let entry := s.entryTraps tile c q.group p u.ordinal r
    if entry.any (·.isSome) then entry
    else
      [rangeOfCells named 0x090F cells, rangeOfCells (scale.headD 0) 0x090F scale,
       s.cellsSet tile c q.group write named cells, s.cellsSet tile c q.group write (scale.headD 0) scale]

/-- The bytes a consumer receives: row position order, zero beyond the tensor (R210); layout 4 in its dense form, or the
metadata fault (R214). -/
def State.rowBytes (s : State) (tile : Nat) (p : Port) (ordinal : Nat) (entry : Option Nat := none) : Except Trap (List Byte) :=
  let r := p.place s tile ordinal entry
  let get (a : Nat) : Byte := s.mem.read (sramKey tile a)
  let stored := (p.cells r).map fun c => get c.2
  if p.handle.layout = 4 then
    let eb := p.bits / 8
    let m := p.metaStart r
    let one (g : Nat) : Except Trap (List Byte) :=
      let nib := ((get (m.1 + (m.2 + g) / 2)).toNat / 16 ^ ((m.2 + g) % 2)) % 16
      if nib / 4 ≤ nib % 4 then .error (streamFault 0x090E (p.rowAddr r))
      else .ok ((List.range 4).flatMap fun k =>
        if k = nib % 4 then (stored.drop (2 * g * eb)).take eb
        else if k = nib / 4 then (stored.drop ((2 * g + 1) * eb)).take eb
        else List.replicate eb 0)
    ((List.range (p.groups r)).mapM one).map List.flatten
  else .ok stored

/-- What a consumer receives from a row: its bytes as one number, its scale, the checks that fail, its poison. -/
structure RowIn where
  value : Nat
  scale : Option Nat
  traps : List (Option Trap)
  poison : Option Trap

/-- A row as its consumer receives it (R221, R213). -/
def State.rowIn (s : State) (tile : Nat) (c : Ctx) (q : Queued) (u : RowUse) : RowIn :=
  match u.bound with
  | none => ⟨0, none, s.rowTraps tile c q u, none⟩
  | some p =>
    let r := p.place s tile u.ordinal (q.entry u.port)
    let bytes := s.rowBytes tile p u.ordinal (q.entry u.port)
    let scale := p.scaleAddr u.ordinal
    { value := match bytes with | .ok b => leNat b | .error _ => 0
      scale := scale.map fun a => (s.mem.read (sramKey tile a)).toNat
      traps := s.rowTraps tile c q u ++ [match bytes with | .ok _ => none | .error t => some t]
      poison :=
        if s.cellsPoisoned tile (p.accessed r) then some (poisonRow (p.rowAddr r))
        else if s.cellsPoisoned tile scale.toList then some (poisonRow (scale.getD 0)) else none }

/-- The row that a syllable was given on a port (R219). -/
def Queued.rowOn (q : Queued) (port : Nat) : RowUse :=
  (q.rows.find? fun u => u.port == port).getD ⟨port, none, 0, 0x0908⟩

/-- The bytes of a produced row: those of the tensor whose byte enable is set (R210, R230). -/
def State.rowOut (s : State) (tile : Nat) (p : Port) (ordinal value enable : Nat) (entry : Option Nat := none) : List (Nat × Byte) :=
  let r := p.place s tile ordinal entry
  (p.cells r).filterMap fun c => if enable.testBit c.1 then some (c.2, BitVec.ofNat 8 (value / 256 ^ c.1)) else none

/-- Writes single bytes of a tile's SRAM in one access; poison as R136: set on each granule, or cleared on each written whole. -/
def State.writeCells (s : State) (tile : Nat) (l : List (Nat × Byte)) (poison : Bool) : State :=
  let grains := (l.map fun c => c.1 / 64).eraseDups
  let base := sramKey tile 0 / 64
  let whole := grains.filter fun k => ((l.filter fun c => c.1 / 64 == k).map (·.1)).eraseDups.length == 64
  { s with
    mem := s.mem.writeAll (l.map fun c => (sramKey tile c.1, c.2))
    poison := if poison then (grains.map (base + ·)).foldl NatSet.insert s.poison
      else (whole.map (base + ·)).foldl NatSet.erase s.poison }

/-- Lists a step of a tile at the end of the cycle n cycles from now, behind the SC accesses of that cycle (R199). -/
def State.lateTile (s : State) (tile n : Nat) (i : Instr) : State :=
  if n = 0 then
    let tail := s.agenda.reverse.takeWhile fun w => match w with | .event _ => true | _ => false
    { s with agenda := s.agenda.take (s.agenda.length - tail.length) ++ .event i :: tail.reverse }
  else s.afterTile tile n i 50

/-- Leaves a produced row to be written, with its scale byte (R213), in the place its bundle gives it (R221), within four cycles
(R267). -/
def State.produce (s : State) (e : Issued) (c : Ctx) (u : RowUse) (value enable : Nat) (poison : Bool) : State :=
  match u.bound with
  | none => s.putCtx e.tile e.place c
  | some p =>
    let out := s.rowOut e.tile p u.ordinal value enable (e.q.entry u.port)
    let scale := (p.scaleAddr u.ordinal).toList.map fun a => (a, Config.rowScale (out.map (·.2)))
    let row : OutRow := ⟨u.port, e.q.seq, out ++ scale, poison, none⟩
    let rec place : List OutRow → List OutRow
      | [] => [row]
      | x :: r => if x.seq ≤ row.seq then x :: place r else row :: x :: r
    let d := s.drawDelay 4
    (d.2.putCtx e.tile e.place { c with outRows := place c.outRows }).lateTile e.tile (d.1 - 1)
      (.outputRowWrite ⟨e.tile, c.launch, c.num⟩)

end Sys2Proof.Machine
end

