-- ==== Sys2Proof/Machine/Vector.lean ====
section
/-! DEFINITION. The vector engine (10_vector): operands, lane masks, keyed indices and the meaning of every V syllable. -/

namespace Sys2Proof.Machine

/-! ### Vectors as numbers (R229) -/

/-- Element e of w bits. -/
def elemAt (w v e : Nat) : Nat := v / 2 ^ (w * e) % 2 ^ w

/-- A vector from its elements of w bits. -/
def packElems (w : Nat) : List Nat → Nat
  | [] => 0
  | x :: r => x % 2 ^ w + 2 ^ w * packElems w r

/-- Elements of w bits in a vector. -/
def elemCount (w : Nat) : Nat := 2048 / w

/-- One element in every place. -/
def splat (w v : Nat) : Nat := packElems w (List.replicate (elemCount w) v)

/-- The bits of the lanes of a mask. -/
def laneBits (m : Word64) : Nat := packElems 32 ((List.range 64).map fun j => if m.getLsbD j then 2 ^ 32 - 1 else 0)

/-- The bytes of the lanes of a mask, one bit each. -/
def laneBytes (m : Word64) : Nat := packElems 4 ((List.range 64).map fun j => if m.getLsbD j then 15 else 0)

/-- Whether element e of w bits lies in a lane of the mask. -/
def laneOf (m : Word64) (w e : Nat) : Bool := m.getLsbD (e * w / 32)

/-- A lane mask register as read at dispatch; m0 reads all ones (R230). -/
def Ctx.maskReg (c : Ctx) (q : Queued) (n : Nat) : Word64 :=
  if n = 0 then BitVec.allOnes 64 else (c.regsAt q.disp).m.getD n 0

/-! ### Sources (R231, R233) -/

/-- A source operand: its 256 bytes, failing checks, its poison and the row it came from. -/
structure VSrc where
  value : Nat
  traps : List (Option Trap)
  poison : Option Trap
  row : Option (Port × RowPlace)

/-- Element e of the lane index in a type (R231, code 14). TERN, which the rule's lists leave out, takes e mod 4 as its code, so that the
code 2 of element 2 is a reserved one (DESIGN CHOICE, log 59). -/
def laneElem (ty e : Nat) : Nat :=
  match floatFmt ty with
  | some f => (satFloat f 0 0 false (Exact.ofInt e)).1
  | none => e % 2 ^ typeBits ty

/-- The g register that the lend byte names (R34). -/
def lendReg (lend : Option Byte) : BitVec 6 := (lend.getD 0).setWidth 6

/-- A source field: code, latch cluster (0 a, 1 b, 2 c), and the type the operand is read in. -/
def vsrc (s : State) (e : Issued) (c : Ctx) (code cluster ty : Nat) (lend : Option Byte) : VSrc :=
  let w := typeBits ty
  if code < 8 then
    let u := e.q.rowOn code
    let r := s.rowIn e.tile c e.q u
    ⟨r.value, r.traps, r.poison, u.bound.map fun p => (p, p.place s e.tile u.ordinal (e.q.entry u.port))⟩
  else if code < 12 then
    let n := 4 * cluster + code - 8
    let f := c.regsAt e.q.disp
    ⟨(f.v.getD n 0).toNat, [],
      if f.vPoison.getLsbD n then some { cause := causePoison, detail := 0x21, value := BitVec.ofNat 48 n } else none, none⟩
  else if code = 12 then ⟨0, [], none, none⟩
  else if code = 13 then ⟨2 ^ 2048 - 1, [], none, none⟩
  else if code = 14 then ⟨packElems w ((List.range (elemCount w)).map (laneElem ty)), [], none, none⟩
  else
    let n := lendReg lend
    ⟨splat w ((c.gRaw e.q n).toNat), [], if c.gPoisoned e.q n then some (poisonG n) else none, none⟩

/-- What a V syllable works on: its three sources, the lanes of its mask field, and its place. -/
structure VEnv where
  s : State
  e : Issued
  c : Ctx
  o : VOp
  a : VSrc
  b : VSrc
  d : VSrc
  lanes : Word64

/-- The type code of the operation. -/
def VEnv.ty (v : VEnv) : Nat := v.o.ty.toNat

/-- The width of its elements. -/
def VEnv.w (v : VEnv) : Nat := typeBits v.ty

/-- The rounding mode (Table 2.12). -/
def VEnv.mode (v : VEnv) : Nat := (v.o.md.extractLsb' 1 3).toNat

/-- Modifier bit 0. -/
def VEnv.m0 (v : VEnv) : Bool := v.o.md.getLsbD 0

/-- The index of result element e (R235); none in the zero fill of a row. -/
def VEnv.index (v : VEnv) (e : Nat) : Option Nat :=
  if 12 ≤ v.o.dst.toNat then
    let u := v.e.q.rowOn (v.o.dst.toNat - 4)
    u.bound.bind fun p => p.index (p.place v.s v.e.tile u.ordinal (v.e.q.entry u.port)) (e * v.w)
  else
    match v.a.row with
    | some (p, r) => p.index r (e * p.bits)
    | none => some (((v.c.csrAt v.e.q.disp 0x51).toNat + e) % 2 ^ 56)

/-- The keyed bits of result element e for a purpose code (R121, R235). -/
def VEnv.keyed (v : VEnv) (purpose e : Nat) : Nat :=
  match v.index e with
  | none => 0
  | some i =>
    (keybits (v.c.csrAt v.e.q.disp 0x30) (v.c.csrAt v.e.q.disp 0x31) (BitVec.ofNat 64 (purpose * 2 ^ 56 + i))).toNat

/-- The k of a stochastic rounding; no other mode draws one. -/
def VEnv.k (v : VEnv) (e : Nat) : Nat := if v.mode = 4 then v.keyed 1 e % 2 ^ 16 else 0

/-- What a V syllable computes: the destination bytes, the flags, and a mask register's new value (R239). -/
structure VOut where
  value : Nat
  flags : Nat := 0
  mask : Option Word64 := none
  poison : Bool := false

/-- The elements of the result, computed where their lane is on (R230). -/
def VEnv.elems (_v : VEnv) (lanes : Word64) (w : Nat) (f : Nat → Nat × Nat) : VOut :=
  let l := (List.range (elemCount w)).map fun e => if laneOf lanes w e then f e else (0, 0)
  { value := packElems w (l.map (·.1)), flags := l.foldl (fun r x => r ||| x.2) 0 }

/-- Writes a V result (R232): a latch through the lanes, or one row of an output port, and the flags. -/
def VEnv.write (v : VEnv) (latency : Nat) (lanes : Word64) (full : Bool) (r : VOut) : State :=
  let q := v.e.q
  let c := v.c.setFlags q latency csrFlagsV r.flags
  let c := match r.mask with
    | some m => c.result q latency (.m v.o.mask.toNat) (m.setWidth 2048) none
    | none => c
  if 12 ≤ v.o.dst.toNat then v.s.produce v.e c (q.rowOn (v.o.dst.toNat - 4)) r.value (laneBytes lanes) r.poison
  else
    v.s.putCtx v.e.tile v.e.place (c.post
      ⟨.v v.o.dst.toNat, q.disp + latency, q.left + latency, q.held, q.seq, q.slot, BitVec.ofNat 2048 (laneBits lanes),
        BitVec.ofNat 2048 r.value, if full || r.poison then some r.poison else none⟩)

/-- The checks of a V syllable's rows: its sources' in the order A, B, C, then its destination's (R221). -/
def VEnv.rowChecks (v : VEnv) : List (Option Trap) :=
  v.a.traps ++ v.b.traps ++ v.d.traps ++
    (if 12 ≤ v.o.dst.toNat then v.s.rowTraps v.e.tile v.c v.e.q (v.e.q.rowOn (v.o.dst.toNat - 4)) else [])

/-- Sources of an operation whose B field is a type (CVT, QPACK) are A alone, read in that type. -/
def vEnv (s : State) (e : Issued) (c : Ctx) (o : VOp) (ta tb tc : Nat) (bIsType : Bool) : VEnv :=
  { s := s, e := e, c := c, o := o
    a := vsrc s e c o.a.toNat 0 ta o.lend
    b := if bIsType then ⟨0, [], none, none⟩ else vsrc s e c o.b.toNat 1 tb o.lend
    d := vsrc s e c o.c.toNat 2 tc o.lend
    lanes := c.maskReg e.q o.mask.toNat }

/-- A V syllable that reads its sources in its own type, raises their poison, and writes through its lanes. -/
def vectorOp (o : VOp) (latency : Nat) (f : VEnv → VOut) (s : State) (bIsType : Bool := false)
    (allLanes : Bool := false) : Host.Outcome State Fault Refusal :=
  onSyllable s fun e c =>
    let ta := if bIsType then o.b.toNat else o.ty.toNat
    let v := vEnv s e c o ta o.ty.toNat o.ty.toNat bIsType
    match firstByStage (v.rowChecks ++ [v.a.poison, v.b.poison, v.d.poison]) with
    | some t => .trap s t
    | none =>
      let lanes := if allLanes then BitVec.allOnes 64 else v.lanes
      .done (v.write latency lanes (allLanes || o.mask == 0) (f v))

/-! ### Floating arithmetic (R238) -/

/-- Elements of the sources as values. -/
def VEnv.x (v : VEnv) (e : Nat) : Exact := readNum v.ty (elemAt v.w v.a.value e)
def VEnv.y (v : VEnv) (e : Nat) : Exact := readNum v.ty (elemAt v.w v.b.value e)
def VEnv.z (v : VEnv) (e : Nat) : Exact := readNum v.ty (elemAt v.w v.d.value e)

/-- INVALID: a NaN made from operands that hold none (R110). -/
def invalidFlag (r : Exact) (operands : List Exact) : Nat :=
  if r.isNan && !operands.any Exact.isNan then flagInvalid else 0

/-- A floating operation element by element: the value and the further flags of Table 10.3. -/
def floatOp (o : VOp) (latency : Nat) (f : VEnv → Exact → Exact → Exact → Exact × Nat) (s : State) :
    Host.Outcome State Fault Refusal :=
  vectorOp o latency (fun v => v.elems v.lanes v.w fun e =>
    let r := f v (v.x e) (v.y e) (v.z e)
    let code := match floatFmt v.ty with
      | some fm => satFloat fm v.mode (v.k e) true r.1
      | none => (0, 0)
    (code.1, code.2 ||| r.2)) s

/-- A value or its negation, by modifier bit 0. -/
def VEnv.sign (v : VEnv) (x : Exact) : Exact := if v.m0 then x.neg else x

def execFadd (o : VOp) (s : State) : Host.Outcome State Fault Refusal :=
  floatOp o 4 (fun v x y _ =>
    let r := Exact.add v.mode (v.sign x) (v.sign y)
    (r, invalidFlag r [x, y])) s

def execFsub (o : VOp) (s : State) : Host.Outcome State Fault Refusal :=
  floatOp o 4 (fun v x y _ =>
    let r := Exact.add v.mode (v.sign x) (v.sign y.neg)
    (r, invalidFlag r [x, y])) s

def execFmul (o : VOp) (s : State) : Host.Outcome State Fault Refusal :=
  floatOp o 4 (fun v x y _ =>
    let r := v.sign (x.mul y)
    (r, invalidFlag r [x, y])) s

def execFma (o : VOp) (s : State) : Host.Outcome State Fault Refusal :=
  floatOp o 4 (fun v x y z =>
    let r := Exact.add v.mode (v.sign (x.mul y)) (v.sign z)
    (r, invalidFlag r [x, y, z])) s

def execFms (o : VOp) (s : State) : Host.Outcome State Fault Refusal :=
  floatOp o 4 (fun v x y z =>
    let r := Exact.add v.mode (v.sign (x.mul y)) (v.sign z.neg)
    (r, invalidFlag r [x, y, z])) s

def execFmin (o : VOp) (s : State) : Host.Outcome State Fault Refusal :=
  floatOp o 2 (fun v x y _ => (v.sign (x.min y), 0)) s

def execFmax (o : VOp) (s : State) : Host.Outcome State Fault Refusal :=
  floatOp o 2 (fun v x y _ => (v.sign (x.max y), 0)) s

/-- DIV_BY_ZERO of a quotient: a finite nonzero number over a zero. -/
def divZeroFlag (x y : Exact) : Nat :=
  match x with
  | .fin _ m _ _ => if m != 0 && y.isZero then flagDivByZero else 0
  | _ => 0

def execFdiv (o : VOp) (s : State) : Host.Outcome State Fault Refusal :=
  floatOp o 14 (fun v x y _ =>
    let r := v.sign (x.div y)
    (r, invalidFlag r [x, y] ||| divZeroFlag x y)) s

def execFsqrt (o : VOp) (s : State) : Host.Outcome State Fault Refusal :=
  floatOp o 14 (fun v x _ _ =>
    let r := v.sign x.sqrt
    (r, invalidFlag r [x] ||| (if x.nonPositive then flagSqrtNonpos else 0))) s

def execFrcp (o : VOp) (s : State) : Host.Outcome State Fault Refusal :=
  floatOp o 6 (fun v x _ _ => (v.sign ((Exact.ofInt 1).div x), if x.isZero then flagDivByZero else 0)) s

def execFrsq (o : VOp) (s : State) : Host.Outcome State Fault Refusal :=
  floatOp o 6 (fun v x _ _ =>
    let r := v.sign x.rsqrt
    (r, invalidFlag r [x] ||| (if x.nonPositive then flagSqrtNonpos else 0) ||| (if x.isZero then flagDivByZero else 0))) s

def execFexp2 (o : VOp) (s : State) : Host.Outcome State Fault Refusal :=
  floatOp o 8 (fun v x _ _ => (v.sign x.exp2, 0)) s

def execFlog2 (o : VOp) (s : State) : Host.Outcome State Fault Refusal :=
  floatOp o 8 (fun v x _ _ =>
    let r := v.sign x.log2
    (r, invalidFlag r [x] ||| (if x.isZero then flagDivByZero else 0))) s

/-! ### Compares and classes (R239, R241) -/

/-- A compare: all ones or zeros in every lane, and the lane results in the mask register named. -/
def compareOp (o : VOp) (holds : VEnv → Nat → Bool) (s : State) : Host.Outcome State Fault Refusal :=
  vectorOp o 2 (fun v =>
    let bits := (List.range (elemCount v.w)).map (holds v)
    { value := packElems v.w (bits.map fun b => if b then 2 ^ v.w - 1 else 0)
      mask := if o.mask = 0 then none
        else some (BitVec.ofNat 64 (packElems 1 (bits.map fun b => if b then 1 else 0))) }) s false true

/-- Table 10.4. -/
def floatCond (cond : Nat) (x y : Exact) : Bool :=
  match cond with
  | 0 => x.eq y
  | 1 => !x.eq y
  | 2 => x.lt y
  | 3 => x.lt y || x.eq y
  | 4 => y.lt x
  | 5 => y.lt x || x.eq y
  | 6 => x.isNan || y.isNan
  | _ => !x.isNan && !y.isNan

def execFcmp (o : VOp) (s : State) : Host.Outcome State Fault Refusal :=
  compareOp o (fun v e => floatCond v.mode (v.x e) (v.y e)) s

/-- The class bit of a code (R239). -/
def floatClass (f : FloatFmt) (code : Nat) : Nat :=
  match f.value code with
  | .nan => 8
  | .inf s => if s then 0 else 7
  | .fin s m _ _ =>
    let normal := 2 ^ f.frac ≤ m
    if m = 0 then (if s then 3 else 4) else if s then (if normal then 1 else 2) else (if normal then 6 else 5)

def execFclass (o : VOp) (s : State) : Host.Outcome State Fault Refusal :=
  vectorOp o 2 (fun v => v.elems v.lanes v.w fun e =>
    match floatFmt v.ty with
    | some f => (2 ^ floatClass f (elemAt v.w v.a.value e), 0)
    | none => (0, 0)) s

/-! ### Integer operations (R240-R242) -/

/-- Element patterns and integers of the sources. -/
def VEnv.ax (v : VEnv) (e : Nat) : Nat := elemAt v.w v.a.value e
def VEnv.bx (v : VEnv) (e : Nat) : Nat := elemAt v.w v.b.value e
def VEnv.cx (v : VEnv) (e : Nat) : Nat := elemAt v.w v.d.value e
def VEnv.ai (v : VEnv) (e : Nat) : Int := readInt v.ty (v.ax e)
def VEnv.bi (v : VEnv) (e : Nat) : Int := readInt v.ty (v.bx e)

/-- An exact integer result, saturated or wrapped (R118). -/
def narrowInt (ty : Nat) (sat : Bool) (v : Int) : Nat × Nat :=
  let r := satRange v (typeRange ty).1 (typeRange ty).2
  if sat then (wrapTo (typeBits ty) r.1, if r.2 then flagSaturated else 0) else (wrapTo (typeBits ty) v, 0)

/-- An integer operation element by element; modifier bit 0 saturates. -/
def intOp (o : VOp) (f : VEnv → Nat → Int) (s : State) : Host.Outcome State Fault Refusal :=
  vectorOp o 2 (fun v => v.elems v.lanes v.w fun e => narrowInt v.ty v.m0 (f v e)) s

/-- The shift count of an element: y mod w. -/
def VEnv.count (v : VEnv) (e : Nat) : Nat := v.bx e % v.w

def execIadd (o : VOp) (s : State) : Host.Outcome State Fault Refusal := intOp o (fun v e => v.ai e + v.bi e) s
def execIsub (o : VOp) (s : State) : Host.Outcome State Fault Refusal := intOp o (fun v e => v.ai e - v.bi e) s
def execImul (o : VOp) (s : State) : Host.Outcome State Fault Refusal := intOp o (fun v e => v.ai e * v.bi e) s
def execIand (o : VOp) (s : State) : Host.Outcome State Fault Refusal := intOp o (fun v e => ((v.ax e &&& v.bx e : Nat) : Int)) s
def execIor (o : VOp) (s : State) : Host.Outcome State Fault Refusal := intOp o (fun v e => ((v.ax e ||| v.bx e : Nat) : Int)) s
def execIxor (o : VOp) (s : State) : Host.Outcome State Fault Refusal := intOp o (fun v e => ((v.ax e ^^^ v.bx e : Nat) : Int)) s
def execIshl (o : VOp) (s : State) : Host.Outcome State Fault Refusal := intOp o (fun v e => v.ai e * 2 ^ v.count e) s
def execIshr (o : VOp) (s : State) : Host.Outcome State Fault Refusal :=
  intOp o (fun v e => ((v.ax e / 2 ^ v.count e : Nat) : Int)) s
def execIsra (o : VOp) (s : State) : Host.Outcome State Fault Refusal :=
  intOp o (fun v e => signed v.w (v.ax e) / 2 ^ v.count e) s
def execImin (o : VOp) (s : State) : Host.Outcome State Fault Refusal := intOp o (fun v e => min (v.ai e) (v.bi e)) s
def execImax (o : VOp) (s : State) : Host.Outcome State Fault Refusal := intOp o (fun v e => max (v.ai e) (v.bi e)) s

def execIcmp (o : VOp) (s : State) : Host.Outcome State Fault Refusal :=
  compareOp o (fun v e => floatCond v.mode (Exact.ofInt (v.ai e)) (Exact.ofInt (v.bi e))) s

def execVbfx (o : VOp) (s : State) : Host.Outcome State Fault Refusal :=
  vectorOp o 2 (fun v => v.elems v.lanes v.w fun e =>
    let len := v.bx e / v.w % v.w + 1
    let t := v.ax e / 2 ^ (v.bx e % v.w) % 2 ^ len
    (if v.m0 then wrapTo v.w (signed len t) else t, 0)) s

def execVfsh (o : VOp) (s : State) : Host.Outcome State Fault Refusal :=
  vectorOp o 2 (fun v => v.elems v.lanes v.w fun e =>
    let n := v.bx e % v.w
    let r := if v.m0 then (v.ax e * 2 ^ (2 * v.w - n) + v.cx e * 2 ^ (v.w - n)) / 2 ^ v.w
      else v.ax e * 2 ^ n + v.cx e / 2 ^ (v.w - n)
    (r % 2 ^ v.w, 0)) s

/-! ### Moving and rearranging (R243-R245) -/

def execMovl (o : VOp) (s : State) : Host.Outcome State Fault Refusal :=
  onSyllable s fun e c =>
    let v := vEnv s e c o o.ty.toNat o.ty.toNat o.ty.toNat false
    let src := if o.md = 0 then v.a else if o.md = 1 then v.b else v.d
    match firstByStage v.rowChecks with
    | some t => .trap s t
    | none => .done (v.write 1 v.lanes (o.mask == 0) { value := src.value, poison := src.poison.isSome })

/-- Element e of an index operand, an unsigned integer of the element width: the lane index gives e itself, whatever the type (R231, R244). -/
def VEnv.indexAt (v : VEnv) (code : BitVec 4) (x : VSrc) (e : Nat) : Nat := if code = 14 then e % 2 ^ v.w else elemAt v.w x.value e

/-- The codes of a VLUT, in the bytes of A; A is formed in elements of the operation's width, a broadcast among them, since the manual
names no other width (DESIGN CHOICE, log 59). -/
def VEnv.codes (v : VEnv) : Nat := if v.o.a = 14 then packElems v.w (List.range (elemCount v.w)) else v.a.value

def execVsel (o : VOp) (s : State) : Host.Outcome State Fault Refusal :=
  vectorOp o 2 (fun v => v.elems v.lanes v.w fun e => (if v.cx e != 0 then v.ax e else v.bx e, 0)) s

def execVbcast (o : VOp) (s : State) : Host.Outcome State Fault Refusal :=
  vectorOp o 2 (fun v => v.elems v.lanes v.w fun _ => (v.ax (v.indexAt o.b v.b 0 % elemCount v.w), 0)) s

def execVperm (o : VOp) (s : State) : Host.Outcome State Fault Refusal :=
  vectorOp o 2 (fun v => v.elems v.lanes v.w fun e =>
    let n := elemCount v.w
    let q := v.indexAt o.b v.b e % (2 * n)
    (if q < n then v.ax q else v.cx (q - n), 0)) s

def execVlut (o : VOp) (s : State) : Host.Outcome State Fault Refusal :=
  vectorOp o 6 (fun v => v.elems v.lanes v.w fun e =>
    (elemAt v.w (v.b.value + 2 ^ 2048 * v.d.value) (elemAt 8 v.codes e % (4096 / v.w)), 0)) s

def execVmovg (gd : BitVec 6) (a : BitVec 4) (lend : Option Byte) (s : State) : Host.Outcome State Fault Refusal :=
  onSyllable s fun e c =>
    let x := vsrc s e c a.toNat 0 0 lend
    match firstByStage x.traps with
    | some t => .trap s t
    | none => .done (s.putCtx e.tile e.place (c.resultG e.q 2 gd (BitVec.ofNat 64 x.value) x.poison.isSome))

def execVmovgM (gd : BitVec 6) (m : BitVec 2) (s : State) : Host.Outcome State Fault Refusal :=
  onCtx s fun q c => .ok (c.resultG q 2 gd (c.maskReg q m.toNat))

def execVmovgSetm (m : BitVec 2) (lend : Option Byte) (s : State) : Host.Outcome State Fault Refusal :=
  onCtx s fun q c => do
    let v ← c.g q (lendReg lend)
    pure (c.result q 2 (.m m.toNat) (v.setWidth 2048) none)

/-! ### Conversions (R246, R247) -/

/-- R246. A widening or same-type conversion of an infinity goes through `sat` with keep_inf false, as the code of R246 and the first
sentence of R118 have it, and so saturates; that R118 calls a widening exact leaves it open (DESIGN CHOICE, log 50). -/
def execCvt (o : VOp) (s : State) : Host.Outcome State Fault Refusal :=
  vectorOp o 3 (fun v =>
    let ts := o.b.toNat
    v.elems v.lanes v.w fun e =>
      if elemCount (typeBits ts) ≤ e then (0, 0)
      else
        let x := elemAt (typeBits ts) v.a.value e
        let r := satType v.ty v.mode (v.k e) false (readNum ts x)
        (r.1, r.2 ||| (if ts = 8 && x = 2 then flagTernReserved else 0))) s true

/-- The scale of a QPACK block (R247). -/
def blockScale (ty : Nat) (xs : List Exact) : Nat :=
  let emax := if ty = 6 then 8 else if ty = 7 then 15 else 6
  if xs.any Exact.isNan then 0xFF else xs.foldl (fun r x => max r (e8m0Of x)) 0 - emax

def execQpack (o : VOp) (s : State) : Host.Outcome State Fault Refusal :=
  vectorOp o 3 (fun v =>
    let ws := typeBits o.b.toNat
    let x (e : Nat) : Exact := readNum o.b.toNat (elemAt ws v.a.value e)
    let scales := (List.range (elemCount ws / 32)).map fun b => blockScale v.ty ((List.range 32).map fun j => x (32 * b + j))
    v.elems v.lanes 8 fun e =>
      if e < elemCount ws then
        let sc := scales.getD (e / 32) 0
        satType v.ty v.mode (v.k e) false (if sc = 0xFF then .nan else (x e).scale (127 - (sc : Int)))
      else if 128 ≤ e && e < 128 + elemCount ws / 32 then (scales.getD (e - 128) 0, 0)
      else (0, 0)) s true

/-! ### Reductions and scans (R123, R248, R249) -/

/-- An FP32 sum with its INVALID (R123). -/
def sum32 (x y : Exact × Nat) : Exact × Nat :=
  let r := Exact.add 0 x.1 y.1
  (fp32.value (rne32 r), x.2 ||| y.2 ||| invalidFlag r [x.1, y.1])

/-- Elements of A, an identity where their lane is off. -/
def VEnv.contribute {α : Type} (v : VEnv) (f : Nat → α) (identity : α) : List α :=
  (List.range (elemCount v.w)).map fun e => if laneOf v.lanes v.w e then f e else identity

/-- Minus zero. -/
def minusZero : Exact := .fin true 0 0 false

/-- R123, R248. Under SR the final narrowing draws its bits for each element of the result (R235); whether one draw serves them all is left
open (DESIGN CHOICE, log 50). -/
def execVreds (o : VOp) (s : State) : Host.Outcome State Fault Refusal :=
  vectorOp o 7 (fun v =>
    match floatFmt v.ty with
    | some f =>
      let r := (treeSum sum32 8 (v.contribute (fun e => (v.x e, 0)) (minusZero, 0))).headD (minusZero, 0)
      let w := v.elems (BitVec.allOnes 64) v.w fun e => satFloat f v.mode (v.k e) true r.1
      { w with flags := w.flags ||| r.2 }
    | none =>
      let r := narrowInt v.ty v.m0 ((v.contribute v.ai 0).foldl (· + ·) 0)
      { value := splat v.w r.1, flags := r.2 }) s false true

def execVredm (o : VOp) (s : State) : Host.Outcome State Fault Refusal :=
  vectorOp o 7 (fun v =>
    match floatFmt v.ty with
    | some f =>
      let op := if v.m0 then Exact.min else Exact.max
      let r := (treeSum op 8 (v.contribute v.x (.inf (!v.m0)))).headD .nan
      { value := splat v.w (satFloat f 0 0 true r).1 }
    | none =>
      let range := typeRange v.ty
      let l := v.contribute v.ai (if v.m0 then range.2 else range.1)
      { value := splat v.w (wrapTo v.w (if v.m0 then l.foldl min range.2 else l.foldl max range.1)) }) s false true

/-- A running combination: each value before and after its element. -/
def scan {α β : Type} (f : α → β → α) : α → List β → List (α × α)
  | _, [] => []
  | a, x :: r => (a, f a x) :: scan f (f a x) r

def execVscan (o : VOp) (s : State) : Host.Outcome State Fault Refusal :=
  vectorOp o 9 (fun v =>
    let pick {α : Type} (p : α × α) : α := if o.md.getLsbD 1 then p.1 else p.2
    match floatFmt v.ty with
    | some f =>
      let l := scan sum32 (minusZero, 0) (v.contribute (fun e => (v.x e, 0)) (minusZero, 0))
      { value := packElems v.w (l.map fun p => (satFloat f 0 0 true (pick p).1).1)
        flags := l.foldl (fun r p => r ||| p.2.2) 0 }
    | none =>
      let step (a : Nat × Nat) (x : Int) : Nat × Nat :=
        let r := narrowInt v.ty v.m0 (readInt v.ty a.1 + x)
        (r.1, a.2 ||| r.2)
      let l := scan step (0, 0) (v.contribute v.ai 0)
      { value := packElems v.w (l.map fun p => (pick p).1), flags := l.foldl (fun r p => r ||| p.2.2) 0 }) s false true

/-! ### Compression (R250) -/

/-- Whether element x ranks above element y: by magnitude, a NaN above all, the lower number first among equals. -/
def ranksAbove (ty : Nat) (x y : Nat × Nat) : Bool :=
  let a := readNum ty x.2
  let b := readNum ty y.2
  let mag (v : Exact) : Exact := match v with | .fin _ m e c => .fin false m e c | .inf _ => .inf false | .nan => .nan
  if a.isNan || b.isNan then a.isNan && (!b.isNan || x.1 < y.1)
  else (mag b).lt (mag a) || ((mag a).eq (mag b) && x.1 < y.1)

/-- The elements of a group that are kept, in their order. -/
def keptOf (ty keep : Nat) (group : List (Nat × Nat)) : List (Nat × Nat) :=
  group.filter fun x => (group.filter fun y => ranksAbove ty y x).length < keep

def execVcompress (o : VOp) (s : State) : Host.Outcome State Fault Refusal :=
  vectorOp o 3 (fun v =>
    let pattern := (o.md.extractLsb' 2 2).toNat
    let m := if pattern = 2 then 8 else 4
    let keep := if pattern = 0 then 1 else 2
    let groups := (List.range (elemCount v.w / m)).map fun g =>
      keptOf v.ty keep ((List.range m).map fun j => (j, v.ax (m * g + j)))
    if o.md.getLsbD 1 then { value := packElems (if pattern = 2 then 3 else 2) (groups.flatMap fun g => g.map (·.1)) }
    else { value := packElems v.w (groups.flatMap fun g => g.map (·.2)) }) s

/-! ### Lane gather and scatter (R251, R252) -/

/-- The lanes that are on and their addresses. -/
def VEnv.laneAddrs (v : VEnv) : List (Nat × Word64) :=
  let base := v.c.gRaw v.e.q (lendReg v.o.lend)
  ((List.range 64).filter fun j => v.lanes.getLsbD j).map fun j =>
    (j, base + BitVec.ofInt 64 (4 * (signed 32 (elemAt 32 v.a.value j) + v.o.md.toInt)))

/-- The checks of the lane addresses, in lane order (R251). -/
def VEnv.laneTraps (v : VEnv) (write : Bool) : List (Option Trap) :=
  v.laneAddrs.flatMap fun p =>
    let a := p.2.toNat
    let t (d : Nat) : Option Trap := some { cause := causeSramRange, detail := d, address := p.2 }
    [if a % 4 ≠ 0 then t 0x0A00 else if 0xFFFFC < a then t 0x0A01 else if Config.windowBase < a + 4 then t 0x0002 else none,
     v.s.setCheck v.e.tile v.c v.e.q.group 1 (!write) write false false a 4]

/-- The SRAM bank of an address (R83). -/
def bankOf (a : Nat) : Nat := a / 128 % 16

/-- Cycles that a set of addresses takes: the first serves one line of each bank, and each further line of a used bank costs one more
(R252). -/
def bankCycles (addrs : List Nat) : Nat :=
  let lines := (addrs.map (· / 128)).eraseDups
  1 + (lines.length - ((lines.map (· % 16)).eraseDups).length)

/-- The engine holds the V queue through the extra bank cycles (R252). -/
def VEnv.holdQueue (v : VEnv) (s : State) : State :=
  s.updTile v.e.tile fun t => { t with vHeld := t.clock + bankCycles (v.laneAddrs.map (·.2.toNat)) }

def execVldx (o : VOp) (s : State) : Host.Outcome State Fault Refusal :=
  onSyllable s fun e c =>
    let v := vEnv s e c o 3 o.ty.toNat o.ty.toNat false
    match firstByStage (v.rowChecks ++ v.laneTraps false ++ [v.a.poison, v.b.poison]) with
    | some t => .trap s t
    | none =>
      let l := v.laneAddrs
      let late := bankCycles (l.map (·.2.toNat)) - 1
      let v := { v with e := { e with q := { e.q with left := e.q.left + late, held := if late = 0 then e.q.held else 3 } } }
      .done (v.holdQueue (v.write 8 v.lanes (o.mask == 0)
        { value := packElems 32 ((List.range 64).map fun j =>
            match l.find? fun p => p.1 == j with
            | some p => leNat (s.read (sramKey e.tile p.2.toNat) 4)
            | none => 0)
          poison := l.any fun p => s.poisoned (sramKey e.tile p.2.toNat) 4 }))

def execVstx (o : VOp) (s : State) : Host.Outcome State Fault Refusal :=
  onSyllable s fun e c =>
    let v := vEnv s e c o 3 o.ty.toNat o.ty.toNat false
    match firstByStage (v.a.traps ++ v.b.traps ++ v.d.traps ++ v.laneTraps true ++ [v.a.poison, v.b.poison]) with
    | some t => .trap s t
    | none =>
      let hit := v.laneAddrs.flatMap fun p => cellsFrom p.2.toNat (leBytes 4 (elemAt 32 v.d.value p.1))
      let s := s.putCtx e.tile e.place { c with undo := c.undo ++ s.kept e.tile e.q.seq 1 hit }
      let s := v.laneAddrs.foldl (fun s p =>
        s.write (sramKey e.tile p.2.toNat) (leBytes 4 (elemAt 32 v.d.value p.1)) v.d.poison.isSome) s
      .done (v.holdQueue s)

/-! ### Keyed randomness and digests (R253-R255) -/

def execVrng (o : VOp) (s : State) : Host.Outcome State Fault Refusal :=
  vectorOp o 3 (fun v => v.elems v.lanes v.w fun e =>
    let k := v.keyed 3 e
    (if v.ty = 0 then (satFloat fp32 0 0 true (.fin false (k / 2 ^ 40) (-24) false)).1 else k % 2 ^ v.w, 0)) s

def execVdrop (o : VOp) (s : State) : Host.Outcome State Fault Refusal :=
  vectorOp o 3 (fun v =>
    let q := (v.c.gRaw v.e.q (lendReg o.lend)).toNat % 2 ^ 16
    v.elems v.lanes v.w fun e =>
      if v.keyed 2 e / 2 ^ 16 % 2 ^ 16 < q then (0, 0)
      else
        let r := (v.x e).mul (v.y e)
        match floatFmt v.ty with
        | some f =>
          let code := satFloat f v.mode (v.k e) true r
          (code.1, code.2 ||| invalidFlag r [v.x e, v.y e])
        | none => (0, 0)) s

/-- H0-H7 as words. -/
def Ctx.digestState (c : Ctx) (q : Queued) : List Word32 :=
  (List.range 4).flatMap fun n =>
    let v := c.csrBefore q.seq (0x52 + n)
    [v.setWidth 32, (v >>> 32).setWidth 32]

/-- Writes the digest CSRs with latency 9, in program order. -/
def Ctx.putDigest (c : Ctx) (q : Queued) (h : List Word32) (len : Word64) : Ctx :=
  let put (c : Ctx) (n : Nat) (v : Word64) : Ctx :=
    c.postInOrder ⟨.csr n, q.disp + 9, q.left + 9, q.held, q.seq, q.slot, BitVec.allOnes 2048, v.setWidth 2048, none⟩
  put ((List.range 4).foldl (fun c n => put c (0x52 + n) (h.getD (2 * n + 1) 0 ++ h.getD (2 * n) 0)) c) 0x56 len

def execVdigestInit (s : State) : Host.Outcome State Fault Refusal :=
  onCtx s fun q c => .ok (c.putDigest q shaInit 0)

def execVdigestAbsorb (a : BitVec 4) (lend : Option Byte) (s : State) : Host.Outcome State Fault Refusal :=
  onSyllable s fun e c =>
    let x := vsrc s e c a.toNat 0 0 lend
    match firstByStage (x.traps ++ [x.poison]) with
    | some t => .trap s t
    | none =>
      .done (s.putCtx e.tile e.place
        (c.putDigest e.q (shaBlocks (c.digestState e.q) (leBytes 256 x.value)) (c.csrBefore e.q.seq 0x56 + 2048)))

def execVdigestFinish (dst : BitVec 4) (s : State) : Host.Outcome State Fault Refusal :=
  onSyllable s fun e c =>
    let v := vEnv s e c ⟨dst, 12, 12, 12, 0, 0, 0, none⟩ 0 0 0 false
    match firstByStage v.rowChecks with
    | some t => .trap s t
    | none =>
      .done (v.write 9 (BitVec.allOnes 64) true
        { value := leNat (shaBytes (shaBlock (c.digestState e.q) (shaFinal (c.csrBefore e.q.seq 0x56).toNat))) })

end Sys2Proof.Machine
end

