-- ==== Sys2Proof/Machine/Matrix.lean ====
section
/-! DEFINITION. The matrix array (11_matrix): weights, beats, accumulators, ownership with its handover (R145, R146), and the
meaning of every M syllable. -/

namespace Sys2Proof.Machine

/-! ### CSRs of the array (Table 11.6) -/
def csrAfmtL : Nat := 0x59
def csrAccMode : Nat := 0x5B
def csrArrayCfg : Nat := 0x5C
def csrUnfold : Nat := 0x5D
def csrUpos : Nat := 0x5E
def csrGpos : Nat := 0x5F

/-- Writes some bits of a CSR for what dispatches in the next cycle (R265, R276). -/
def Ctx.nextCsr (c : Ctx) (q : Queued) (n : Nat) (mask v : Word64) : Ctx :=
  c.post ⟨.csr n, q.disp + 1, q.left + 1, q.held, q.seq, q.slot, mask.setWidth 2048, v.setWidth 2048, none⟩

/-! ### Banks and accumulators (R260, R269) -/

/-- A 2-bit weight code. -/
def weightCode (v : Int) : Nat := if v = 0 then 0 else if v < 0 then 3 else 1

/-- The weight that a code stands for. -/
def weightOf (code : Nat) : Int := if code = 1 then 1 else if code = 3 then -1 else 0

/-- A bank by number. -/
def MatrixArray.bank (m : MatrixArray) (b : Nat) : Table (BitVec 128) := if b = 0 then m.wb0 else m.wb1

/-- Replaces a K row of a bank. -/
def MatrixArray.putRow (m : MatrixArray) (b k : Nat) (v : BitVec 128) : MatrixArray :=
  if b = 0 then { m with wb0 := m.wb0.set k v 0 } else { m with wb1 := m.wb1.set k v 0 }

/-- The weight w(k, n) that a beat naming bank b sees (Table 11.2). -/
def MatrixArray.weight (m : MatrixArray) (booth : Bool) (b k n : Nat) : Int :=
  let at_ (x : Nat) : Int := weightOf (elemAt 2 ((m.bank x).getD k 0).toNat n)
  if booth then at_ b + 2 * at_ (1 - b) else at_ b

/-- An accumulator row. -/
def MatrixArray.row (m : MatrixArray) (r : Nat) : Vec := m.acc.getD r 0

/-- Writes an accumulator row at a dispatch cycle. The context keeps what the row held for its drains of the next eight beats (R265). -/
def Ctx.updateRow (c : Ctx) (m : MatrixArray) (disp r : Nat) (v : Vec) (mode : Bool) : Ctx × MatrixArray :=
  ({ c with recent := (c.recent.filter fun x => disp < x.1 + 8) ++ [(disp, r, mode, m.row r)] }, { m with acc := m.acc.set r v 0 })

/-- A row as the updates dispatched up to eight cycles before have left it, with its mode then (R265). The mode is the one recorded with
the oldest update of the window; a CSRW of ACCMODE behind it is not seen (R279 times the contents alone; DESIGN CHOICE, log 60). -/
def Ctx.rowBefore (c : Ctx) (m : MatrixArray) (disp r : Nat) (mode : Bool) : Bool × Vec :=
  match c.recent.find? fun x => x.2.1 == r && disp < x.1 + 8 with
  | some x => (x.2.2.1, x.2.2.2)
  | none => (mode, m.row r)

/-! ### Ownership (R145, R146, R268) -/

/-- The spill image of the array (Table 11.3), from 0x0F_B000 up. -/
def MatrixArray.image20K (m : MatrixArray) : List (Nat × List Byte × Bool) :=
  let bank (base : Nat) (t : Table (BitVec 128)) (p : Bool) : Nat × List Byte × Bool :=
    (base, (List.range 128).flatMap fun k => leBytes 16 (t.getD k 0).toNat, p)
  (List.range 64).map (fun r => (256 * r, leBytes 256 (m.row r).toNat, m.rowPoison.getLsbD r)) ++
    [bank 0x4000 m.wb0 (m.bankPoison.getLsbD 0), bank 0x4800 m.wb1 (m.bankPoison.getLsbD 1)]

/-- Writes an array image at a key. -/
def State.putImage (s : State) (key : Nat) (m : MatrixArray) : State :=
  m.image20K.foldl (fun s p => s.write (key + p.1) p.2.1 p.2.2) s

/-- The array that an image at a key fills (R270). -/
def State.getImage (s : State) (key : Nat) : MatrixArray :=
  let bank (base : Nat) : Table (BitVec 128) := (List.range 128).foldl (fun t k =>
    t.set k (BitVec.ofNat 128 (leNat (s.read (key + base + 16 * k) 16))) 0) []
  { MatrixArray.empty with
    acc := (List.range 64).foldl (fun t r => t.set r (BitVec.ofNat 2048 (leNat (s.read (key + 256 * r) 256))) 0) []
    wb0 := bank 0x4000
    wb1 := bank 0x4800
    bankPoison := setBit (setBit 0 0 (s.poisoned (key + 0x4000) 0x800)) 1 (s.poisoned (key + 0x4800) 0x800)
    rowPoison := (List.range 64).foldl (fun p r => setBit p r (s.poisoned (key + 256 * r) 256)) 0 }

/-- The first byte of save slot j (R143). -/
def saveSlotKey (tile j : Nat) : Nat := vaultKey tile (0x1FFE0000 + 0x8000 * j)

/-- The slot of a context, if it has one. -/
def Tile.slotOf (t : Tile) (launch num : Nat) : Option (Nat × SaveSlot) :=
  List.find? (fun x => x.2.launch == launch && x.2.num == num) t.slots

/-- A slot for a context: its own, or the first that is free. -/
def Tile.slotFor (t : Tile) (launch num : Nat) : Option Nat :=
  match t.slotOf launch num with
  | some x => some x.1
  | none => (List.range 4).find? fun j => (Table.find? t.slots j).isNone

/-- Marks a slot as holding an array image. -/
def Tile.slotArray (t : Tile) (j launch num : Nat) (on : Bool) : Tile :=
  let old := ((Table.find? t.slots j).map (·.context)).getD false
  if on || old then { t with slots := t.slots.put j ⟨launch, num, old, on⟩ } else { t with slots := t.slots.erase j }

/-- How the array stands towards a context. -/
inductive Standing where
  | mine | free | sameLaunch | handover | noSlot
  deriving DecidableEq, Repr

/-- The standing of a context's M syllable (R145, R146). -/
def State.standing (s : State) (tile : Nat) (c : Ctx) : Standing :=
  let t := s.tile tile
  match t.array.owner with
  | none => .free
  | some (l, n) =>
    if l = c.launch then (if n = c.num then .mine else .sameLaunch)
    else
      match t.array.image with
      | some (il, inum) =>
        if (il == c.launch && inum == c.num) || (t.slotFor il inum).isSome then .handover else .noSlot
      | none => .handover

/-- The array with a context's own image, and the state with that image used up; zero where it has none (R268). -/
def State.ownImage (s : State) (tile : Nat) (c : Ctx) : MatrixArray × State :=
  let t := s.tile tile
  if t.array.image = some (c.launch, c.num) then (s.getImage (sramKey tile Config.windowBase),
    s.updTile tile fun t => { t with array := { t.array with image := none } })
  else
    match t.slotOf c.launch c.num with
    | some (j, sl) =>
      if sl.array then (s.getImage (saveSlotKey tile j + 0x2000), s.updTile tile fun t => t.slotArray j c.launch c.num false)
      else (MatrixArray.empty, s)
    | none => (MatrixArray.empty, s)

/-- The bits of ARRAYCFG in which the hardware shows how the array stands: [32] owner, [33] image held (Table 11.6). -/
def Tile.arrayBits (t : Tile) (c : Ctx) : Word64 :=
  let me := some (c.launch, c.num)
  let held := t.array.image == me || ((t.slotOf c.launch c.num).any fun x => x.2.array)
  setBit (setBit 0 32 (t.array.owner == me)) 33 held

/-- Shows a change of the array's owner or images in the ARRAYCFG of the contexts of its tile. A saved context keeps what its image holds, and
has it again when it is restored (R280). -/
def State.noteArray (s : State) (tile : Nat) : State :=
  (s.tileCtxs tile).foldl (fun (s : State) (x : Nat × Ctx) =>
    if x.1 < 8 then
      let old := x.2.regs.csr.getD csrArrayCfg 0
      let new := (old &&& ~~~0x300000000) ||| (s.tile tile).arrayBits x.2
      if old = new then s else s.putCtx tile x.1 { x.2 with regs := { x.2.regs with csr := x.2.regs.csr.set csrArrayCfg new 0 } }
    else s) s

/-- Gives the array to a context, its image filled. -/
def State.giveArray (s : State) (tile : Nat) (c : Ctx) : State :=
  let r := s.ownImage tile c
  (r.2.updTile tile fun t => { t with array := { r.1 with owner := some (c.launch, c.num), image := t.array.image } }).noteArray tile

/-- Holds the vault interface for a transfer of at most 400 cycles (R144): bank 31 is precharged once its minimums allow that, and after the
transfer its row, if it had one, is opened again tRCD before the D slots are released. What the transfer itself puts on the bus between
the two ends with a precharge. -/
def State.holdVault (s : State) (tile : Nat) : State :=
  let d := s.drawDelay 400
  let t := d.2.tile tile
  let opened := (Table.find? t.vault.opened 31).isSome
  let from_ := s.time + (t.dHeld - t.clock)
  let start := if opened then firstMeeting (busOf t.vault.bus) .pre 31 100 from_ else from_
  let stop := start + d.1
  let entry (time : Nat) (cmd : Command) : BusEntry := ⟨time, cmd, 31, none⟩
  d.2.updTile tile fun t => { t with
    dHeld := t.clock + (stop - s.time) + 27
    vault := { t.vault with bus := t.vault.bus ++ (if opened then [entry start .pre, entry stop .act] else [entry stop .pre]) } }

/-- The time at which a transfer of the save area leaves the vault interface to others. -/
def State.transferEnd (s : State) (tile : Nat) : Nat := s.time + ((s.tile tile).dHeld - (s.tile tile).clock)

/-- Moves the image in the window to a slot of its context (R146), which holds the vault interface (R144). -/
def State.moveImage (s : State) (tile : Nat) : State :=
  let t := s.tile tile
  match t.array.image with
  | none => s
  | some (l, n) =>
    match t.slotFor l n with
    | none => s
    | some j =>
      ((s.putImage (saveSlotKey tile j + 0x2000) (s.getImage (sramKey tile Config.windowBase))).updTile tile fun t =>
        { t.slotArray j l n true with array := { t.array with image := none } }).holdVault tile

/-- R145: the owner is spilled, the requester becomes the owner and its own image is filled. -/
def execArrayHandover (tile place : Nat) (s : State) : Host.Outcome State Fault Refusal :=
  let idle := s.updTile tile fun t => { t with array := { t.array with handover := none } }
  .next (match s.ctx? tile place with
    | none => idle
    | some c =>
      if s.standing tile c != .handover then idle
      else
        let mine := s.ownImage tile c
        let s1 := if (mine.2.tile tile).array.image.isSome then mine.2.moveImage tile else mine.2
        let old := (s1.tile tile).array
        let s2 := s1.putImage (sramKey tile Config.windowBase) old
        (s2.updTile tile fun t =>
          { t with array := { mine.1 with owner := some (c.launch, c.num), image := old.owner, handover := none } }).noteArray tile)

/-! ### The shape of a beat (R261) -/

/-- The effective depth. -/
def Ctx.depthAt (c : Ctx) (d : Nat) : Nat :=
  let zk := bitsOf ((c.regsAt d).z.getD 0 0).toNat 32 16
  if zk = 0 || 128 < zk then 128 else zk

/-- The effective column count. -/
def State.columnsAt (s : State) (tile : Nat) (c : Ctx) (d : Nat) : Nat :=
  let zc := bitsOf ((c.regsAt d).z.getD 0 0).toNat 16 16
  let have_ := (s.tile tile).columns
  if zc = 0 || have_ < zc then have_ else zc

/-- The weight format: booth. -/
def Ctx.boothAt (c : Ctx) (d : Nat) : Bool := (c.csrAt d csrArrayCfg).getLsbD 0

/-- The mode of a row: FP32. -/
def Ctx.fpRow (c : Ctx) (d r : Nat) : Bool := (c.csrAt d csrAccMode).getLsbD r

/-! ### M syllables in general -/

/-- POISON of array state (R270); value [21:16] names a row, or 0x20 plus a bank. -/
def poisonArray (on : Bool) (n : Nat) : Option Trap :=
  if on then some { cause := causePoison, detail := 0x0B05, value := BitVec.ofNat 48 n } else none

/-- An M syllable other than NOP: the checks of its accesses, ownership, the revalidation mark, then poison and its own
causes; the context takes the array if it has no owner (R130, R145, R147), but a syllable that traps leaves a free array free: R145 does not
say (DESIGN CHOICE, log 60). -/
def onArray (early late : State → Issued → Ctx → List (Option Trap))
    (f : State → Issued → Ctx → MatrixArray → Ctx × MatrixArray × Option (RowUse × Nat)) (s : State) :
    Host.Outcome State Fault Refusal :=
  onSyllable s fun e c =>
    let stand := s.standing e.tile c
    let owned : Option Trap :=
      match stand with
      | .sameLaunch => some { cause := causeArrayOwnership }
      | .noSlot | .handover => some { cause := causeArrayOwnership, detail := 0x0011 }
      | _ => none
    let mark : Option Trap :=
      if (c.regs.csr.getD 0x10 0).getLsbD 5 then
        some { cause := causeShapeRevalidate, value := BitVec.ofNat 48 (bitsOf ((c.regsAt e.q.disp).z.getD 0 0).toNat 16 16) }
      else none
    let (s1, c1) := if stand = .free then
        let s1 := s.giveArray e.tile c
        (s1, (s1.ctx? e.tile e.place).getD c)
      else (s, c)
    match firstByStage (early s e c ++ [owned, mark] ++ late s1 e c) with
    | some t =>
      .trap (if t.cause = causeShapeRevalidate then
        s.putCtx e.tile e.place { c with regs := { c.regs with csr := c.regs.csr.set 0x10 (setBit (c.regs.csr.getD 0x10 0) 5 false) 0 } }
        else s) t
    | none =>
      let r := f s1 e c1 (s1.tile e.tile).array
      let s2 := s1.updTile e.tile fun t => { t with array := r.2.1 }
      .done (match r.2.2 with
        | some (u, v) => s2.produce e r.1 u v (2 ^ 256 - 1) false
        | none => s2.putCtx e.tile e.place r.1)

/-- No checks. -/
def noChecks (_ : State) (_ : Issued) (_ : Ctx) : List (Option Trap) := []

/-! ### Weights (R272, R273) -/

def execWfmt (fmt : BitVec 2) (s : State) : Host.Outcome State Fault Refusal :=
  onArray noChecks noChecks (fun _ e c m =>
    (c.nextCsr e.q csrArrayCfg 1 (fmt.setWidth 64), { m with wb0 := [], wb1 := [], bankPoison := 0 }, none)) s

def execWswap (s : State) : Host.Outcome State Fault Refusal :=
  onArray noChecks noChecks (fun _ _ c m =>
    (c, { m with wb0 := m.wb1, wb1 := m.wb0,
                 bankPoison := setBit (setBit 0 0 (m.bankPoison.getLsbD 1)) 1 (m.bankPoison.getLsbD 0) }, none)) s

/-- Digit j of a signed weight (R113). -/
def boothDigit (w : Int) (j : Nat) : Int :=
  let b (i : Nat) : Int := (if (wrapTo 16 w).testBit i then 1 else 0)
  (if j = 0 then 0 else b (2 * j - 1)) + b (2 * j) - 2 * b (2 * j + 1)

/-- The digit of a Booth code (Table 5.2), and whether the code is reserved. -/
def boothCode (code : Nat) : Int × Bool :=
  match code with
  | 0 => (0, false)
  | 1 => (1, false)
  | 2 => (2, false)
  | 15 => (-1, false)
  | 14 => (-2, false)
  | _ => (0, true)

/-- The digit that element e of a weight row gives in a plane, and its flag. -/
def weightDigit (ty plane v e : Nat) : Int × Nat :=
  if ty = 8 then
    let x := elemAt 2 v e
    (weightOf x, if x = 2 then flagTernReserved else 0)
  else if ty = 13 then
    let d := boothCode (elemAt 4 v e)
    (d.1, if d.2 then flagBoothReserved else 0)
  else (boothDigit (signed 8 (elemAt 8 v e)) plane, 0)

/-- K row k of both banks from 64 digits; columns that the tile lacks hold no weights. -/
def MatrixArray.loadRow (m : MatrixArray) (tern : Bool) (b k columns : Nat) (digits : List Int) : MatrixArray :=
  let codes (f : Int → Int) : BitVec 128 := BitVec.ofNat 128 (packElems 2 ((digits.take columns).map fun d => weightCode (f d)))
  if tern then m.putRow b k (codes id)
  else (m.putRow b k (codes fun d => if d.natAbs = 2 then 0 else d)).putRow (1 - b) k (codes fun d => if d.natAbs = 2 then d else 0)

/-- R281. The manual gives WLOAD no result latency: its flags show in FLAGS_M one cycle after its beat (DESIGN CHOICE, log 60). -/
def execWload (stream : BitVec 4) (plane bank : BitVec 3) (k : BitVec 7) (s : State) : Host.Outcome State Fault Refusal :=
  onArray (fun s e c => s.rowTraps e.tile c e.q (e.q.rowOn stream.toNat))
    (fun s e c =>
      let u := e.q.rowOn stream.toNat
      let r := s.rowIn e.tile c e.q u
      let ty := (u.bound.map fun p => p.handle.type).getD 8
      [r.poison, if ty != 8 && ty != 13 && ty != 5 then some (streamFault 0x0B00) else none,
       if (ty == 8) == c.boothAt e.q.disp then some (streamFault 0x0B01) else none] ++ r.traps)
    (fun s e c m =>
      let u := e.q.rowOn stream.toNat
      let v := (s.rowIn e.tile c e.q u).value
      match u.bound with
      | none => (c, m, none)
      | some p =>
        let ty := p.handle.type
        let rows := (List.range (p.width * 8 / (64 * p.bits))).filter fun q => k.toNat + q < 128
        let cols := (s.tile e.tile).columns
        let digits (q : Nat) : List (Int × Nat) := (List.range cols).map fun n => weightDigit ty plane.toNat v (64 * q + n)
        let flags := rows.foldl (fun r q => (digits q).foldl (fun r d => r ||| d.2) r) 0
        (c.setFlags e.q 1 csrFlagsM flags,
         rows.foldl (fun m q => m.loadRow (ty == 8) bank.toNat (k.toNat + q) cols ((digits q).map (·.1))) m, none)) s

def execAfmt (stream : BitVec 4) (fmt : BitVec 2) (code : BitVec 8) (s : State) : Host.Outcome State Fault Refusal :=
  onArray noChecks noChecks (fun _ e c m =>
    let sh := 16 * (stream.toNat % 4)
    (c.nextCsr e.q (csrAfmtL + stream.toNat / 4) (0x3FF <<< sh) ((((fmt ++ code : BitVec 10).setWidth 64)) <<< sh), m, none)) s

/-! ### Beats (R262, R263, R275-R277) -/

/-- An activation byte as its INT8 mantissa, and the flags (R263). -/
def activation (fmt scale byte : Nat) : Int × Nat :=
  match fmt with
  | 1 => satInt (-128) 127 0 0 ((e4m3.value byte).scale (127 - (scale : Int)))
  | 2 => satInt (-128) 127 0 0 ((e5m2.value byte).scale (127 - (scale : Int)))
  | _ => (signed 8 byte, 0)

/-- One accumulator column after a beat (R124, R125), and the flags. -/
def accumulate (fp : Bool) (scale acc : Nat) (dot : Int) : Nat × Nat :=
  if fp then
    if scale = 0xFF then (fp32.nan, flagInvalid)
    else (rne32 (Exact.add 0 (fp32.value acc) ((Exact.ofInt dot).scale ((scale : Int) - 127))), 0)
  else
    let r := satRange (signed 32 acc + dot) (-(2 ^ 31)) (2 ^ 31 - 1)
    (wrapTo 32 r.1, if r.2 then flagAccOverflow else 0)

/-- An accumulator row with its columns below zc replaced. -/
def mapColumns (v zc : Nat) (f : Nat → Nat → Nat × Nat) : Vec × Nat :=
  let l := (List.range 64).map fun n => if n < zc then f n (elemAt 32 v n) else (elemAt 32 v n, 0)
  (BitVec.ofNat 2048 (packElems 32 (l.map (·.1))), l.foldl (fun r x => r ||| x.2) 0)

/-- A beat on a row (R262): activations with their flags, scale code. Those at zk and above count as zero and set no flag (R261). -/
def beat (s : State) (e : Issued) (c : Ctx) (m : MatrixArray) (row bank : Nat) (first : Bool) (x : List (Int × Nat)) (scale : Nat) :
    Ctx × MatrixArray :=
  let d := e.q.disp
  let fp := c.fpRow d row
  let booth := c.boothAt d
  let xs := (x.take (c.depthAt d)).map (·.1)
  let r := mapColumns (if first then 0 else (m.row row).toNat) (s.columnsAt e.tile c d) fun n acc =>
    let dot := (xs.foldl (fun (a : Int × Nat) v => (if v = 0 then a.1 else a.1 + v * m.weight booth bank a.2 n, a.2 + 1)) (0, 0)).1
    accumulate fp scale acc dot
  let u := c.updateRow m d row r.1 fp
  (u.1.setFlags e.q 8 csrFlagsM ((x.take (c.depthAt d)).foldl (fun f v => f ||| v.2) r.2),
   if first then { u.2 with rowPoison := setBit u.2.rowPoison row false } else u.2)

/-- The poison of banks and row that a beat meets (R270). -/
def beatPoison (s : State) (e : Issued) (c : Ctx) (row bank : Nat) (first : Bool) : List (Option Trap) :=
  let m := (s.tile e.tile).array
  [poisonArray (m.bankPoison.getLsbD bank) (0x20 + bank),
   poisonArray (c.boothAt e.q.disp && m.bankPoison.getLsbD (1 - bank)) (0x20 + (1 - bank)),
   poisonArray (!first && m.rowPoison.getLsbD row) row]

def execPush (row : BitVec 6) (stream : BitVec 4) (bank : BitVec 3) (first : Bool) (s : State) : Host.Outcome State Fault Refusal :=
  onArray (fun s e c => s.rowTraps e.tile c e.q (e.q.rowOn stream.toNat))
    (fun s e c =>
      let r := s.rowIn e.tile c e.q (e.q.rowOn stream.toNat)
      beatPoison s e c row.toNat bank.toNat first ++ [r.poison] ++ r.traps)
    (fun s e c m =>
      let u := e.q.rowOn stream.toNat
      let r := s.rowIn e.tile c e.q u
      let a := bitsOf (c.csrAt e.q.disp (csrAfmtL + stream.toNat / 4)).toNat (16 * (stream.toNat % 4)) 16
      let fmt := bitsOf a 8 2
      let scale := if fmt = 0 then a % 256 else r.scale.getD (a % 256)
      let b := beat s e c m row.toNat bank.toNat first ((List.range 128).map fun k => activation fmt scale (elemAt 8 r.value k)) scale
      (b.1, b.2, none)) s

/-- The reading of a handle element type (R263): i8, e4m3, e5m2. -/
def actFormat (ty : Nat) : Option Nat := if ty = 5 then some 0 else if ty = 6 then some 1 else if ty = 7 then some 2 else none

/-- The scale code of the handle paths: ARRAYCFG.xscale. -/
def Ctx.xscale (c : Ctx) (d : Nat) : Nat := bitsOf (c.csrAt d csrArrayCfg).toNat 16 8

/-- The value of a handle register as read at dispatch, without its poison. -/
def Ctx.hRaw (c : Ctx) (q : Queued) (n : BitVec 4) : Handle := (c.regsAt q.disp).h.getD n.toNat 0

/-- The checks of bytes read by PUSHX and PUSHG, with the failing byte's granule as the address (R275). A byte
beyond the data SRAM has detail 0x090F, which R221 gives for rows: R275 names none (DESIGN CHOICE, log 60). -/
def byteTraps (s : State) (e : Issued) (c : Ctx) (l : List Nat) : List (Option Trap) :=
  let bad (d a : Nat) : Trap := { cause := causeSramRange, detail := d, address := BitVec.ofNat 64 (a / 64 * 64) }
  [l.findSome? fun a => if Config.sramBytes ≤ a then some (bad 0x090F a) else if Config.windowBase ≤ a then some (bad 0x0002 a) else none,
   ((l.map (· / 64)).eraseDups).findSome? fun k => s.setCheck e.tile c e.q.group 1 true false false false (64 * k) 64]

/-- POISON of a handle register (R180). -/
def handlePoison (c : Ctx) (q : Queued) (h : BitVec 4) : Option Trap :=
  match c.h q h with
  | .error t => some t
  | .ok _ => none

/-- POISON of a granule that PUSHX or PUSHG reads (R270). -/
def bytePoison (s : State) (e : Issued) (l : List Nat) : Option Trap :=
  (l.find? fun a => s.cellsPoisoned e.tile [a]).map fun a => poisonRow (a / 64 * 64)

/-- A handle that PUSHX accepts, and UNFOLD (R276). -/
def unfoldOk (h : Handle) (u : Nat) : Bool :=
  h.valid && h.space == 0 && (actFormat h.type).isSome && h.layout == 0 &&
    ([h.base, h.stride 1, h.stride 2, h.stride 3].all fun v => v % 64 == 0) &&
    bitsOf u 0 8 != 0 && bitsOf u 8 8 != 0 && bitsOf u 32 8 != 0 && bitsOf u 40 8 != 0 && bitsOf u 48 16 != 0

/-- The byte address of each of the 128 activations of PUSHX, none where it is padding (R276). -/
def unfoldAddrs (h : Handle) (u pos : Nat) : List (Option Nat) :=
  let ow := bitsOf u 48 16
  let q := bitsOf pos 0 16
  let t := bitsOf pos 16 16
  let kw := bitsOf u 32 8
  let ix : Int := (q % ow * bitsOf u 0 8 + t % kw : Nat) - (bitsOf u 16 8 : Int)
  let iy : Int := (q / ow * bitsOf u 8 8 + t / kw : Nat) - (bitsOf u 24 8 : Int)
  let nb := bitsOf pos 48 16
  (List.range 128).map fun j =>
    let ch := 128 * bitsOf pos 32 16 + j
    if ch < h.extent 0 && 0 ≤ ix && ix < h.extent 1 && 0 ≤ iy && iy < h.extent 2 && nb < h.extent 3 then
      some (h.base + ch + ix.toNat * h.stride 1 + iy.toNat * h.stride 2 + nb * h.stride 3)
    else none

/-- UPOS after an advance (R276). -/
def unfoldNext (h : Handle) (u pos : Nat) : Nat :=
  let cb := bitsOf pos 32 16 + 1
  let wrapC := h.extent 0 ≤ 128 * cb
  let t := bitsOf pos 16 16 + (if wrapC then 1 else 0)
  let wrapT := bitsOf u 32 8 * bitsOf u 40 8 ≤ t
  let q := (bitsOf pos 0 16 + (if wrapT then 1 else 0)) % 2 ^ 16
  q + (if wrapT then 0 else t % 2 ^ 16) * 2 ^ 16 + (if wrapC then 0 else cb % 2 ^ 16) * 2 ^ 32 + bitsOf pos 48 16 * 2 ^ 48

/-- The byte addresses of the activations of a PUSHX that is accepted, as its handle, UNFOLD and UPOS stand for it. -/
def Ctx.pushxAddrs (c : Ctx) (q : Queued) (h : BitVec 4) : List (Option Nat) :=
  let u := (c.csrAt q.disp csrUnfold).toNat
  if unfoldOk (c.hRaw q h) u then unfoldAddrs (c.hRaw q h) u (c.csrAt q.disp csrUpos).toNat else []

def execPushx (row : BitVec 6) (h : BitVec 4) (bank : BitVec 3) (first adv : Bool) (s : State) : Host.Outcome State Fault Refusal :=
  let unfold_ (c : Ctx) (q : Queued) : Nat := (c.csrAt q.disp csrUnfold).toNat
  let pos (c : Ctx) (q : Queued) : Nat := (c.csrAt q.disp csrUpos).toNat
  onArray (fun s e c => byteTraps s e c ((c.pushxAddrs e.q h).filterMap id))
    (fun s e c =>
      handlePoison c e.q h :: beatPoison s e c row.toNat bank.toNat first ++
        [bytePoison s e ((c.pushxAddrs e.q h).filterMap id),
         if unfoldOk (c.hRaw e.q h) (unfold_ c e.q) then none else some (streamFault 0x0B02)])
    (fun s e c m =>
      let hv := c.hRaw e.q h
      let fmt := (actFormat hv.type).getD 0
      let scale := c.xscale e.q.disp
      let x := (c.pushxAddrs e.q h).map fun a =>
        match a with
        | some a => activation fmt scale (s.mem.read (sramKey e.tile a)).toNat
        | none => (0, 0)
      let b := beat s e c m row.toNat bank.toNat first x scale
      (if adv then b.1.nextCsr e.q csrUpos (BitVec.allOnes 64) (BitVec.ofNat 64 (unfoldNext hv (unfold_ c e.q) (pos c e.q))) else b.1,
       b.2, none)) s

/-- A handle that PUSHG accepts (R277). -/
def gatherOk (h : Handle) : Bool := h.valid && h.space == 0 && h.layout == 5 && (actFormat h.type).isSome

/-- What the gather unit finds: the addresses it reads, the values as column within the block and byte address, the number
of entries of the row, and whether an index or a pointer is wrong (R277). -/
structure Gathered where
  reads : List Nat
  found : List (Nat × Nat)
  entries : Nat
  bad : Bool

/-- The gather of a dense K row from a CSR row (R216, R277). -/
def gatherRow (s : State) (tile : Nat) (h : Handle) (rho block : Nat) : Gathered :=
  if h.extent 1 ≤ rho then ⟨[], [], 0, true⟩
  else
    let word (a n : Nat) : Nat := leNat (s.read (sramKey tile a) n)
    let bytes (a n : Nat) : List Nat := (List.range n).map (a + ·)
    let lo := word (h.gaddr + 4 * rho) 4
    let hi := word (h.gaddr + 4 * rho + 4) 4
    let idxBase := h.gaddr + 64 * ceilDiv (4 * (h.extent 1 + 1)) 64
    let g0 : Gathered := ⟨bytes (h.gaddr + 4 * rho) 8, [], hi - lo, decide (hi < lo)⟩
    (List.range (min (hi - lo) Config.sramBytes)).foldl (fun g i =>
      let p := lo + i
      if g.bad || (g.reads.getLastD 0) ≥ Config.sramBytes then g
      else
        let col := word (idxBase + 2 * p) 2
        let g := { g with reads := g.reads ++ bytes (idxBase + 2 * p) 2 }
        if h.extent 0 ≤ col || (i != 0 && col ≤ word (idxBase + 2 * p - 2) 2) then { g with bad := true }
        else if col / 128 = block then { g with reads := g.reads ++ [h.base + p], found := g.found ++ [(col % 128, h.base + p)] }
        else g) g0

/-- GPOS after an advance. -/
def gatherNext (h : Handle) (pos : Nat) : Nat :=
  let cb := bitsOf pos 32 16 + 1
  if h.extent 0 ≤ 128 * cb then (bitsOf pos 0 32 + 1) % 2 ^ 32 else bitsOf pos 0 32 + cb % 2 ^ 16 * 2 ^ 32

/-- What the gather unit finds for a PUSHG, by its handle and GPOS; nothing for a handle that it refuses. -/
def State.pushgGather (s : State) (tile : Nat) (c : Ctx) (q : Queued) (h : BitVec 4) : Gathered :=
  let pos := (c.csrAt q.disp csrGpos).toNat
  if gatherOk (c.hRaw q h) then gatherRow s tile (c.hRaw q h) (bitsOf pos 0 32) (bitsOf pos 32 16) else ⟨[], [], 0, false⟩

def execPushg (row : BitVec 6) (h : BitVec 4) (bank : BitVec 3) (first adv : Bool) (s : State) : Host.Outcome State Fault Refusal :=
  let pos (c : Ctx) (q : Queued) : Nat := (c.csrAt q.disp csrGpos).toNat
  let got (s : State) (e : Issued) (c : Ctx) : Gathered := s.pushgGather e.tile c e.q h
  -- The gather unit holds the M queue for the cycles beyond the first.
  let gatherHold (s' : State) : State :=
    match s.engine with
    | some e => match s.ctx? e.tile e.place with
      | some c => s'.updTile e.tile fun t => { t with mHeld := t.clock + ceilDiv (got s e c).entries 64 }
      | none => s'
    | none => s'
  let r := onArray (fun s e c => byteTraps s e c (got s e c).reads)
    (fun s e c =>
      let g := got s e c
      handlePoison c e.q h :: beatPoison s e c row.toNat bank.toNat first ++
        [bytePoison s e g.reads,
         if gatherOk (c.hRaw e.q h) then none else some (streamFault 0x0B03),
         if g.bad then some (streamFault 0x0B04) else none])
    (fun s e c m =>
      let hv := c.hRaw e.q h
      let g := got s e c
      let fmt := (actFormat hv.type).getD 0
      let scale := c.xscale e.q.disp
      let x := (List.range 128).map fun k =>
        match g.found.find? fun p => p.1 == k with
        | some p => activation fmt scale (s.mem.read (sramKey e.tile p.2)).toNat
        | none => (0, 0)
      let b := beat s e c m row.toNat bank.toNat first x scale
      (if adv then b.1.nextCsr e.q csrGpos (BitVec.allOnes 64) (BitVec.ofNat 64 (gatherNext hv (pos c e.q))) else b.1, b.2, none)) s
  match r with
  | .next s' => .next (gatherHold s')
  | .fault f => .fault f
  | .refused f => .refused f

/-! ### Accumulator rows (R278, R279) -/

def execAccz (row : BitVec 6) (fp all : Bool) (s : State) : Host.Outcome State Fault Refusal :=
  onArray noChecks noChecks (fun _ e c m =>
    let rows := if all then List.range 64 else [row.toNat]
    let mask : Word64 := if all then BitVec.allOnes 64 else BitVec.twoPow 64 row.toNat
    let u := rows.foldl (fun (u : Ctx × MatrixArray) r => u.1.updateRow u.2 e.q.disp r 0 (c.fpRow e.q.disp r)) (c, m)
    (u.1.nextCsr e.q csrAccMode mask (if fp then BitVec.allOnes 64 else 0),
     { u.2 with rowPoison := rows.foldl (fun p r => setBit p r false) u.2.rowPoison }, none)) s

/-- One radix-4 step of a column (R124, R125). -/
def shiftColumn (fp : Bool) (acc : Nat) : Nat × Nat :=
  if fp then (rne32 ((fp32.value acc).scale 2), 0)
  else
    let r := satRange (signed 32 acc * 4) (-(2 ^ 31)) (2 ^ 31 - 1)
    (wrapTo 32 r.1, if r.2 then flagAccOverflow else 0)

def execShift (row : BitVec 6) (count : BitVec 3) (s : State) : Host.Outcome State Fault Refusal :=
  onArray noChecks (fun s e _ => [poisonArray ((s.tile e.tile).array.rowPoison.getLsbD row.toNat) row.toNat])
    (fun s e c m =>
      let d := e.q.disp
      let fp := c.fpRow d row.toNat
      let r := (List.range count.toNat).foldl (fun (r : Vec × Nat) _ =>
        let x := mapColumns r.1.toNat (s.columnsAt e.tile c d) fun _ acc => shiftColumn fp acc
        (x.1, r.2 ||| x.2)) (m.row row.toNat, 0)
      let u := c.updateRow m d row.toNat r.1 fp
      (u.1.setFlags e.q 8 csrFlagsM r.2, u.2, none)) s

/-- One element of a drained row (R126, R279): the accumulator as a value, its scale if any, the destination type. -/
def drainElem (a : Exact) (ws : Option Nat) (ty : Nat) : Nat × Nat :=
  let v : Exact × Nat :=
    match ws with
    | none => (a, 0)
    | some w =>
      let p := a.mul (fp32.value w)
      (fp32.value (rne32 p), invalidFlag p [a, fp32.value w])
  let r := if ty = 0 then (rne32 v.1, 0) else satType ty 0 0 false v.1
  (r.1, r.2 ||| v.2)

def execDrain (row : BitVec 6) (stream scale ty : BitVec 4) (zero : Bool) (s : State) : Host.Outcome State Fault Refusal :=
  let scaled := scale.toNat < 8
  onArray
    (fun s e c => (if scaled then s.rowTraps e.tile c e.q (e.q.rowOn scale.toNat) else []) ++
      s.rowTraps e.tile c e.q (e.q.rowOn stream.toNat))
    (fun s e c =>
      poisonArray ((s.tile e.tile).array.rowPoison.getLsbD row.toNat) row.toNat ::
        (if scaled then (let r := s.rowIn e.tile c e.q (e.q.rowOn scale.toNat); r.poison :: r.traps) else []))
    (fun s e c m =>
      let d := e.q.disp
      let r := c.rowBefore m d row.toNat (c.fpRow d row.toNat)
      let u := if zero then c.updateRow m d row.toNat 0 (c.fpRow d row.toNat) else (c, m)
      let ws := (s.rowIn e.tile c e.q (e.q.rowOn scale.toNat)).value
      let l := (List.range 64).map fun n =>
        if s.columnsAt e.tile c d ≤ n then (0, 0)
        else
          let a := elemAt 32 r.2.toNat n
          drainElem (if r.1 then fp32.value a else Exact.ofInt (signed 32 a)) (if scaled then some (elemAt 32 ws n) else none) ty.toNat
      (u.1.setFlags e.q 4 csrFlagsM (l.foldl (fun f x => f ||| x.2) 0), u.2,
       some (e.q.rowOn stream.toNat, packElems (typeBits ty.toNat) (l.map (·.1))))) s

end Sys2Proof.Machine
end

