-- ==== Sys2Proof/Machine/Vault.lean ====
section
/-! DEFINITION. The vault engine (12_vault): the minimums of Table 12.2, column commands, refresh and its debt, temperature
bands, and the meaning of every D syllable and vault step. -/

namespace Sys2Proof.Machine

/-! ### Ownership and bank state (R285, R302) -/

/-- The bank groups that a context owns (VGROUPS, Table 12.7). -/
def Ctx.vgroups (c : Ctx) : BitVec 8 := (c.regs.csr.getD 0x63 0).setWidth 8

/-- Whether a context owns the group of a bank. -/
def Ctx.ownsBank (c : Ctx) (bank : Nat) : Bool := c.vgroups.getLsbD (bank / 4)

/-- The context that owns a bank, from its first bundle on, with its place. -/
def State.bankOwner (s : State) (tile bank : Nat) : Option (Nat × Ctx) :=
  (s.tileCtxs tile).find? fun pc => pc.2.ownsBank bank && pc.2.dispatched != 0

/-- Sets a round flag; a full round clears them all (R296). -/
def Vault.roundFlag (v : Vault) (bank : Nat) : Vault :=
  let r := setBit v.round bank true
  { v with round := if r = BitVec.allOnes 32 then 0 else r }

/-- The vault of a tile. -/
def State.vault (s : State) (tile : Nat) : Vault := (s.tile tile).vault

/-- Changes the vault of a tile. -/
def State.updVault (s : State) (tile : Nat) (f : Vault → Vault) : State := s.updTile tile fun t => { t with vault := f t.vault }

/-! ### D syllables in general (R301) -/

/-- The commands that a D syllable puts on the bus. -/
def commandsOf (v : Vault) (c : Ctx) : Instr → List (Command × Nat)
  | .act b _ => [(.act, b.toNat)]
  | .pre b => [(.pre, b.toNat)]
  | .prea => (v.opened.filter fun x => c.ownsBank x.1).map fun x => (.pre, x.1)
  | .rd o | .rdx o => [(.rd, o.bank.toNat)]
  | .wr o | .wrm o => [(.wr, o.bank.toNat)]
  | .refpb b => [(.refpb, b.toNat)]
  | .refab => [(.refab, 0)]
  | _ => []

/-- The linear offset that a record names: the row taken as 0 when the bank is closed (R301). -/
def Vault.locate (v : Vault) (bank col : Nat) : Nat := vaultOffset bank (v.opened.getD bank 0) col

/-- VAULT_OWNERSHIP. -/
def vaultOwnership (bad : Bool) (detail off : Nat) : Option Trap :=
  if bad then some { cause := causeVaultOwnership, detail := detail, address := BitVec.ofNat 64 off } else none

/-- VAULT_TIMING. -/
def vaultTiming (bad : Bool) (detail off : Nat) (value : Nat := 0) : Option Trap :=
  if bad then some { cause := causeVaultTiming, detail := detail, value := BitVec.ofNat 48 value, address := BitVec.ofNat 64 off } else none

/-- The bank that a broken minimum of a PREA or REFAB concerns (R301): the bank of the first PRE of the PREA that breaks the lowest row, and
for a REFAB that of the context's earlier command that it breaks it against. -/
def concernedBank (c : Ctx) (q : Queued) (cmds : List (Command × Nat)) (row : Nat) : Nat :=
  match cmds with
  | [(.refab, _)] =>
    ((c.commands.find? fun x => (minimums x.2.1 x.2.2 .refab 0).any fun r => r.1 == row && decide (q.disp < x.1 + r.2)).map (·.2.2)).getD 0
  | _ => ((cmds.find? fun x => (brokenRows c.commands q.disp x.1 x.2).contains row).map (·.2)).getD 0

/-- The timing check of R289: dispatch cycles against the context's own earlier commands; the lowest row broken. off is the location that a
command of one bank names. -/
def ownTiming (v : Vault) (c : Ctx) (q : Queued) (i : Instr) (off : Nat) : Option Trap :=
  let cmds := commandsOf v c i
  let rows := cmds.flatMap fun x => brokenRows c.commands q.disp x.1 x.2
  let row := rows.foldl min 15
  let place := match i with
    | .prea | .refab => v.locate (concernedBank c q cmds row) 0
    | _ => off
  vaultTiming (!rows.isEmpty) 0x0C00 place row

/-- The bank-state refusals of Table 12.3. -/
def bankState (v : Vault) (off : Nat) : Instr → Option Trap
  | .act b _ => vaultTiming (Table.find? v.opened b.toNat).isSome 0x0C02 off
  | .refab => vaultTiming (!v.opened.isEmpty) 0x0C02 (v.locate ((v.opened.head?.map (·.1)).getD 0) 0)
  | .refpb b =>
    if (Table.find? v.opened b.toNat).isSome then vaultTiming true 0x0C02 off
    else if v.round.getLsbD b.toNat then vaultTiming true 0x0C03 off
    else vaultTiming (v.debt ≤ -8) 0x0C04 off
  | .rd o | .rdx o | .wr o | .wrm o => vaultTiming (Table.find? v.opened o.bank.toNat).isNone 0x0C01 off
  | _ => none

/-- A D syllable that reaches the command bus: its checks, then its effect, then the commands in the context's history and on
the bus. -/
def onVault (i : Instr) (off : Vault → Nat) (checks : State → Issued → Ctx → List (Option Trap))
    (f : State → Issued → Ctx → State) (s : State) : Host.Outcome State Fault Refusal :=
  onSyllable s fun e c =>
    let v := s.vault e.tile
    let cmds := commandsOf v c i
    match firstByStage (checks s e c ++ [ownTiming v c e.q i (off v), bankState v (off v) i]) with
    | some t => .trap s t
    | none =>
      let shown := match i with
        | .pre b => if (Table.find? v.opened b.toNat).isSome then cmds else []
        | _ => cmds
      let s1 := (f s e c).updCtx e.tile e.place fun c => { c with
        commands := (c.commands.filter fun x => e.q.disp < x.1 + 468) ++ shown.map fun x => (e.q.disp, x.1, x.2) }
      .done (shown.foldl (fun s x => s.updVault e.tile fun v => v.drive s.time x.1 x.2 (some (c.launch, c.num))) s1)

/-! ### Row commands and refresh (R302) -/

def execAct (bank : BitVec 5) (row : BitVec 13) (s : State) : Host.Outcome State Fault Refusal :=
  let off (v : Vault) : Nat := v.locate bank.toNat 0
  onVault (.act bank row) off
    (fun s e c => [vaultOwnership (!c.ownsBank bank.toNat) 0x0C05 (off (s.vault e.tile)),
      vaultOwnership (bank.toNat == 31 && 8128 ≤ row.toNat) 0x000C (off (s.vault e.tile))])
    (fun s e _ => s.updVault e.tile fun v => { v with opened := v.opened.put bank.toNat row.toNat }) s

def execPre (bank : BitVec 5) (s : State) : Host.Outcome State Fault Refusal :=
  let off (v : Vault) : Nat := v.locate bank.toNat 0
  onVault (.pre bank) off (fun s e c => [vaultOwnership (!c.ownsBank bank.toNat) 0x0C05 (off (s.vault e.tile))])
    (fun s e _ => s.updVault e.tile fun v => { v with opened := v.opened.erase bank.toNat }) s

def execPrea (s : State) : Host.Outcome State Fault Refusal :=
  onVault .prea (fun _ => 0) noChecks
    (fun s e c => s.updVault e.tile fun v => { v with opened := v.opened.filter fun x => !c.ownsBank x.1 }) s

def execRefpb (bank : BitVec 5) (s : State) : Host.Outcome State Fault Refusal :=
  let off (v : Vault) : Nat := v.locate bank.toNat 0
  onVault (.refpb bank) off (fun s e c => [vaultOwnership (!c.ownsBank bank.toNat) 0x0C05 (off (s.vault e.tile))])
    (fun s e _ => s.updVault e.tile fun v => { v.roundFlag bank.toNat with debt := v.debt - 1 }) s

def execRefab (s : State) : Host.Outcome State Fault Refusal :=
  onVault .refab (fun _ => 0)
    (fun s e c => [vaultOwnership (c.vgroups != BitVec.allOnes 8) 0x0C06
      ((s.vault e.tile).locate (((List.range 32).find? fun b => !c.ownsBank b).getD 0) 0)])
    (fun s e _ => s.updVault e.tile fun v => { v with debt := 0, round := 0 }) s

/-! ### Column commands (R292-R294, R303) -/

/-- The SRAM address of a column command. -/
def colAddr (c : Ctx) (q : Queued) (o : ColOp) : Word64 := c.gRaw q o.gs + off19 o.off o.lend * 128

/-- The range check of a column command. -/
def colRange (a span : Nat) : Option Trap := sramRange a span 0x0C08 0x0C09 128

/-- The checks of a column command before its own causes: write says that the vault side is written. -/
def colChecks (o : ColOp) (span : Nat) (write : Bool) (s : State) (e : Issued) (c : Ctx) : List (Option Trap) :=
  let a := (colAddr c e.q o).toNat
  let v := s.vault e.tile
  let off := v.locate o.bank.toNat o.col.toNat
  let named (t : Option Trap) : Option Trap := t.map fun t => { t with address := BitVec.ofNat 64 off }
  [colRange a span,
   named (s.setCheck e.tile c e.q.group 2 write (!write) false false a span),
   if (Table.find? v.opened o.bank.toNat).isSome then s.setCheck e.tile c e.q.group 2 (!write) write false true off 128 else none,
   vaultOwnership (!c.ownsBank o.bank.toNat) 0x0C05 off,
   if c.gPoisoned e.q o.gs then some { poisonG o.gs with address := BitVec.ofNat 64 off } else none]

/-- Data on its way to the SRAM, written 24 cycles after the command (R292). -/
def State.launchLanding (s : State) (e : Issued) (c : Ctx) (pieces : List (Nat × List Byte × Bool)) : State :=
  (s.updVault e.tile fun v => { v with landings := v.landings ++ [⟨c.launch, c.num, e.q.seq, pieces⟩] }).afterTile e.tile 24
    (.vaultReadLands e.tile)

/-- 64 bytes of a vault with their poison. -/
def State.vaultPiece (s : State) (tile off : Nat) : List Byte × Bool :=
  (s.read (vaultKey tile off) 64, s.poisoned (vaultKey tile off) 64)

def execRd (o : ColOp) (s : State) : Host.Outcome State Fault Refusal :=
  onVault (.rd o) (fun v => v.locate o.bank.toNat o.col.toNat) (colChecks o 128 false)
    (fun s e c =>
      let a := (colAddr c e.q o).toNat
      let off := (s.vault e.tile).locate o.bank.toNat o.col.toNat
      s.launchLanding e c [(a, s.vaultPiece e.tile off), (a + 64, s.vaultPiece e.tile (off + 64))]) s

/-- Bytes per element of RDX (VXCFG). -/
def Ctx.rdxBytes (c : Ctx) (q : Queued) : Nat := 2 ^ (bitsOf (c.csrBefore q.seq 0x61).toNat 0 2)

/-- VXMETA for an RDX: as the bundles before it left it (R294). -/
def Ctx.rdxMeta (c : Ctx) (q : Queued) : Nat := (c.csrBefore q.seq 0x62).toNat

/-- The dense bytes of a 2:4 column, or none where a group's indices do not rise (R294). -/
def dense24 (e : Nat) (column meta_ : List Byte) : Option (List Byte) :=
  let m := leNat meta_
  let group (g : Nat) : Option (List Byte) :=
    let k1 := bitsOf m (4 * g) 2
    let k2 := bitsOf m (4 * g + 2) 2
    if k2 ≤ k1 then none
    else some ((List.range 4).flatMap fun k =>
      if k = k1 then (column.drop (2 * g * e)).take e
      else if k = k2 then (column.drop ((2 * g + 1) * e)).take e
      else List.replicate e 0)
  ((List.range (64 / e)).mapM group).map List.flatten

def execRdx (o : ColOp) (s : State) : Host.Outcome State Fault Refusal :=
  let meta_ (s : State) (e : Issued) (c : Ctx) : List Byte :=
    s.read (sramKey e.tile (c.rdxMeta e.q)) (32 / c.rdxBytes e.q)
  let column (s : State) (e : Issued) : List Byte :=
    s.read (vaultKey e.tile ((s.vault e.tile).locate o.bank.toNat o.col.toNat)) 128
  onVault (.rdx o) (fun v => v.locate o.bank.toNat o.col.toNat)
    (fun s e c =>
      let m := c.rdxMeta e.q
      let n := 32 / c.rdxBytes e.q
      let off := (s.vault e.tile).locate o.bank.toNat o.col.toNat
      colChecks o 256 false s e c ++
        [sramRange m n 0x0C08 0x0C09 n,
         (s.setCheck e.tile c e.q.group 2 true false false false m n).map fun t => { t with address := BitVec.ofNat 64 off },
         if s.poisoned (sramKey e.tile m) n then some (poisonRow off) else none,
         if (dense24 (c.rdxBytes e.q) (column s e) (meta_ s e c)).isNone then some (streamFault 0x090E off) else none])
    (fun s e c =>
      let a := (colAddr c e.q o).toNat
      let off := (s.vault e.tile).locate o.bank.toNat o.col.toNat
      let d := (dense24 (c.rdxBytes e.q) (column s e) (meta_ s e c)).getD []
      let s := s.launchLanding e c ((List.range 4).map fun k =>
        (a + 64 * k, (d.drop (64 * k)).take 64, s.poisoned (vaultKey e.tile (off + 64 * (k / 2))) 64))
      let next := (c.rdxMeta e.q + 32 / c.rdxBytes e.q) % 2 ^ 20
      s.updCtx e.tile e.place fun c => c.result e.q 0 (.csr 0x62) (BitVec.ofNat 2048 next) none) s

/-- What a WR or WRM reads: the bytes before any write of its own or a later bundle of its context (R303). -/
def State.wrBytes (s : State) (e : Issued) (c : Ctx) (a n : Nat) : List Byte × Bool :=
  s.bytesBefore e.tile c (fun u => decide (e.q.seq ≤ u.seq)) a n

def execWr (o : ColOp) (s : State) : Host.Outcome State Fault Refusal :=
  onVault (.wr o) (fun v => v.locate o.bank.toNat o.col.toNat) (colChecks o 128 true)
    (fun s e c =>
      let a := (colAddr c e.q o).toNat
      let off := (s.vault e.tile).locate o.bank.toNat o.col.toNat
      [0, 64].foldl (fun (x : State) k =>
        let b := s.wrBytes e c (a + k) 64
        x.write (vaultKey e.tile (off + k)) b.1 b.2) s) s

def execWrm (o : ColOp) (s : State) : Host.Outcome State Fault Refusal :=
  onVault (.wrm o) (fun v => v.locate o.bank.toNat o.col.toNat)
    (fun s e c =>
      let a := (colAddr c e.q o).toNat
      let off := (s.vault e.tile).locate o.bank.toNat o.col.toNat
      colChecks o 144 true s e c ++ [if (s.wrBytes e c (a + 128) 16).2 then some (poisonRow off) else none])
    (fun s e c =>
      let a := (colAddr c e.q o).toNat
      let off := (s.vault e.tile).locate o.bank.toNat o.col.toNat
      let mask := leNat (s.wrBytes e c (a + 128) 16).1
      let data := (s.wrBytes e c a 128).1
      [0, 64].foldl (fun (x : State) k =>
        let picked := (List.range 64).filter fun i => mask.testBit (k + i)
        let x := { x with mem := x.mem.writeAll (picked.map fun i => (vaultKey e.tile (off + k + i), data.getD (k + i) 0)) }
        let grain := vaultKey e.tile (off + k) / 64
        if picked.isEmpty then x
        else if (s.wrBytes e c (a + k) 64).2 then { x with poison := NatSet.insert x.poison grain }
        else if picked.length = 64 then { x with poison := NatSet.erase x.poison grain } else x) s) s

/-! ### VSTAT (R304) -/

/-- Cycles of an increment by band (Table 12.4). -/
def tRefi (band : Nat) : Nat := if band = 0 then 7020 else if band = 1 then 3510 else 1755

/-- Cycles until the next debt increment (R295). -/
def Vault.untilIncrement (v : Vault) : Nat :=
  if v.stepDue then 0 else max 1 (ceilDiv (tRefi v.accrual - v.accumulator) 32)

/-- Table 12.6. -/
def vstatValue (s : State) (tile : Nat) (owned : Bool) (bank sel : Nat) : Word64 :=
  let v := s.vault tile
  let b (x : Bool) (n : Nat) : Nat := if x then 2 ^ n else 0
  match sel with
  | 0 => BitVec.ofNat 64 (v.opened.getD bank 0 + b (Table.find? v.opened bank).isSome 16 + b owned 17 +
      b (v.round.getLsbD bank) 18)
  | 1 => BitVec.ofInt 64 v.debt
  | 2 => BitVec.ofNat 64 (v.measured + 16 * v.accrual + b v.window.isSome 8 + ((v.window.getD s.time) - s.time) % 2 ^ 32 * 2 ^ 32)
  | 3 => v.round.setWidth 64
  | _ => s.cycle + BitVec.ofNat 64 v.untilIncrement

def execVstat (bank : BitVec 5) (gd : BitVec 6) (sel : BitVec 11) (s : State) : Host.Outcome State Fault Refusal :=
  onSyllable s fun e c =>
    .done (s.putCtx e.tile e.place (c.resultG e.q 2 gd (vstatValue s e.tile (c.ownsBank bank.toNat) bank.toNat sel.toNat)))

/-! ### Vault steps without an encoding -/

/-- R292: the oldest data in flight is written, a cycle later where a starved copy has the bank (R320). No WR of an older bundle can still
be queued, which left before its RD. What it replaces is kept for this cycle, in which an SC access may yet take the bank first (R199). -/
def execVaultReadLands (tile : Nat) (s : State) : Host.Outcome State Fault Refusal :=
  .next (match (s.vault tile).landings with
    | [] => s
    | l :: r =>
      let lines := rowLines (l.pieces.map (·.1))
      if (s.tile tile).starves lines then
        (match s.findWho ⟨tile, l.launch, l.num⟩ with
          | some x => s.displaced tile x.2.1
          | none => s).afterTile tile 1 (.vaultReadLands tile)
      else
        let old := l.pieces.flatMap fun p => (cellsFrom p.1 p.2.1).map fun x =>
          (x.1, s.mem.read (sramKey tile x.1), s.poison.contains (sramKey tile x.1 / 64))
        let s := s.updVault tile fun v => { v with landings := r, landed := v.landed ++ [(l, old)] }
        let s := match s.findWho ⟨tile, l.launch, l.num⟩ with
          | some (t, p, c) =>
            let hit := l.pieces.flatMap fun (x : Nat × List Byte × Bool) => cellsFrom x.1 x.2.1
            s.putCtx t p { c with undo := c.undo ++ s.kept tile l.seq 2 hit }
          | none => s
        let s := l.pieces.foldl (fun s p => s.write (sramKey tile p.1) p.2.1 p.2.2) s
        s.updTile tile fun t => { t with lines := t.lines ++ lines })

/-- An SC access takes a bank before data that has landed in this cycle (R199): the data is taken back, and lands in the next one. -/
def State.unland (s : State) (tile : Nat) (lines : List Nat) : State :=
  let hit (x : Landing × List (Nat × Byte × Bool)) : Bool := sameBank lines (rowLines (x.1.pieces.map (·.1)))
  match (s.vault tile).landed.find? hit with
  | none => s
  | some x =>
    let s := s.updVault tile fun v => { v with landings := x.1 :: v.landings, landed := v.landed.filter fun y => !hit y }
    let s := { s with
      mem := s.mem.writeAll (x.2.map fun (b : Nat × Byte × Bool) => (sramKey tile b.1, b.2.1))
      poison := x.2.foldl (fun p (b : Nat × Byte × Bool) => if b.2.2 then NatSet.insert p (sramKey tile b.1 / 64) else NatSet.erase p (sramKey tile b.1 / 64)) s.poison }
    let s := s.updTile tile fun t => { t with lines := t.lines.filter fun l => !(rowLines (x.1.pieces.map fun (p : Nat × List Byte × Bool) => p.1)).contains l }
    (match s.findWho ⟨tile, x.1.launch, x.1.num⟩ with
      | some y => s.displaced tile y.2.1
      | none => s).afterTile tile 1 (.vaultReadLands tile)

/-- The contexts of a tile that are active or parked. -/
def State.present (s : State) (tile : Nat) : List (Nat × Ctx) := (s.tileCtxs tile).filter fun pc => pc.1 < 6

/-- Changes every context of a tile that is active or parked. -/
def State.eachPresent (s : State) (tile : Nat) (f : Ctx → Ctx) : State :=
  (s.present tile).foldl (fun s pc => s.updCtx tile pc.1 f) s

/-- Sets bits of a CSR of a context now. -/
def Ctx.orCsr (c : Ctx) (clock n : Nat) (bits : Word64) : Ctx := c.writeAt clock (.csr n) bits bits

/-- Starts a forced refresh in this cycle (R297): P follows from the rows open, those that the engine has opened for copies among them. One that
starts before the release of another goes on with the rows that are still to be re-activated. A transfer of the save area comes first (R144). -/
def State.startForced (s : State) (tile : Nat) : State :=
  let v := s.vault tile
  let p := (v.opened.map (·.1) ++ v.closing).foldl
    (fun t b => max t (firstMeeting (busOf (v.bus.filter fun x => x.command != .refab)) .pre b 100 t)) (max s.time (s.transferEnd tile))
  let s := s.eachPresent tile fun c =>
    (c.orCsr (s.clock tile) csrFlagsD 0x100).writeAt (s.clock tile) (.csr 0x64) (c.csrLast 0x64 + 1)
  let s := s.updVault tile fun v => { v with forced := some ⟨s.time, (v.forced.map (·.rows)).getD [], false⟩ }
  if p = s.time then s.now (.forcedPrecharge tile) else s.after (p - s.time) (.forcedPrecharge tile) 90

/-- Whether the engine refreshes a bank itself (R295): no active context owns it, and it is closed. -/
def State.engineBank (s : State) (tile bank : Nat) : Bool :=
  !((s.bankOwner tile bank).any fun pc => decide (pc.1 < 4)) && (Table.find? (s.vault tile).opened bank).isNone && !(s.vault tile).closing.contains bank

/-- R295: the increment of this cycle, by the accrual band in which it began, after the cycle's REFPB (R296). The engine's own REFPB takes
its place on the bus as soon as the minimums and the bus allow it (R288, R290). -/
def execDebtIncrement (tile : Nat) (s : State) : Host.Outcome State Fault Refusal :=
  let v := s.vault tile
  let bank := v.increments % 32
  let engine := s.engineBank tile bank
  let s := if !v.stepDue then s else s.updVault tile fun v =>
    { v with stepDue := false, accumulator := v.accumulator - tRefi v.stepBand, increments := v.increments + 1 }
  .next (
    if !v.stepDue || (v.forced.map fun f => f.refreshed) == some false then s
    else if engine then
      s.updVault tile fun v => { v.roundFlag bank with refreshing := v.refreshing ++ [bank] }
    else if v.debt < 8 then s.updVault tile fun v => { v with debt := v.debt + 1 }
    else s.startForced tile)

/-- R297 step 2. -/
def execForcedPrecharge (tile : Nat) (s : State) : Host.Outcome State Fault Refusal :=
  let v := s.vault tile
  let s := s.updVault tile fun v =>
    let d := (v.opened.map (·.1) ++ v.closing).foldl (fun x b => x.drive s.time .pre b none) v
    { d with opened := [], closing := [], refreshing := [], busy := [], forced := v.forced.map fun f => { f with rows := f.rows.foldl (fun (t : Table Nat) (x : Nat × Nat) => t.put x.1 x.2) v.opened } }
  .next (if v.forced.isSome then s.after 27 (.forcedRefab tile) 90 else s)

/-- R297 step 3. -/
def execForcedRefab (tile : Nat) (s : State) : Host.Outcome State Fault Refusal :=
  let v := s.vault tile
  let s := s.updVault tile fun v =>
    { v.drive s.time .refab 0 none with debt := 0, round := 0, forced := v.forced.map fun f => { f with refreshed := true } }
  .next (match v.forced with
    | none => s
    | some f => if f.rows.isEmpty then s.after 468 (.forcedRefreshRelease tile) 10 else s.after 468 (.forcedReactivate tile) 90)

/-- R297 step 4: one recorded row, the next as soon as rows 5-7 allow. -/
def execForcedReactivate (tile : Nat) (s : State) : Host.Outcome State Fault Refusal :=
  .next (match (s.vault tile).forced with
    | none => s
    | some f =>
      match (if f.refreshed then f.rows else []) with
      | [] => s
      | (b, row) :: r =>
        let s := s.updVault tile fun v =>
          { v.drive s.time .act b none with opened := v.opened.put b row, forced := some { f with rows := r } }
        match r with
        | [] => s.after 58 (.forcedRefreshRelease tile) 10
        | (b2, _) :: _ =>
          let acts := busOf ((s.vault tile).bus.filter fun x => x.command.activates)
          s.after (firstMeeting acts .act b2 40 (s.time + 1) - s.time) (.forcedReactivate tile) 90)

/-- R297 step 5, unless another forced refresh has begun by then. -/
def execForcedRefreshRelease (tile : Nat) (s : State) : Host.Outcome State Fault Refusal :=
  .next (s.updVault tile fun v => { v with forced := v.forced.filter fun f => !f.refreshed || !f.rows.isEmpty })

/-! ### Temperature bands (R298, R299) -/

/-- The band after a measurement: rising at the bound, falling 2 °C below it. -/
def bandAfter (old : Nat) (celsius : Int) : Nat :=
  let up := if celsius ≤ 85 then 0 else if celsius ≤ 95 then 1 else 2
  let down := if celsius ≤ 83 then 0 else if celsius ≤ 93 then 1 else 2
  if old ≤ up then up else if old < down then old else down

/-- The variant band that a context runs and its pending bit (ISSUE, Table 7.7). -/
def Ctx.variantBand (c : Ctx) : Nat := bitsOf (c.csrLast 0x40).toNat 0 2
def Ctx.bandPending (c : Ctx) : Bool := (c.csrLast 0x40).getLsbD 9

/-- Sets the band-pending bit, for the bundles after this cycle. -/
def Ctx.setPending (c : Ctx) (clock : Nat) : Ctx := c.orCsr (clock + 1) 0x40 0x200

/-- The measured band at the start of a cycle, by its time, since when it has changed once at most. -/
def Vault.bandAt (v : Vault) (time : Nat) : Nat := if time ≤ v.changed then v.earlier else v.measured

/-- Changes every context of a tile, saved ones included. -/
def State.eachHere (s : State) (tile : Nat) (f : Ctx → Ctx) : State :=
  (s.tileCtxs tile).foldl (fun s pc => s.updCtx tile pc.1 f) s

/-- Closes the grace window: the accrual band becomes the measured band. -/
def Vault.closeWindow (v : Vault) : Vault := { v with window := none, accrual := v.measured }

/-- Closes the window if every active owner, from its first bundle on (R285), runs the measured band, or the measured band is back at the accrual band (R299). -/
def State.checkWindow (s : State) (tile : Nat) : State :=
  let v := s.vault tile
  let owners := (s.tileCtxs tile).filter fun pc => pc.1 < 4 && pc.2.vgroups != 0 && pc.2.dispatched != 0
  if v.window.isSome && (v.measured == v.accrual || owners.all fun pc => pc.2.variantBand == v.measured) then
    s.updVault tile Vault.closeWindow
  else s

/-- Opens the grace window (R299). -/
def State.openWindow (s : State) (tile : Nat) : State :=
  ((s.updVault tile fun v => { v with window := some (s.time + 90000) }).after 90000 (.graceWindowTimeout tile)).checkWindow tile

/-- R298: the tile's band from its temperature; above 105 °C the package halts. -/
def execTemperatureMeasurement (tile : Nat) (celsius : Int) (s : State) : Host.Outcome State Fault Refusal :=
  let v := s.vault tile
  let band := bandAfter v.measured celsius
  .next (
    if 105 < celsius then s.now .thermalHalt
    else if band = v.measured then s
    else
      let s := s.updVault tile fun v => { v with measured := band, earlier := v.measured, changed := s.time }
      let s := s.eachHere tile fun c => if c.variantBand = band then c else c.setPending (s.clock tile)
      if v.window.isSome then s.checkWindow tile else if band = v.accrual then s else s.openWindow tile)

/-- R299: 90,000 cycles have passed. -/
def execGraceWindowTimeout (tile : Nat) (s : State) : Host.Outcome State Fault Refusal :=
  let v := s.vault tile
  .next (
    if v.window = some s.time then
      (s.updVault tile Vault.closeWindow).eachHere tile fun c =>
        if c.bandPending then c.orCsr (s.clock tile) csrFlagsD 0x200 else c
    else s)

/-- R287: the launch start on a tile, when its first bundle dispatches there: the vault starts anew, or goes on for another launch that runs
there while the engine closes the banks of the new one's groups. The grace window opens where the tile is not in band A (R299). -/
def State.vaultStart (s : State) (tile : Nat) (c : Ctx) : State :=
  let t := s.tile tile
  if t.begun.contains c.launch then s
  else
    let others := (s.tileCtxs tile).any fun pc => pc.2.launch != c.launch && t.begun.contains pc.2.launch
    let mates := (s.tileCtxs tile).filter fun pc => pc.2.launch == c.launch
    let s := s.updTile tile fun t => { t with begun := t.begun ++ [c.launch] }
    let s := s.updVault tile fun v =>
      if others then { v with opened := v.opened.filter fun b => !(mates.any fun pc => pc.2.ownsBank b.1) }
      else { Vault.reset with
        accruing := true, measured := v.measured, earlier := v.earlier, changed := v.changed, landings := v.landings, bus := v.bus,
        closing := v.closing, busy := v.busy }
    let v := s.vault tile
    if v.measured = 0 || v.window.isSome then s else s.openWindow tile

end Sys2Proof.Machine
end

