-- ==== Sys2Proof/Machine/Streams.lean ====
section
/-! DEFINITION. The stream unit (09_streams): binds and their checks, the rows a bundle takes at dispatch, prefetch, output
rows, and the Q syllables of opcodes 0x01-0x05. -/

namespace Sys2Proof.Machine

/-! ### Binding (R211, R212, R215, R223) -/

/-- Whether Table 9.5 allows a layout for a type and a direction. -/
def layoutAllowed (h : Handle) (output : Bool) : Bool :=
  match h.layout with
  | 0 | 1 => h.type != 14
  | 2 => [5, 6, 7, 11].contains h.type
  | 3 => [8, 13].contains h.type
  | 4 => !output && [0, 1, 2, 3, 4, 5, 6, 7, 9, 10, 11].contains h.type
  | _ => false

/-- A power of two. -/
def powerOfTwo (n : Nat) : Bool := n != 0 && n == 2 ^ Nat.log2 n

/-- The first refusal of a bind, as its STREAM_FAULT detail, for a port that is free. What a layout asks of the row beyond Table 9.5's list
of layouts, a power of two for swz and a multiple of 4 for sp24, counts as a condition on W and raises 0x0906 (DESIGN CHOICE, log 60). -/
def bindRefusal (p : Port) (output : Bool) : Option Nat :=
  let h := p.handle
  let used := List.range h.dims
  let rb := p.rowBytes
  let narrowRow := match h.layout with
    | 1 => rb % 64 == 0 && powerOfTwo (rb / 64)
    | 2 => p.narrow && rb % 128 == 0
    | 4 => h.extent 0 % 4 == 0
    | _ => true
  let turned := !output && h.layout < 2 && [8, 16, 32].contains p.bits && 2 ≤ h.dims && !p.gather
  let list := h.layout < 3 && h.grows != 0 && h.gcols != 0 && h.gcols * p.bits % 512 == 0 &&
    h.gcols * p.bits / 8 ≤ p.width && h.gaddr % 8 == 0 && h.gcount != 0 && !h.transpose
  let checks : List (Bool × Nat) :=
    [(h.valid, 0x0900), (h.space == 0, 0x0901), (h.type < 15, 0x0902), (layoutAllowed h output, 0x0903),
     (h.base % 64 == 0 && used.all fun d => d == 0 || h.stride d % 64 == 0, 0x0904),
     (used.all fun d => h.extent d != 0, 0x0905),
     (narrowRow && (!h.transpose || h.extent 1 * p.bits ≤ 8 * p.width), 0x0906),
     (!h.transpose || turned, 0x090C),
     (if p.gather then list else h.gcount == 0 && h.grows == 0 && h.gcols == 0, 0x090A)]
  (checks.find? fun x => !x.1).map (·.2)

/-- Rows that the unit may ask for beside those on their way: up to four ahead of the position, none past the end (R218). -/
def Port.wanted (p : Port) : Nat :=
  (if p.handle.repeats then p.position + 4 else min (p.position + 4) p.total) - (p.arrived + p.fetching)

/-- Whether four other ports of a context are prefetching (R267). -/
def Ctx.prefetchFull (c : Ctx) (port : Nat) : Bool :=
  decide (4 ≤ (c.ports.filter fun (kp : Nat × Port) => kp.1 != port && kp.2.fetching != 0).length)

/-- Asks for the rows of an input port; each arrives within a number of cycles (R267). -/
def State.prefetch (s : State) (tile place port bound : Nat) : State :=
  match s.ctx? tile place with
  | none => s
  | some c =>
    match Table.find? c.ports port with
    | none => s
    | some p =>
      if port < 8 && !c.prefetchFull port then
        (List.range p.wanted).foldl (fun (s : State) _ =>
            let d := s.drawDelay bound
            d.2.lateTile tile (d.1 - 1) (.streamRowArrival ⟨tile, c.launch, c.num⟩ port))
          (s.putCtx tile place { c with ports := c.ports.put port { p with fetching := p.fetching + p.wanted } })
      else s

/-- Asks for rows of every input port. -/
def State.prefetchAll (s : State) (tile place : Nat) : State :=
  (List.range 8).foldl (fun s p => s.prefetch tile place p 4) s

/-- BIND and BINDG (R223). -/
def bindPort (ga : BitVec 6) (h : BitVec 4) (port : Nat) (narrow gather : Bool) (c : Ctx) (q : Queued) : Except Trap Port := do
  let handle ← c.h q h
  let origin ← c.g q ga
  let p : Port := ⟨handle, narrow, origin.setWidth 56, 0, gather, 0, 0, q.seq⟩
  if (Table.find? c.ports port).isSome then .error (streamFault 0x0907)
  else
    match bindRefusal p (decide (8 ≤ port)) with
    | some d => .error (streamFault d)
    | none => .ok p

/-- A rebind or an unbind drops the rows recorded for the port (R220). -/
def Ctx.forgetRows (c : Ctx) (port : Nat) : Ctx :=
  let drop (l : List (List RowUse)) : List (List RowUse) := l.map fun r => r.filter fun u => u.port != port
  { c with
    again := drop c.again
    eret := c.eret.map fun e => { e with rows := drop e.rows }
    resume := c.resume.map fun e => { e with rows := drop e.rows } }

/-- A bind at the port. -/
def bindAt (ga : BitVec 6) (h port : BitVec 4) (narrow gather : Bool) (s : State) : Host.Outcome State Fault Refusal :=
  onSyllable s fun e c =>
    match bindPort ga h port.toNat narrow gather c e.q with
    | .error t => .trap s t
    | .ok p =>
      let c := c.forgetRows port.toNat
      .done ((s.putCtx e.tile e.place { c with ports := c.ports.put port.toNat p }).prefetch e.tile e.place port.toNat 8)

def execBind (ga : BitVec 6) (h port : BitVec 4) (narrow : Bool) (s : State) : Host.Outcome State Fault Refusal :=
  bindAt ga h port narrow false s

def execBindg (ga : BitVec 6) (h port : BitVec 4) (narrow : Bool) (s : State) : Host.Outcome State Fault Refusal :=
  bindAt ga h port narrow true s

/-- SSKIP (R225): the new position of a port. A skip past the end of a repeated stream begins a new count of rows. -/
def skipPort (ga : BitVec 6) (port : Nat) (c : Ctx) (q : Queued) : Except Trap Port := do
  let n ← c.g q ga
  match Table.find? c.ports port with
  | none => .error (streamFault 0x0908)
  | some p =>
    let at_ := p.position + n.toNat
    let next := if p.handle.repeats then at_ % p.total else min at_ p.total
    if next < p.position then .ok { p with position := next, arrived := next, bind := q.seq }
    else .ok { p with position := next, arrived := max p.arrived next }

def execSskip (ga : BitVec 6) (port : BitVec 4) (s : State) : Host.Outcome State Fault Refusal :=
  onSyllable s fun e c =>
    match skipPort ga port.toNat c e.q with
    | .error t => .trap s t
    | .ok p => .done ((s.putCtx e.tile e.place { c with ports := c.ports.put port.toNat p }).prefetch e.tile e.place port.toNat 4)

/-! ### Tokens: posting and progress (R321) -/

/-- A token of a context. -/
def Ctx.token (c : Ctx) (t : Nat) : Token := c.tokens.getD t {}

/-- Changes a token. -/
def Ctx.updToken (c : Ctx) (t : Nat) (f : Token → Token) : Ctx := { c with tokens := c.tokens.set t (f (c.token t)) {} }

/-- Adds bytes to a token. -/
def Ctx.postToken (c : Ctx) (t n : Nat) : Ctx :=
  c.updToken t fun k => { k with expected := (k.expected + BitVec.ofNat 64 n) &&& 0xFFFFFFFFFFFF, remaining := k.remaining + BitVec.ofNat 64 n }

/-- Takes performed bytes off a token; a token that completes in cycle X satisfies waits from X + 1 (R161). -/
def Ctx.progress (c : Ctx) (clock t n : Nat) : Ctx :=
  c.updToken t fun k =>
    let r := k.remaining - BitVec.ofNat 64 n
    { k with remaining := r, doneFrom := if r = 0 && k.remaining != 0 then clock + 1 else k.doneFrom }

/-- The FLAGS_Q bit of a failed copy and the CSR of its address (R331). -/
def flagCopyError : Nat := 0x100
def csrCpfaddr : Nat := 0x6A

/-- The first failure on a token since its last TOKCLR sets the flag and records its cause (R321). -/
def Ctx.failToken (c : Ctx) (clock t cause detail : Nat) (address : Word64) : Ctx :=
  let k := c.token t
  if k.error then c
  else
    let c := c.updToken t fun k =>
      { k with error := true, cause := BitVec.ofNat 16 cause, detail := BitVec.ofNat 16 detail, address := address, doneFrom := clock + 1 }
    let c := c.writeAt clock (.csr csrFlagsQ) (BitVec.ofNat 64 flagCopyError) (BitVec.ofNat 64 flagCopyError)
    if c.csrLast csrCpfaddr = 0 then c.writeAt clock (.csr csrCpfaddr) address else c

/-- Whether a token satisfies a wait (R161). -/
def Ctx.tokenDone (c : Ctx) (clock t : Nat) : Bool :=
  let k := c.token t
  (k.remaining == 0 || k.error) && k.doneFrom ≤ clock

/-! ### UNBIND and SQRY (R224, R226) -/

/-- The binding that an UNBIND or SQRY found at dispatch, or the port as it is. -/
def Ctx.boundFor (c : Ctx) (q : Queued) (port : Nat) : Option Port :=
  match q.rows.find? fun u => u.port == port with
  | some u => u.bound
  | none => Table.find? c.ports port

/-- Releases a port: its later output rows are those of other bindings, and its prefetched rows are gone (R224). -/
def Ctx.unbound (c : Ctx) (port : Nat) : Ctx := { c.forgetRows port with ports := c.ports.erase port }

/-- Whether an UNBIND counts a buffered output row: of its port, from before it, and on no token yet (R224). -/
def Ctx.unbindRow (c : Ctx) (q : Queued) (port : Nat) (r : OutRow) : Bool :=
  (c.boundFor q port).isSome && r.port == port && r.seq < q.seq && r.token.isNone

/-- The bytes that an UNBIND posts: those that the buffered rows will write, their scale bytes among them and masked-off bytes not; the
manual does not say which bytes of a row count (DESIGN CHOICE, log 60). -/
def Ctx.unbindBytes (c : Ctx) (q : Queued) (port : Nat) : Nat :=
  ((c.outRows.filter (c.unbindRow q port)).map fun r => r.bytes.length).foldl (· + ·) 0

/-- The last steps of UNBIND: the buffered rows of an output port count on the token (R224). -/
def execUnbind (port : BitVec 4) (post : Bool) (t : BitVec 3) (s : State) : Host.Outcome State Fault Refusal :=
  onCtx s fun q c =>
    let mine (r : OutRow) : Bool := post && c.unbindRow q port.toNat r
    let n := c.unbindBytes q port.toNat
    let c := if q.rows.any fun u => u.port == port.toNat then c else c.unbound port.toNat
    let c := { c with outRows := c.outRows.map fun r => if mine r then { r with token := some t.toNat } else r }
    .ok (if post then c.postToken t.toNat n else c)

/-- Rows in a port's buffer. -/
def Ctx.buffered (c : Ctx) (port : Nat) : Nat :=
  if 8 ≤ port then (c.outRows.filter fun r => r.port == port).length
  else match Table.find? c.ports port with
    | some p => min 4 (p.arrived - p.position)
    | none => 0

/-- Table 9.7. -/
def sqryValue (c : Ctx) (q : Queued) (port sel : Nat) : Word64 :=
  match c.boundFor q port with
  | none => 0
  | some p =>
    let b (x : Bool) (n : Nat) : Nat := if x then 2 ^ n else 0
    let h := p.handle
    match sel with
    | 0 => if h.repeats then BitVec.allOnes 64 else BitVec.ofNat 64 (p.total - p.position)
    | 1 => BitVec.ofNat 64 p.position
    | 2 => BitVec.ofNat 64 (1 + b (decide (8 ≤ port)) 1 + b p.narrow 2 + b p.gather 3 + b h.repeats 4 + b h.transpose 5 +
        c.buffered port * 2 ^ 6 + b (!h.repeats && p.total ≤ p.position) 9)
    | _ => p.origin.setWidth 64

def execSqry (ga : BitVec 6) (port : BitVec 4) (sel : BitVec 3) (s : State) : Host.Outcome State Fault Refusal :=
  onCtx s fun q c => .ok (c.resultG q 2 ga (sqryValue c q port.toNat sel.toNat))

/-! ### Rows at dispatch (R219, R220) -/

/-- The next row of a port, or the STREAM_FAULT that its syllable raises. -/
def Ctx.nextRow (c : Ctx) (port : Nat) : RowUse :=
  match Table.find? c.ports port with
  | none => ⟨port, none, 0, 0x0908⟩
  | some p => if p.handle.repeats || p.position < p.total then ⟨port, some p, p.position, 0⟩ else ⟨port, none, 0, 0x0909⟩

/-- Gives a bundle one row of each port it names; a row recorded for the bundle stays its row. -/
def Ctx.takeRows (c : Ctx) (recorded : List RowUse) : List Nat → Ctx × List RowUse
  | [] => (c, [])
  | port :: r =>
    match recorded.find? fun u => u.port == port with
    | some u =>
      let x := c.takeRows recorded r
      (x.1, u :: x.2)
    | none =>
      let u := c.nextRow port
      let c := match u.bound with
        | some p => { c with ports := c.ports.put port { p with position := p.position + 1 } }
        | none => c
      let x := c.takeRows recorded r
      (x.1, u :: x.2)

/-! ### Rows on their way -/

/-- Claims lines for the rest of the cycle. -/
def State.claim (s : State) (tile : Nat) (lines : List Nat) : State :=
  s.updTile tile fun t => { t with lines := t.lines ++ lines }

/-- A prefetched row arrives at the end of a cycle, and further ones are asked for; one whose bank an SC access or a starved copy takes
comes a cycle later (R221, R267). -/
def execStreamRowArrival (who : Who) (port : Nat) (s : State) : Host.Outcome State Fault Refusal :=
  .next (match s.findWho who with
    | none => s
    | some (tile, place, c) =>
      match Table.find? c.ports port with
      | none => s
      | some p =>
        let come (p : Port) : State := (s.putCtx tile place { c with ports := c.ports.put port { p with fetching := p.fetching - 1 } })
        if p.fetching = 0 then s
        else if 4 ≤ place || (!p.handle.repeats && p.total ≤ p.arrived) then come p
        else
          let lines := rowLines (p.rowCells (p.place s tile p.arrived) p.arrived ++ p.entryCells p.arrived)
          if (s.tile tile).bankTaken lines then (s.displaced tile place).lateTile tile 1 (.streamRowArrival who port)
          else ((come { p with arrived := p.arrived + 1 }).claim tile lines).prefetchAll tile place)

/-- Whether a syllable makes an access on path ST. -/
def usesST (i : Instr) : Bool := (pathsOf i).any fun p => p.1 == 1

/-- Whether an older syllable of a context still has an access on path ST to make. -/
def Ctx.olderST (c : Ctx) (seq : Nat) : Bool :=
  c.queues.any fun kq => kq.2.any fun q => q.seq < seq &&
    (match decode q.slot q.lend q.word with
      | .ok i => usesST i
      | .error _ => false)

/-- The oldest output row is performed in its place of the ST order (R221); an older WR keeps the bytes it overwrites (R303). -/
def execOutputRowWrite (who : Who) (s : State) : Host.Outcome State Fault Refusal :=
  .next (match s.findWho who with
    | none => s
    | some (tile, place, c) =>
      match c.outRows with
      | [] => s
      | r :: rest =>
        let lines := rowLines (r.bytes.map (·.1))
        if c.olderST r.seq then s.lateTile tile 1 (.outputRowWrite who)
        else if (s.tile tile).bankTaken lines then (s.displaced tile place).lateTile tile 1 (.outputRowWrite who)
        else
          let c := { c with outRows := rest, undo := c.undo ++ s.kept tile r.seq 1 r.bytes }
          let c := match r.token with
            | some t => c.progress (s.clock tile) t r.bytes.length
            | none => c
          ((s.putCtx tile place c).writeCells tile r.bytes r.poisoned).claim tile lines)

/-! ### What holds a syllable for its rows (R218, R221) -/

/-- Whether byte lists share an address. -/
def overlap (a b : List Nat) : Bool := a.any b.contains

/-- Whether an output row of an older bundle of a context, produced or still to be produced, writes one of some bytes (R221). -/
def State.ownRowOver (s : State) (tile : Nat) (c : Ctx) (seq : Nat) (cells : List Nat) : Bool :=
  !cells.isEmpty &&
    ((c.outRows.any fun r => r.seq < seq && overlap (r.bytes.map (·.1)) cells) ||
      c.queues.any fun kq => kq.2.any fun x => x.seq < seq && x.rows.any fun y =>
        8 ≤ y.port && (match y.bound with
          | some o => overlap (o.rowCells (o.place s tile y.ordinal) y.ordinal) cells
          | none => false))

/-- Whether a syllable waits for a row: deviation 0x1 for an input that has not arrived or that an own row still to be written
overlaps, its scale byte and list entry included, 0x2 for a full output port; a scatter waits for own rows over its list entry. -/
def State.rowHold (s : State) (tile : Nat) (c : Ctx) (q : Queued) : Option Nat :=
  q.rows.findSome? fun u =>
    match u.bound with
    | none => none
    | some p =>
      if 8 ≤ u.port then
        (if 4 ≤ c.buffered u.port then some 2
        else if s.ownRowOver tile c q.seq (p.entryCells u.ordinal) then some 0 else none)
      else
        let late := match Table.find? c.ports u.port with
          | some now => now.bind == p.bind && now.arrived ≤ u.ordinal
          | none => false
        if late || s.ownRowOver tile c q.seq (p.entryCells u.ordinal) ||
          s.ownRowOver tile c q.seq (p.rowCells (p.place s tile u.ordinal) u.ordinal) then some 1 else none

end Sys2Proof.Machine
end

