-- ==== Sys2Proof/Machine/Order.lean ====
section
/-! DEFINITION. Homes and scopes (04_ordering R86, R91), and the order among the accesses of one context: fences, releases and acquires
(R92-R96). -/

namespace Sys2Proof.Machine

/-! ### Homes and scopes (R86, R91) -/

/-- The package id of this package (PKGID, log 3). -/
def State.packageId (s : State) : Nat := s.hub.pkgid.toNat

/-- Where a global physical address lies: package, space (0 vault, 1 SRAM, 2 registers, 3 host), logical tile, offset. -/
structure Home where
  pkg : Nat
  space : Nat
  tile : Nat
  off : Nat
  deriving DecidableEq, Repr

/-- The fields of a global physical address. -/
def homeOf (g : Word64) : Home :=
  let v := g.toNat
  let space := bitsOf v 47 3
  { pkg := bitsOf v 50 14, space := space, tile := if space = 3 then 0 else bitsOf v 36 11
    off := if space = 3 then bitsOf v 0 47 else bitsOf v 0 36 }

/-- Whether a home is in this package. -/
def State.isHere (s : State) (h : Home) : Bool := h.pkg == s.packageId

/-- Whether a scope of a tile covers a home (Table 4.4). -/
def State.covers (s : State) (scope tile : Nat) (h : Home) : Bool :=
  let tiled := s.isHere h && h.space < 2
  match scope with
  | 0 => tiled && h.tile == tile
  | 1 => tiled && partOf h.tile == partOf tile
  | 2 => tiled && dieOf h.tile == dieOf tile
  | 3 => s.isHere h && h.space != 3
  | 4 => h.space != 3
  | _ => true

/-- The home that an operand of a copy names, none where only a walk could tell (R308). -/
def State.operandHome (s : State) (tile kind : Nat) (a : Word64) : Option Home :=
  match kind with
  | 0 => some ⟨s.packageId, 1, tile, a.toNat⟩
  | 1 => some ⟨s.packageId, 0, tile, a.toNat⟩
  | 2 =>
    let root : Word64 := s.hub.regs.getD (0x100 + 8 * partOf tile) 0
    ((s.tile tile).tlb.find? fun e => e.root == root && e.page == a.toNat / 2 ^ e.bits).map fun e =>
      homeOf ((e.leaf &&& ~~~(BitVec.ofNat 64 (2 ^ e.bits - 1))) ||| (a &&& BitVec.ofNat 64 (2 ^ e.bits - 1)))
  | _ => some (homeOf a)

/-- The home of an operation's destination. -/
def State.destHome (s : State) (o : CopyOp) : Option Home := s.operandHome o.tile o.dkind o.dst

/-- The home of an operation's source, if it has one. -/
def State.sourceHome (s : State) (o : CopyOp) : Option Home := s.operandHome o.tile o.skind o.src

/-- The home of a key of this package's memory. -/
def State.homeOfKey (s : State) (key : Nat) : Home := homeOf (BitVec.ofNat 64 (s.packageId * 2 ^ 50 + key % 2 ^ 50))

/-- The byte offset of a row from its base (R312). -/
def rowOffset (extents strides : List Nat) (r : Nat) : Nat :=
  let e (k : Nat) : Nat := extents.getD k 1
  let st (k : Nat) : Nat := strides.getD k 0
  r % e 0 * st 0 + r / e 0 % e 1 * st 1 + r / (e 0 * e 1) * st 2

/-- The homes of what an operation has still to write: of each 64 KiB page of each of its rows, where these may differ. -/
def State.destHomes (s : State) (o : CopyOp) : List (Option Home) :=
  if o.dkind < 2 || (match o.mode with | .move | .fetch => false | _ => true) then [s.destHome o]
  else
    let row (r : Nat) : List (Option Home) :=
      let a := o.dst.toNat + rowOffset o.extents o.dstrides r
      (List.range ((a + o.row - 1) / 2 ^ 16 - a / 2 ^ 16 + 1)).map fun k =>
        s.operandHome o.tile o.dkind (BitVec.ofNat 64 (max a ((a / 2 ^ 16 + k) * 2 ^ 16)))
    (List.range (o.total / o.row - o.pos / o.row)).flatMap fun k => row (o.pos / o.row + k)

/-- The homes of the writes that an operation has not performed: those held at their homes, and those to come. -/
def State.writesLeft (s : State) (o : CopyOp) : List (Option Home) :=
  (o.held.map fun b => some (s.homeOfKey b.addr)) ++ s.destHomes o

/-- Whether two homes are one: a tile's SRAM, its vault, the package registers, the host (R88). -/
def sameHome (a b : Option Home) : Bool :=
  match a, b with
  | some x, some y => x.pkg == y.pkg && x.space == y.space && x.tile == y.tile
  | _, _ => true

/-! ### Queued syllables -/

/-- No syllable: what an operation that none issued here carries in its place. -/
def Queued.none_ : Queued :=
  { slot := 6, word := 0, lend := none, seq := 0, disp := 0, sched := 0, addr := 0, scope := 5, rrb := 0, group := 0, rows := [], held := 0
    left := 0 }

/-- Whether any slot queue holds a syllable. -/
def Ctx.queued (c : Ctx) : Bool := c.queues.any fun kq => !kq.2.isEmpty

/-- The syllables of a slot queue. -/
def Ctx.queue (c : Ctx) (slot : Nat) : List Queued := c.queues.getD slot []

/-- Every queued syllable, oldest bundle first within a slot. -/
def Ctx.allQueued (c : Ctx) : List Queued := c.queues.flatMap (·.2)

/-! ### Accesses not yet performed -/

/-- Whether a context has an access on paths of a mask, from bundles before seq, that is not performed (R96). -/
def State.olderAccess (s : State) (tile : Nat) (c : Ctx) (seq : Nat) (mask : BitVec 7) : Bool :=
  (c.allQueued.any fun q => q.seq < seq && (match decode q.slot q.lend q.word with
    | .ok i => (pathsOf i).any fun p => mask.getLsbD p.1
    | .error _ => false)) ||
  (mask.getLsbD 1 && c.outRows.any fun r => r.seq < seq) ||
  (mask.getLsbD 2 && (s.vault tile).landings.any fun l => l.launch == c.launch && l.num == c.num && l.seq < seq) ||
  (c.pending.any fun p => p.seq < seq && mask.getLsbD p.path)

/-- Whether only writes are left of an operation. -/
def CopyOp.readsOver (o : CopyOp) : Bool :=
  match o.mode with
  | .move => decide (o.total ≤ o.pos)
  | .accw _ _ _ | .store _ => true
  | _ => false

/-- Whether an operation under way still keeps a release at a scope waiting: until its reads are performed, and its writes where their
home lies within the scope (R92, R93, R99). -/
def State.awaited (s : State) (scope tile : Nat) (p : Pending) : Bool :=
  match s.copies.find? p.id with
  | some o => p.path != 3 || !o.readsOver || (s.writesLeft o).any fun h => h.all (s.covers scope tile)
  | none => true

/-- Whether a release at a scope, of bundle seq, still waits for accesses of earlier bundles (R93). -/
def State.unpublished (s : State) (tile : Nat) (c : Ctx) (seq scope : Nat) : Bool :=
  s.olderAccess tile { c with pending := c.pending.filter (s.awaited scope tile) } seq (BitVec.allOnes 7)

/-- Releases among the syllables (R93). -/
def isRelease : Instr → Bool
  | .strel _ | .barr _ _ _ _ => true
  | .accw _ _ _ _ _ _ rel => rel
  | .casw _ _ _ _ _ rel => rel
  | _ => false

/-- The acquires of earlier bundles that have not obtained their value (R94): LDACQs still queued. -/
def Ctx.acquires (c : Ctx) (q : Queued) : List Queued :=
  [1, 2].flatMap fun k => (c.queue k).filter fun x => x.seq < q.seq &&
    (match decode x.slot x.lend x.word with | .ok (.ldacq _) => true | _ => false)

/-- Whether a FENCEX holds a syllable (R96, R164). -/
def State.fenced (s : State) (tile : Nat) (c : Ctx) (q : Queued) (i : Instr) : Bool :=
  c.fences.any fun f => f.seq ≤ q.seq && ((pathsOf i).any fun p => f.mask.getLsbD p.1) && s.olderAccess tile c f.seq f.mask

end Sys2Proof.Machine
end

