-- ==== Sys2Proof/Machine/Scalar.lean ====
section
/-! DEFINITION. The scalar pair (08_scalar): arithmetic, shifts, fields, counts, compares, SRAM access on path SC and the
handle fields. -/

namespace Sys2Proof.Machine

/-! ### Helpers of 08_scalar -/

def lo32 (v : Word64) : BitVec 32 := v.setWidth 32
def sx32 (v : BitVec 32) : Word64 := v.signExtend 64
def zx32 (v : BitVec 32) : Word64 := v.setWidth 64

/-- A 64-bit signed result clamped to its range, and whether it clamped (R186). -/
def sat64 (v : Int) : Word64 × Nat :=
  if v < -(2 ^ 63) then (BitVec.ofInt 64 (-(2 ^ 63)), flagSaturated)
  else if 2 ^ 63 - 1 < v then (BitVec.ofInt 64 (2 ^ 63 - 1), flagSaturated)
  else (BitVec.ofInt 64 v, 0)

/-- A guarded F-R3 operation on rs1 and rs2 (R181, R182): nothing at all when the guard is false; otherwise both sources are
consumed, and the operation gives the result and the FLAGS_S bits it sets. -/
def execR3 (latency : Nat) (o : R3) (f : Word64 → Word64 → Word64 × Nat) (s : State) : Host.Outcome State Fault Refusal :=
  onCtx s fun q c =>
    if !guardHolds c q o.guard o.neg then .ok c
    else do
      let a ← c.g q o.rs1
      let b ← c.g q o.rs2
      let r := f a b
      pure ((c.resultG q latency o.rd r.1).setFlags q latency csrFlagsS r.2)

/-- As execR3, for the operations that also read the destination: the operation takes rs1, rs2, rd (R190, R191). -/
def execR3D (o : R3) (f : Word64 → Word64 → Word64 → Word64) (s : State) : Host.Outcome State Fault Refusal :=
  onCtx s fun q c =>
    if !guardHolds c q o.guard o.neg then .ok c
    else do
      let a ← c.g q o.rs1
      let b ← c.g q o.rs2
      let d ← c.g q o.rd
      pure (c.resultG q 1 o.rd (f a b d))

/-- A form with a 32-bit variant (Table 2.7): 01 applies the narrow operation. -/
def byVariant (o : R3) (wide narrow : Word64 → Word64 → Word64) (a b : Word64) : Word64 × Nat :=
  (if o.var = 0 then wide a b else narrow a b, 0)

/-! ### Arithmetic and logic (R186-R188) -/

/-- ADD and SUB: wrapping, 32-bit, saturating. -/
def addSub (o : R3) (op : Word64 → Word64 → Word64) (exact : Int → Int → Int) (a b : Word64) : Word64 × Nat :=
  if o.var = 0 then (op a b, 0)
  else if o.var = 1 then (sx32 (lo32 (op a b)), 0)
  else sat64 (exact a.toInt b.toInt)

def execAdd (o : R3) (s : State) : Host.Outcome State Fault Refusal := execR3 1 o (addSub o (· + ·) (· + ·)) s
def execSub (o : R3) (s : State) : Host.Outcome State Fault Refusal := execR3 1 o (addSub o (· - ·) (· - ·)) s
def execAnd (o : R3) (s : State) : Host.Outcome State Fault Refusal := execR3 1 o (fun a b => (a &&& b, 0)) s
def execOr (o : R3) (s : State) : Host.Outcome State Fault Refusal := execR3 1 o (fun a b => (a ||| b, 0)) s
def execXor (o : R3) (s : State) : Host.Outcome State Fault Refusal := execR3 1 o (fun a b => (a ^^^ b, 0)) s

/-- MIN and MAX keep the first operand where p holds, signed; .w compares and extends the low halves. -/
def pickSigned (o : R3) (p : Int → Int → Bool) (a b : Word64) : Word64 × Nat :=
  byVariant o (fun a b => if p a.toInt b.toInt then a else b)
    (fun a b => sx32 (if p (lo32 a).toInt (lo32 b).toInt then lo32 a else lo32 b)) a b

/-- MINU and MAXU. -/
def pickUnsigned (o : R3) (p : Nat → Nat → Bool) (a b : Word64) : Word64 × Nat :=
  byVariant o (fun a b => if p a.toNat b.toNat then a else b)
    (fun a b => zx32 (if p (lo32 a).toNat (lo32 b).toNat then lo32 a else lo32 b)) a b

def execMin (o : R3) (s : State) : Host.Outcome State Fault Refusal := execR3 1 o (pickSigned o fun a b => a ≤ b) s
def execMax (o : R3) (s : State) : Host.Outcome State Fault Refusal := execR3 1 o (pickSigned o fun a b => b ≤ a) s
def execMinu (o : R3) (s : State) : Host.Outcome State Fault Refusal := execR3 1 o (pickUnsigned o fun a b => a ≤ b) s
def execMaxu (o : R3) (s : State) : Host.Outcome State Fault Refusal := execR3 1 o (pickUnsigned o fun a b => b ≤ a) s

def execMul (o : R3) (s : State) : Host.Outcome State Fault Refusal :=
  execR3 3 o (byVariant o (· * ·) fun a b => sx32 (lo32 a * lo32 b)) s

def execMulh (o : R3) (s : State) : Host.Outcome State Fault Refusal :=
  execR3 3 o (fun a b => (BitVec.ofInt 64 (a.toInt * b.toInt / 2 ^ 64), 0)) s

def execMulhu (o : R3) (s : State) : Host.Outcome State Fault Refusal :=
  execR3 3 o (fun a b => (BitVec.ofNat 64 (a.toNat * b.toNat / 2 ^ 64), 0)) s

/-- Table 8.3a, signed, on w-bit operands. -/
def divSigned {w : Nat} (a b : BitVec w) : BitVec w × Nat :=
  if b = 0 then (BitVec.allOnes w, flagDivZero)
  else if a = BitVec.intMin w ∧ b = BitVec.allOnes w then (a, flagDivOverflow)
  else (BitVec.ofInt w (a.toInt.tdiv b.toInt), 0)

/-- Table 8.3a, unsigned quotient. -/
def divUnsigned {w : Nat} (a b : BitVec w) : BitVec w × Nat :=
  if b = 0 then (BitVec.allOnes w, flagDivZero) else (BitVec.ofNat w (a.toNat / b.toNat), 0)

/-- Table 8.3a, unsigned remainder. -/
def remUnsigned {w : Nat} (a b : BitVec w) : BitVec w × Nat :=
  if b = 0 then (a, flagDivZero) else (BitVec.ofNat w (a.toNat % b.toNat), 0)

def execDiv (o : R3) (s : State) : Host.Outcome State Fault Refusal :=
  execR3 20 o (fun a b =>
    if o.var = 0 then divSigned a b else (sx32 (divSigned (lo32 a) (lo32 b)).1, (divSigned (lo32 a) (lo32 b)).2)) s

def execDivu (o : R3) (s : State) : Host.Outcome State Fault Refusal :=
  execR3 20 o (fun a b =>
    if o.var = 0 then divUnsigned a b else (zx32 (divUnsigned (lo32 a) (lo32 b)).1, (divUnsigned (lo32 a) (lo32 b)).2)) s

def execRemu (o : R3) (s : State) : Host.Outcome State Fault Refusal :=
  execR3 20 o (fun a b =>
    if o.var = 0 then remUnsigned a b else (zx32 (remUnsigned (lo32 a) (lo32 b)).1, (remUnsigned (lo32 a) (lo32 b)).2)) s

/-! ### Shifts (R189) -/

/-- SHL, SHR, SRA by a count: the 64-bit form and the .w form. -/
def shiftLeft (narrow : Bool) (a : Word64) (n : Nat) : Word64 := if narrow then zx32 (lo32 a <<< n) else a <<< n
def shiftRight (narrow : Bool) (a : Word64) (n : Nat) : Word64 := if narrow then zx32 (lo32 a >>> n) else a >>> n
def shiftArith (narrow : Bool) (a : Word64) (n : Nat) : Word64 :=
  if narrow then sx32 ((lo32 a).sshiftRight n) else a.sshiftRight n

/-- The count of a register shift: g[rs2][5:0], or [4:0] in the .w form. -/
def shiftCount (o : R3) (b : Word64) : Nat := if o.var = 0 then b.toNat % 64 else b.toNat % 32

def execShl (o : R3) (s : State) : Host.Outcome State Fault Refusal :=
  execR3 1 o (fun a b => (shiftLeft (o.var != 0) a (shiftCount o b), 0)) s
def execShr (o : R3) (s : State) : Host.Outcome State Fault Refusal :=
  execR3 1 o (fun a b => (shiftRight (o.var != 0) a (shiftCount o b), 0)) s
def execSra (o : R3) (s : State) : Host.Outcome State Fault Refusal :=
  execR3 1 o (fun a b => (shiftArith (o.var != 0) a (shiftCount o b), 0)) s

/-- An unguarded operation on rs1 alone. -/
def execOneSource (rd rs1 : BitVec 6) (f : Word64 → Word64) (s : State) : Host.Outcome State Fault Refusal :=
  onCtx s fun q c => do
    let a ← c.g q rs1
    pure (c.resultG q 1 rd (f a))

def execShli (o : ShiftI) (s : State) : Host.Outcome State Fault Refusal :=
  execOneSource o.rd o.rs1 (fun a => shiftLeft o.narrow a o.count.toNat) s
def execShri (o : ShiftI) (s : State) : Host.Outcome State Fault Refusal :=
  execOneSource o.rd o.rs1 (fun a => shiftRight o.narrow a o.count.toNat) s
def execSrai (o : ShiftI) (s : State) : Host.Outcome State Fault Refusal :=
  execOneSource o.rd o.rs1 (fun a => shiftArith o.narrow a o.count.toNat) s

/-! ### Fields, funnels and counts (R190-R192) -/

/-- The field that g[rs2] describes: lowest bit and width. -/
def fieldPos (b : Word64) : Nat := bitsOf b.toNat 0 6
def fieldWidth (b : Word64) : Nat := bitsOf b.toNat 8 6 + 1

def execBfx (o : R3) (s : State) : Host.Outcome State Fault Refusal :=
  execR3 1 o (fun a b =>
    let t := a.toNat / 2 ^ fieldPos b % 2 ^ fieldWidth b
    (if o.var = 1 then BitVec.ofInt 64 (signed (fieldWidth b) t) else BitVec.ofNat 64 t, 0)) s

/-- BFI: the low bits of a replace the field of d; bits beyond 63 are dropped. -/
def insertField (a b d : Word64) : Word64 :=
  let m : Word64 := BitVec.ofNat 64 ((2 ^ fieldWidth b - 1) * 2 ^ fieldPos b)
  (d &&& ~~~m) ||| ((a <<< fieldPos b) &&& m)

def execBfi (o : R3) (s : State) : Host.Outcome State Fault Refusal := execR3D o insertField s

def execFshl (o : R3) (s : State) : Host.Outcome State Fault Refusal :=
  execR3D o (fun a b d =>
    let n := b.toNat % 64
    if n = 0 then d else (d <<< n) ||| (a >>> (64 - n))) s

def execFshr (o : R3) (s : State) : Host.Outcome State Fault Refusal :=
  execR3D o (fun a b d =>
    let n := b.toNat % 64
    if n = 0 then d else (d >>> n) ||| (a <<< (64 - n))) s

/-- One bits among the low n. -/
def popCount (v n : Nat) : Nat := ((List.range n).filter fun i => v.testBit i).length

/-- Zero bits above the highest one of the low n. -/
def leadingZeros (v n : Nat) : Nat := ((List.range n).takeWhile fun i => !v.testBit (n - 1 - i)).length

/-- Zero bits below the lowest one of the low n. -/
def trailingZeros (v n : Nat) : Nat := ((List.range n).takeWhile fun i => !v.testBit i).length

/-- The low n bits in reverse order. -/
def reverseBits (v n : Nat) : Nat := (List.range n).foldl (fun r i => 2 * r + (if v.testBit i then 1 else 0)) 0

/-- A guarded operation on rs1 alone, over 64 or 32 bits (R192). -/
def execCount (o : R3) (f : Nat → Nat → Nat) (s : State) : Host.Outcome State Fault Refusal :=
  execR3 1 o (fun a _ => (BitVec.ofNat 64 (if o.var = 0 then f a.toNat 64 else f (a.toNat % 2 ^ 32) 32), 0)) s

def execPopc (o : R3) (s : State) : Host.Outcome State Fault Refusal := execCount o popCount s
def execClz (o : R3) (s : State) : Host.Outcome State Fault Refusal := execCount o leadingZeros s
def execCtz (o : R3) (s : State) : Host.Outcome State Fault Refusal := execCount o trailingZeros s
def execBrev (o : R3) (s : State) : Host.Outcome State Fault Refusal := execCount o reverseBits s

/-! ### Immediates and constants (R193) -/

def execAddi (o : RI) (s : State) : Host.Outcome State Fault Refusal :=
  execOneSource o.rd o.rs1 (fun a => a + imm22 o.imm o.lend) s
def execAndi (o : RI) (s : State) : Host.Outcome State Fault Refusal :=
  execOneSource o.rd o.rs1 (fun a => a &&& imm22 o.imm o.lend) s
def execOri (o : RI) (s : State) : Host.Outcome State Fault Refusal :=
  execOneSource o.rd o.rs1 (fun a => a ||| imm22 o.imm o.lend) s
def execXori (o : RI) (s : State) : Host.Outcome State Fault Refusal :=
  execOneSource o.rd o.rs1 (fun a => a ^^^ imm22 o.imm o.lend) s

def execLdi (o : LoadI) (s : State) : Host.Outcome State Fault Refusal :=
  onCtx s fun q c => .ok (c.resultG q 1 o.rd (imm22 o.imm o.lend))

def execLdih (o : LoadI) (s : State) : Host.Outcome State Fault Refusal :=
  execOneSource o.rd o.rd (fun d => (d <<< 22) ||| ((imm22 o.imm o.lend).setWidth 22).setWidth 64) s

/-! ### Compares and select (R194, R195) -/

/-- Table 8.3: condition code and signedness. -/
def compare64 (cond : BitVec 2) (unsigned : Bool) (a b : Word64) : Bool :=
  match cond.toNat with
  | 0 => a == b
  | 1 => a != b
  | 2 => if unsigned then a.ult b else a.slt b
  | _ => !(if unsigned then a.ult b else a.slt b)

def execCmp (o : R3) (s : State) : Host.Outcome State Fault Refusal :=
  onCtx s fun q c =>
    if !guardHolds c q o.guard o.neg then .ok c
    else do
      let a ← c.g q o.rs1
      let b ← c.g q o.rs2
      pure (c.resultP q 1 (o.rd.toNat % 32) (compare64 o.var (o.rd.getLsbD 5) a b))

def execCmpi (o : RI) (s : State) : Host.Outcome State Fault Refusal :=
  onCtx s fun q c => do
    let a ← c.g q o.rs1
    pure (c.resultP q 1 (o.rd.toNat % 32)
      (compare64 (o.imm.extractLsb' 12 2) (o.rd.getLsbD 5) a (imm20 (o.imm.setWidth 12) o.lend)))

/-- SEL always writes, and consumes only the register it selects. -/
def execSel (o : R3) (s : State) : Host.Outcome State Fault Refusal :=
  onCtx s fun q c => do
    let v ← c.g q (if guardHolds c q o.guard o.neg then o.rs1 else o.rs2)
    pure (c.resultG q 1 o.rd v)

/-! ### SRAM access (R196-R201) -/

/-- The effective address of base plus offset (R41). -/
def eaOff (c : Ctx) (q : Queued) (base : BitVec 6) (off : BitVec 11) (lend : Option Byte) : Word64 :=
  c.gRaw q base + off19 off lend

/-- The effective address of base plus shifted index (R41). -/
def eaIdx (c : Ctx) (q : Queued) (o : MemIdx) : Word64 := c.gRaw q o.base + (c.gRaw q o.idx <<< o.shift.toNat)

/-- The checks of an SC access in the order of R130: range, sets, poisoned address registers. -/
def scTrap (s : State) (e : Issued) (c : Ctx) (ea : Nat) (n : Nat) (write sync : Bool) (regs : List (BitVec 6)) : Option Trap :=
  firstTrap [sramRange ea n 0x0800 0x0801 n, s.setCheck e.tile c e.q.group 0 (!write) write sync false ea n,
    (regs.find? (c.gPoisoned e.q)).map poisonG]

/-- What an SC access of a bundle reads: the bytes before any write of that bundle, on whatever path (R90). -/
def scBytes (s : State) (e : Issued) (c : Ctx) (ea n : Nat) : List Byte × Bool :=
  s.bytesBefore e.tile c (fun u => u.seq == e.q.seq) ea n

/-- Keeps what a write of a bundle overwrites. -/
def Ctx.keepOld (c : Ctx) (s : State) (e : Issued) (path ea : Nat) (bs : List Byte) : Ctx :=
  { c with undo := c.undo ++ s.kept e.tile e.q.seq path (cellsFrom ea bs) }

/-- A load of n bytes: the destination takes the value and the poison of what it reads (R200). -/
def scLoad (ea : Ctx → Queued → Word64) (n : Nat) (sync : Bool) (regs : List (BitVec 6))
    (put : Ctx → Queued → Nat → Bool → Ctx) (s : State) : Host.Outcome State Fault Refusal :=
  onSyllable s fun e c =>
    let a := (ea c e.q).toNat
    match scTrap s e c a n false sync regs with
    | some t => .trap s t
    | none =>
      let b := scBytes s e c a n
      .done (s.putCtx e.tile e.place (put c e.q (leNat b.1) b.2))

/-- A store of n bytes, performed as the syllable leaves (R197). -/
def scStore (ea : Ctx → Queued → Word64) (n : Nat) (sync : Bool) (regs : List (BitVec 6))
    (data : Ctx → Queued → Nat × Bool) (s : State) : Host.Outcome State Fault Refusal :=
  onSyllable s fun e c =>
    let a := (ea c e.q).toNat
    match scTrap s e c a n true sync regs with
    | some t => .trap s t
    | none =>
      let d := data c e.q
      .done ((s.putCtx e.tile e.place (c.keepOld s e 0 a (leBytes n d.1))).write (sramKey e.tile a) (leBytes n d.1) d.2)

/-- The data register of a store. -/
def storeData (r : BitVec 6) (c : Ctx) (q : Queued) : Nat × Bool := ((c.gRaw q r).toNat, c.gPoisoned q r)

/-- A loaded value in its g register (R197: latency 4). -/
def loadG (r : BitVec 6) (size : BitVec 3) (c : Ctx) (q : Queued) (v : Nat) (poison : Bool) : Ctx :=
  c.resultG q 4 r (extendLoad size v) poison

def execLd (o : MemOff) (s : State) : Host.Outcome State Fault Refusal :=
  scLoad (fun c q => eaOff c q o.base o.off o.lend) (sizeBytes o.size) false [o.base] (loadG o.data o.size) s
def execLdacq (o : MemOff) (s : State) : Host.Outcome State Fault Refusal :=
  scLoad (fun c q => eaOff c q o.base o.off o.lend) (sizeBytes o.size) true [o.base] (loadG o.data o.size) s
def execLdx (o : MemIdx) (s : State) : Host.Outcome State Fault Refusal :=
  scLoad (fun c q => eaIdx c q o) (sizeBytes o.size) false [o.base, o.idx] (loadG o.data o.size) s
def execSt (o : MemOff) (s : State) : Host.Outcome State Fault Refusal :=
  scStore (fun c q => eaOff c q o.base o.off o.lend) (sizeBytes o.size) false [o.base] (storeData o.data) s
def execStrel (o : MemOff) (s : State) : Host.Outcome State Fault Refusal :=
  scStore (fun c q => eaOff c q o.base o.off o.lend) (sizeBytes o.size) true [o.base] (storeData o.data) s
def execStx (o : MemIdx) (s : State) : Host.Outcome State Fault Refusal :=
  scStore (fun c q => eaIdx c q o) (sizeBytes o.size) false [o.base, o.idx] (storeData o.data) s

def execHld (o : MemHandle) (s : State) : Host.Outcome State Fault Refusal :=
  scLoad (fun c q => eaOff c q o.base o.off o.lend) 32 false [o.base]
    (fun c q v poison => c.result q 5 (.h o.h.toNat) (BitVec.ofNat 2048 v) (some poison)) s

def execHst (o : MemHandle) (s : State) : Host.Outcome State Fault Refusal :=
  scStore (fun c q => eaOff c q o.base o.off o.lend) 32 false [o.base]
    (fun c q => (((c.regsAt q.disp).h.getD o.h.toNat 0).toNat, (c.regsAt q.disp).hPoison.getLsbD o.h.toNat)) s

/-! ### Handle fields (R202) -/

def execHget (rd : BitVec 6) (h : BitVec 4) (code : BitVec 14) (s : State) : Host.Outcome State Fault Refusal :=
  onCtx s fun q c => do
    let v ← c.h q h
    pure (c.resultG q 1 rd (BitVec.ofNat 64 (Handle.field v code.toNat)))

def execHset (h : BitVec 4) (rs : BitVec 6) (code : BitVec 14) (s : State) : Host.Outcome State Fault Refusal :=
  onCtx s fun q c => do
    let v ← c.g q rs
    let lo := (handleField code.toNat).1
    let w := (handleField code.toNat).2
    let c := c.post ⟨.h h.toNat, q.disp + 1, q.left + 1, q.held, q.seq, q.slot, BitVec.ofNat 2048 ((2 ^ w - 1) * 2 ^ lo),
      BitVec.ofNat 2048 (v.toNat % 2 ^ w * 2 ^ lo), none⟩
    pure (c.setFlags q 1 csrFlagsS (if 2 ^ w ≤ v.toNat then flagHfieldTrunc else 0))

end Sys2Proof.Machine
end

