-- ==== Sys2Proof/Machine/RiscV.lean ====
section
/-! DEFINITION. The scalar part of the Cigon form (19_cigon R461-R463): RV64I, M, Zba, Zbb and F, as the RISC-V specifications give them
(log 56). A decoded instruction holds what it computes. -/

namespace Sys2Proof.Machine

/-! ### Fields of an instruction word -/

def rvRd (w : Word32) : Nat := (fld w 7 5).toNat
def rvRs1 (w : Word32) : Nat := (fld w 15 5).toNat
def rvRs2 (w : Word32) : Nat := (fld w 20 5).toNat
def rvF3 (w : Word32) : Nat := (fld w 12 3).toNat
def rvF7 (w : Word32) : Nat := (fld w 25 7).toNat

/-- The immediates of the I, S, B and J forms. -/
def rvImmI (w : Word32) : BitVec 12 := fld w 20 12
def rvImmS (w : Word32) : BitVec 12 := fld w 25 7 ++ fld w 7 5
def rvImmB (w : Word32) : BitVec 13 := fld w 31 1 ++ fld w 7 1 ++ fld w 25 6 ++ fld w 8 4 ++ (0 : BitVec 1)
def rvImmJ (w : Word32) : BitVec 21 := fld w 31 1 ++ fld w 12 8 ++ fld w 20 1 ++ fld w 21 10 ++ (0 : BitVec 1)

/-! ### Integer results -/

/-- Signed remainder: the dividend for a divisor of zero. -/
def remSigned {w : Nat} (a b : BitVec w) : BitVec w := if b = 0 then a else BitVec.ofInt w (a.toInt.tmod b.toInt)

/-- Each byte all ones where it is not zero (ORC.B). -/
def orBytes (a : Word64) : Word64 := BitVec.ofNat 64 (packElems 8 ((List.range 8).map fun k => if elemAt 8 a.toNat k = 0 then 0 else 255))

/-- The bytes in reverse order (REV8). -/
def reverseBytes (a : Word64) : Word64 := BitVec.ofNat 64 (packElems 8 ((List.range 8).map fun k => elemAt 8 a.toNat (7 - k)))

/-- Operations of 32 bits with a sign-extended result. -/
def onLow (f : Word32 → Word32 → Word32) (a b : Word64) : Word64 := sx32 (f (lo32 a) (lo32 b))

/-- A truth value as a register. -/
def truth (b : Bool) : Word64 := if b then 1 else 0

/-- OP-IMM by funct3 and immediate. -/
def rvOpImm (f3 : Nat) (imm : BitVec 12) : Option (Word64 → Word64) :=
  let i : Word64 := imm.signExtend 64
  let sh := imm.toNat % 64
  match f3, imm.toNat / 64 with
  | 0, _ => some (· + i)
  | 2, _ => some fun a => truth (a.slt i)
  | 3, _ => some fun a => truth (a.ult i)
  | 4, _ => some (· ^^^ i)
  | 6, _ => some (· ||| i)
  | 7, _ => some (· &&& i)
  | 1, 0x00 => some (· <<< sh)
  | 1, 0x18 =>
    (match sh with
      | 0 => some fun a => BitVec.ofNat 64 (leadingZeros a.toNat 64)
      | 1 => some fun a => BitVec.ofNat 64 (trailingZeros a.toNat 64)
      | 2 => some fun a => BitVec.ofNat 64 (popCount a.toNat 64)
      | 4 => some fun a => (a.setWidth 8).signExtend 64
      | 5 => some fun a => (a.setWidth 16).signExtend 64
      | _ => none)
  | 5, 0x00 => some (· >>> sh)
  | 5, 0x10 => some (·.sshiftRight sh)
  | 5, 0x18 => some (·.rotateRight sh)
  | 5, _ => if imm = 0x287 then some orBytes else if imm = 0x6B8 then some reverseBytes else none
  | _, _ => none

/-- OP-IMM-32. -/
def rvOpImm32 (f3 : Nat) (imm : BitVec 12) : Option (Word64 → Word64) :=
  let sh := imm.toNat % 32
  let low (f : Word32 → Word32) : Option (Word64 → Word64) := some fun a => sx32 (f (lo32 a))
  match f3, imm.toNat / 32 with
  | 0, _ => low (· + lo32 (imm.signExtend 64))
  | 1, 0x00 => low (· <<< sh)
  | 1, 0x30 =>
    (match sh with
      | 0 => low fun a => BitVec.ofNat 32 (leadingZeros a.toNat 32)
      | 1 => low fun a => BitVec.ofNat 32 (trailingZeros a.toNat 32)
      | 2 => low fun a => BitVec.ofNat 32 (popCount a.toNat 32)
      | _ => none)
  | 1, 0x04 | 1, 0x05 => some fun a => zx32 (lo32 a) <<< (imm.toNat % 64)
  | 5, 0x00 => low (· >>> sh)
  | 5, 0x20 => low (·.sshiftRight sh)
  | 5, 0x30 => low (·.rotateRight sh)
  | _, _ => none

/-- OP by funct7 and funct3. -/
def rvOp (f7 f3 : Nat) : Option (Word64 → Word64 → Word64) :=
  let sh (b : Word64) : Nat := b.toNat % 64
  match f7, f3 with
  | 0x00, 0 => some (· + ·)
  | 0x20, 0 => some (· - ·)
  | 0x00, 1 => some fun a b => a <<< sh b
  | 0x00, 2 => some fun a b => truth (a.slt b)
  | 0x00, 3 => some fun a b => truth (a.ult b)
  | 0x00, 4 => some (· ^^^ ·)
  | 0x00, 5 => some fun a b => a >>> sh b
  | 0x20, 5 => some fun a b => a.sshiftRight (sh b)
  | 0x00, 6 => some (· ||| ·)
  | 0x00, 7 => some (· &&& ·)
  | 0x20, 4 => some fun a b => ~~~(a ^^^ b)
  | 0x20, 6 => some fun a b => a ||| ~~~b
  | 0x20, 7 => some fun a b => a &&& ~~~b
  | 0x01, 0 => some (· * ·)
  | 0x01, 1 => some fun a b => BitVec.ofInt 64 (a.toInt * b.toInt / 2 ^ 64)
  | 0x01, 2 => some fun a b => BitVec.ofInt 64 (a.toInt * (b.toNat : Int) / 2 ^ 64)
  | 0x01, 3 => some fun a b => BitVec.ofNat 64 (a.toNat * b.toNat / 2 ^ 64)
  | 0x01, 4 => some fun a b => (divSigned a b).1
  | 0x01, 5 => some fun a b => (divUnsigned a b).1
  | 0x01, 6 => some remSigned
  | 0x01, 7 => some fun a b => (remUnsigned a b).1
  | 0x10, 2 => some fun a b => (a <<< 1) + b
  | 0x10, 4 => some fun a b => (a <<< 2) + b
  | 0x10, 6 => some fun a b => (a <<< 3) + b
  | 0x05, 4 => some fun a b => if a.slt b then a else b
  | 0x05, 5 => some fun a b => if a.ult b then a else b
  | 0x05, 6 => some fun a b => if a.slt b then b else a
  | 0x05, 7 => some fun a b => if a.ult b then b else a
  | 0x30, 1 => some fun a b => a.rotateLeft (sh b)
  | 0x30, 5 => some fun a b => a.rotateRight (sh b)
  | _, _ => none

/-- OP-32; rs2 is the field, which ZEXT.H needs to be zero. -/
def rvOp32 (f7 f3 rs2 : Nat) : Option (Word64 → Word64 → Word64) :=
  let sh (b : Word32) : Nat := b.toNat % 32
  match f7, f3 with
  | 0x00, 0 => some (onLow (· + ·))
  | 0x20, 0 => some (onLow (· - ·))
  | 0x00, 1 => some (onLow fun a b => a <<< sh b)
  | 0x00, 5 => some (onLow fun a b => a >>> sh b)
  | 0x20, 5 => some (onLow fun a b => a.sshiftRight (sh b))
  | 0x01, 0 => some (onLow (· * ·))
  | 0x01, 4 => some (onLow fun a b => (divSigned a b).1)
  | 0x01, 5 => some (onLow fun a b => (divUnsigned a b).1)
  | 0x01, 6 => some (onLow remSigned)
  | 0x01, 7 => some (onLow fun a b => (remUnsigned a b).1)
  | 0x04, 0 => some fun a b => zx32 (lo32 a) + b
  | 0x04, 4 => if rs2 = 0 then some fun a _ => (a.setWidth 16).setWidth 64 else none
  | 0x10, 2 => some fun a b => (zx32 (lo32 a) <<< 1) + b
  | 0x10, 4 => some fun a b => (zx32 (lo32 a) <<< 2) + b
  | 0x10, 6 => some fun a b => (zx32 (lo32 a) <<< 3) + b
  | 0x30, 1 => some (onLow fun a b => a.rotateLeft (sh b))
  | 0x30, 5 => some (onLow fun a b => a.rotateRight (sh b))
  | _, _ => none

/-- The condition of a branch. -/
def rvBranch (f3 : Nat) : Option (Word64 → Word64 → Bool) :=
  match f3 with
  | 0 => some (· == ·)
  | 1 => some (· != ·)
  | 4 => some fun a b => a.slt b
  | 5 => some fun a b => !a.slt b
  | 6 => some fun a b => a.ult b
  | 7 => some fun a b => !a.ult b
  | _ => none

/-! ### Floating results -/

/-- The mode of Table 5.3 for a rounding mode of RISC-V; RMM acts as RNE (R462). -/
def rvMode (rm : Nat) : Nat := [0, 1, 3, 2].getD rm 0

/-- A result of arithmetic in a format: rounded once, INVALID where it makes a NaN of operands that hold none (R462, R119). -/
def roundTo (f : FloatFmt) (mode : Nat) (x : Exact) (operands : List Exact) : Nat × Nat :=
  ((satFloat f mode 0 true x).1, invalidFlag x operands)

/-- Division, with DIV_BY_ZERO. -/
def divideIn (f : FloatFmt) (mode : Nat) (x y : Exact) : Nat × Nat :=
  let r := roundTo f mode (x.div y) [x, y]
  let finite := match x with | .fin _ m _ _ => m != 0 | _ => false
  (r.1, if finite && y.isZero then r.2 ||| flagDivByZero else r.2)

/-- x * y + z as the four fused operations take it: 0 x*y+z, 1 -(x*y)-z, 2 x*y-z, 3 -(x*y)+z. -/
def fuseIn (f : FloatFmt) (mode k : Nat) (x y z : Exact) : Nat × Nat :=
  let p := x.mul y
  roundTo f mode (Exact.add mode (if k = 1 || k = 3 then p.neg else p) (if k = 1 || k = 2 then z.neg else z)) [x, y, z]

/-- FMIN and FMAX: the other operand where one is a NaN, minus zero below plus zero. -/
def leastIn (f : FloatFmt) (greatest : Bool) (x y : Exact) : Nat × Nat :=
  (if x.isNan then (roundTo f 0 y []).1
  else if y.isNan then (roundTo f 0 x []).1
  else (roundTo f 0 (if greatest then x.max y else x.min y) []).1, 0)

/-- The class of a value, one bit of ten, by its code: a NaN whose leading fraction bit is clear is signalling. -/
def classIn (f : FloatFmt) (code : Nat) : Nat :=
  let neg := code.testBit (f.frac + f.exp)
  let mag := code % 2 ^ (f.frac + f.exp)
  if f.nanFrom ≤ mag then (if mag.testBit (f.frac - 1) then 2 ^ 9 else 2 ^ 8)
  else
    let k := if f.inf = some mag then 0 else if 2 ^ f.frac ≤ mag then 1 else if mag ≠ 0 then 2 else 3
    2 ^ (if neg then k else 7 - k)

/-- The sign of another value on one: taken, inverted, combined. -/
def signIn (f : FloatFmt) (k a b : Nat) : Nat :=
  let n := f.frac + f.exp
  let s := if k = 0 then b.testBit n else if k = 1 then !b.testBit n else a.testBit n ^^ b.testBit n
  a % 2 ^ n + (if s then 2 ^ n else 0)

/-- A value as an integer of n bits: a NaN gives the greatest. -/
def toInteger (isSigned : Bool) (n mode : Nat) (x : Exact) : Nat :=
  let lo : Int := if isSigned then -(2 ^ (n - 1)) else 0
  let hi : Int := if isSigned then 2 ^ (n - 1) - 1 else 2 ^ n - 1
  wrapTo n (if x.isNan then hi else (satInt lo hi mode 0 x).1)

/-- The binary32 code in an f register. -/
def f32Of (a : Word64) : Nat := a.toNat % 2 ^ 32

/-- What an OP-FP instruction computes under a mode of Table 5.3 from its source registers: the register written and the flags, with
whether it writes an x register, whether its sources are x registers, how many it has and whether funct3 is a rounding mode. -/
structure RvFloat where
  toX : Bool
  fromX : Bool
  sources : Nat
  rounds : Bool
  f : Nat → Word64 → Word64 → Word64 × Nat

/-- OP-FP of format S. -/
def rvOpFp (f7 f3 rs2 : Nat) : Option RvFloat :=
  let val (a : Word64) : Exact := fp32.value (f32Of a)
  let w (r : Nat × Nat) : Word64 × Nat := (BitVec.ofNat 64 r.1, r.2)
  let arith (n : Nat) (f : Nat → Exact → Exact → Nat × Nat) : Option RvFloat := some ⟨false, false, n, true, fun m a b => w (f m (val a) (val b))⟩
  let plain (toX fromX : Bool) (n : Nat) (f : Word64 → Word64 → Nat) : Option RvFloat :=
    some ⟨toX, fromX, n, false, fun _ a b => w (f a b, 0)⟩
  let compare (p : Exact → Exact → Bool) : Option RvFloat := plain true false 2 fun a b => if p (val a) (val b) then 1 else 0
  match f7 with
  | 0x00 => arith 2 fun m x y => roundTo fp32 m (Exact.add m x y) [x, y]
  | 0x04 => arith 2 fun m x y => roundTo fp32 m (Exact.add m x y.neg) [x, y]
  | 0x08 => arith 2 fun m x y => roundTo fp32 m (x.mul y) [x, y]
  | 0x0C => arith 2 fun m x y => divideIn fp32 m x y
  | 0x2C => if rs2 = 0 then arith 1 fun m x _ => roundTo fp32 m x.sqrt [x] else none
  | 0x10 => if f3 < 3 then plain false false 2 fun a b => signIn fp32 f3 (f32Of a) (f32Of b) else none
  | 0x14 => if f3 < 2 then some ⟨false, false, 2, false, fun _ a b => w (leastIn fp32 (f3 == 1) (val a) (val b))⟩ else none
  | 0x50 =>
    (match f3 with
      | 0 => compare fun x y => x.lt y || x.eq y
      | 1 => compare fun x y => x.lt y
      | 2 => compare fun x y => x.eq y
      | _ => none)
  | 0x60 =>
    if rs2 < 4 then
      some ⟨true, false, 1, true, fun m a _ =>
        let n := if rs2 < 2 then 32 else 64
        (BitVec.ofInt 64 (signed n (toInteger (rs2 % 2 == 0) n m (val a))), 0)⟩
    else none
  | 0x68 =>
    if rs2 < 4 then
      some ⟨false, true, 1, true, fun m a _ =>
        let n := if rs2 < 2 then 32 else 64
        let v : Int := if rs2 % 2 = 0 then signed n a.toNat else ((a.toNat % 2 ^ n : Nat) : Int)
        w (roundTo fp32 m (Exact.ofInt v) [])⟩
    else none
  | 0x70 =>
    if rs2 ≠ 0 then none
    else if f3 = 0 then some ⟨true, false, 1, false, fun _ a _ => (sx32 (lo32 a), 0)⟩
    else if f3 = 1 then plain true false 1 fun a _ => classIn fp32 (f32Of a) else none
  | 0x78 => if rs2 = 0 && f3 = 0 then plain false true 1 fun a _ => f32Of a else none
  | _ => none

/-! ### Scalar instructions -/

/-- A scalar instruction of the Cigon form. Registers are numbers of g: x0-x31 are g0-g31 and f0-f31 the low halves of g32-g63. -/
inductive Rv where
  /-- A result from source registers under a rounding mode field, with the flags of FLAGS_V. -/
  | calc (rd : Nat) (sources : List Nat) (rm : Nat) (f : Nat → List Word64 → Word64 × Nat)
  /-- AUIPC. -/
  | auipc (rd : Nat) (v : Word64)
  | jal (rd : Nat) (off : Int)
  | jalr (rd rs1 : Nat) (off : Int)
  | branch (rs1 rs2 : Nat) (off : Int) (holds : Word64 → Word64 → Bool)
  /-- Loads and stores, with the size code of Table 2.9. -/
  | load (size : BitVec 3) (rd rs1 : Nat) (off : BitVec 12)
  | store (size : BitVec 3) (rs2 rs1 : Nat) (off : BitVec 12)
  | fence | ecall | ebreak | wfi
  /-- CSRRW, CSRRS and CSRRC: 1, 2, 3; the source is a register or a constant. -/
  | csr (op rd n : Nat) (source : Nat ⊕ Nat)

/-- The CSRs that R463 accepts; those from 0xC00 up are read only. -/
def rvCsrs : List Nat := [0x001, 0x002, 0x003, 0x008, 0x009, 0x00A, 0x00F, 0xC20, 0xC21, 0xC22, 0xC00]

/-- A rounding mode field that is not refused: RMM and the reserved ones are (R461). -/
def rmAllowed (rm : Nat) : Bool := rm < 4 || rm == 7

/-- The scalar instructions by their words; none for what is refused (R461). -/
def rvScalar (w : Word32) : Option Rv :=
  let rd := rvRd w
  let rs1 := rvRs1 w
  let rs2 := rvRs2 w
  let f3 := rvF3 w
  let one (f : Option (Word64 → Word64)) : Option Rv := f.map fun f => .calc rd [rs1] 0 fun _ l => (f (l.headD 0), 0)
  let two (f : Option (Word64 → Word64 → Word64)) : Option Rv := f.map fun f => .calc rd [rs1, rs2] 0 fun _ l => (f (l.headD 0) (l.getD 1 0), 0)
  match (fld w 0 7).toNat with
  | 0x37 => some (.calc rd [] 0 fun _ _ => ((fld w 12 20 ++ (0 : BitVec 12)).signExtend 64, 0))
  | 0x17 => some (.auipc rd ((fld w 12 20 ++ (0 : BitVec 12)).signExtend 64))
  | 0x6F => some (.jal rd (rvImmJ w).toInt)
  | 0x67 => if f3 = 0 then some (.jalr rd rs1 (rvImmI w).toInt) else none
  | 0x63 => (rvBranch f3).map fun p => .branch rs1 rs2 (rvImmB w).toInt p
  | 0x03 => if f3 < 7 then some (.load ([4, 5, 6, 3, 0, 1, 2].getD f3 0) rd rs1 (rvImmI w)) else none
  | 0x23 => if f3 < 4 then some (.store (BitVec.ofNat 3 f3) rs2 rs1 (rvImmS w)) else none
  | 0x07 => if f3 = 2 then some (.load 2 (32 + rd) rs1 (rvImmI w)) else none
  | 0x27 => if f3 = 2 then some (.store 2 (32 + rs2) rs1 (rvImmS w)) else none
  | 0x13 => one (rvOpImm f3 (rvImmI w))
  | 0x1B => one (rvOpImm32 f3 (rvImmI w))
  | 0x33 => two (rvOp (rvF7 w) f3)
  | 0x3B => two (rvOp32 (rvF7 w) f3 rs2)
  | 0x0F => if f3 = 0 then some .fence else none
  | 0x73 =>
    let n := (fld w 20 12).toNat
    let op := f3 % 4
    if w = 0x00000073 then some .ecall
    else if w = 0x00100073 then some .ebreak
    else if w = 0x10500073 then some .wfi
    else if op = 0 || !rvCsrs.contains n || (0xC00 ≤ n && !(op != 1 && rs1 == 0)) then none
    else some (.csr op rd n (if 4 ≤ f3 then .inr rs1 else .inl rs1))
  | 0x53 =>
    (rvOpFp (rvF7 w) f3 rs2).bind fun r =>
      let src (n : Nat) : Nat := if r.fromX then n else 32 + n
      if r.rounds && !rmAllowed f3 then none
      else some (.calc (if r.toX then rd else 32 + rd) (([rs1, rs2].take r.sources).map src) (if r.rounds then f3 else 0)
        fun m l => r.f m (l.headD 0) (l.getD 1 0))
  | 0x43 | 0x47 | 0x4B | 0x4F =>
    let k := [0, 2, 3, 1].getD ((fld w 2 2).toNat) 0
    if (fld w 25 2).toNat ≠ 0 || !rmAllowed f3 then none
    else some (.calc (32 + rd) [32 + rs1, 32 + rs2, 32 + (fld w 27 5).toNat] f3 fun m l =>
      let v (i : Nat) : Exact := fp32.value (f32Of (l.getD i 0))
      let r := fuseIn fp32 m k (v 0) (v 1) (v 2)
      (BitVec.ofNat 64 r.1, r.2))
  | _ => none

end Sys2Proof.Machine
end

