-- ==== Sys2Proof/Machine/RvVector.lean ====
section
/-! DEFINITION. The vector part of the Cigon form (19_cigon R461): Zve32f of the vector extension 1.0 with VLEN 2048, Zvfh and Zvfbfmin, as
the RISC-V specifications give them (log 57). What they leave open is a free value of Config. -/

namespace Sys2Proof.Machine

/-! ### vtype (log 57) -/

/-- LMUL in eighths of a register. -/
def lmulEighths (t : BitVec 8) : Nat := [8, 16, 32, 64, 0, 1, 2, 4].getD (t.toNat % 8) 0

/-- SEW in bits. -/
def sewOf (t : BitVec 8) : Nat := 8 * 2 ^ (t.toNat / 8 % 8)

/-- VLMAX. -/
def vlMax (t : BitVec 8) : Nat := 256 * lmulEighths t / sewOf t

/-- The vtype of a value that a vset instruction asks for, none where it sets vill: a fractional LMUL serves SEW up to LMUL times 32. -/
def vtypeOf (v : Nat) : Option (BitVec 8) :=
  let t := BitVec.ofNat 8 v
  if v < 256 && lmulEighths t ≠ 0 && sewOf t ≤ 32 && (8 ≤ lmulEighths t || sewOf t ≤ 4 * lmulEighths t) then some t else none

/-- vtype as its CSR reads. -/
def Cigon.vtypeCsr (g : Cigon) : Word64 := match g.vtype with | some t => t.setWidth 64 | none => BitVec.twoPow 64 63

/-- The vl for an AVL. -/
def vlFor (avl n : Nat) : Nat :=
  if avl ≤ n then avl else if 2 * n ≤ avl then n else (avl + 1) / 2 + Config.vlBetween avl % (n - (avl + 1) / 2 + 1)

/-- A new vtype with the AVL it is set for, none keeping vl. -/
def Cigon.vset (g : Cigon) (t : Option (BitVec 8)) (avl : Option Nat) : Cigon :=
  { g with
    vtype := t, vstart := 0
    vl := match t with
      | none => 0
      | some t => match avl with | some n => vlFor n (vlMax t) | none => min g.vl (vlMax t) }

/-- What the RISC-V specifications call an illegal instruction, or reserve, by the values of vtype, vl and vstart (log 57). -/
def vectorIllegal : Trap := { cause := causeIllegalEncoding }

/-! ### Register groups -/

/-- A vector operand: first register, bits per element (1 for a mask), registers, and whether it fills its last register. -/
structure VGroup where
  reg : Nat
  eew : Nat
  n : Nat
  whole : Bool

/-- A group of elements of some width, none where its EMUL is out of range or its first register misaligned. -/
def vgroup (t : BitVec 8) (reg eew : Nat) : Option VGroup :=
  let have_ := lmulEighths t * eew
  let n := max 1 (have_ / (8 * sewOf t))
  if have_ < sewOf t || 64 * sewOf t < have_ || reg % n ≠ 0 then none else some ⟨reg, eew, n, decide (8 * sewOf t ≤ have_)⟩

/-- A mask, or the one element of a scalar. -/
def vsingle (reg eew : Nat) : VGroup := ⟨reg, eew, 1, true⟩

def VGroup.meets (a b : VGroup) : Bool := decide (a.reg < b.reg + b.n) && decide (b.reg < a.reg + a.n)

/-- Whether a destination may overlap a source: of one width; the lowest part of a wider source; the highest of a wider destination. -/
def VGroup.mayCover (d s : VGroup) : Bool :=
  !d.meets s || d.eew == s.eew || (d.eew < s.eew && d.reg == s.reg) || (s.eew < d.eew && s.whole && d.reg + d.n == s.reg + s.n)

/-- Whether the registers of an instruction may be as they are: destination, sources with the mask where it has one, and whether no
overlap at all is allowed. -/
def vlegal (d : VGroup) (sources : List VGroup) (apart : Bool) : Bool :=
  sources.all (fun s => if apart then !d.meets s else d.mayCover s) &&
    sources.all fun a => sources.all fun b => !a.meets b || a.eew == b.eew

/-! ### Elements -/

/-- Element i of a group. -/
def Cigon.elem (g : Cigon) (reg w i : Nat) : Nat := elemAt w (g.v.getD (reg + i * w / 2048) 0).toNat (i % (2048 / w))

/-- Bit i of a mask. -/
def Cigon.maskBit (g : Cigon) (reg i : Nat) : Bool := (g.v.getD reg 0).getLsbD i

/-- Replaces elements of registers from one on: f by index, none keeping what is there. -/
def Cigon.replace (g : Cigon) (reg n w : Nat) (f : Nat → Option Nat) : Cigon :=
  { g with v := (List.range n).foldl (fun v r =>
      let k := 2048 / w
      v.set (reg + r) (BitVec.ofNat 2048 (packElems w ((List.range k).map fun j => (f (r * k + j)).getD (g.elem (reg + r) w j)))) 0) g.v }

/-- An agnostic element of the n-th vector instruction: ones or kept. -/
def agnostic (w n i : Nat) : Option Nat := if Config.agnosticOnes n i then some (2 ^ w - 1) else none

/-- An agnostic bit of a mask result: whatever. -/
def agnosticBit (n i : Nat) : Option Nat :=
  if Config.agnosticOnes n (2 * i) then some (if Config.agnosticOnes n (2 * i + 1) then 1 else 0) else none

/-- The elements of a result: the body from vstart and first to vl by f, inactive ones by the mask policy, then the tail by the tail policy;
nothing at all where vstart has reached vl. -/
def Cigon.writeGroup (g : Cigon) (t : BitVec 8) (n : Nat) (d : VGroup) (active : Nat → Bool) (f : Nat → Nat) (first : Nat := 0) : Cigon :=
  if g.vl ≤ g.vstart then { g with vstart := 0 }
  else
    { g.replace d.reg d.n d.eew (fun i =>
        if i < max first g.vstart && i < g.vl then none
        else if i < g.vl then (if active i then some (f i) else if t.getLsbD 7 then agnostic d.eew n i else none)
        else if t.getLsbD 6 then agnostic d.eew n i else none) with vstart := 0 }

/-- The bits of a mask result, whose tail is agnostic. -/
def Cigon.writeMask (g : Cigon) (t : BitVec 8) (n reg : Nat) (active f : Nat → Bool) : Cigon :=
  if g.vl ≤ g.vstart then { g with vstart := 0 }
  else
    { g.replace reg 1 1 (fun i =>
        if i < g.vstart then none
        else if i < g.vl then (if active i then some (if f i then 1 else 0) else if t.getLsbD 7 then agnostic 1 n i else none)
        else agnosticBit n i) with vstart := 0 }

/-- A scalar result in element 0, the rest of its register tail. -/
def Cigon.writeScalar (g : Cigon) (t : BitVec 8) (n reg w x : Nat) : Cigon :=
  if g.vl ≤ g.vstart then { g with vstart := 0 }
  else
    { g.replace reg 1 w (fun i => if i = 0 then some x else if t.getLsbD 6 then agnostic w n i else none) with vstart := 0 }

/-! ### What an arithmetic instruction computes -/

/-- The fields of an OP-V instruction. -/
structure VWord where
  f3 : Nat
  f6 : Nat
  vm : Bool
  vs2 : Nat
  vs1 : Nat
  vd : Nat

def vwordOf (w : Word32) : VWord := ⟨rvF3 w, (fld w 26 6).toNat, bit w 25, rvRs2 w, rvRs1 w, rvRd w⟩

/-- One element as an operation finds it: SEW, mode of Table 5.3, vxrm, the old destination, the elements of vs2 and of the second
operand, and the bit of v0. -/
structure Lane where
  w : Nat
  mode : Nat
  xrm : Nat
  d : Nat
  a : Nat
  b : Nat
  m : Bool

/-- A result element, whether it saturated, and flags of FLAGS_V. -/
abbrev LaneOut := Nat × Bool × Nat

/-- The shapes of arithmetic instructions. Widths of destination, vs2 and second operand are functions of SEW; serves says for which SEW
the instruction is defined; mask says that v0 is data for all elements. -/
inductive VKind where
  | lanes (dw aw bw : Nat → Nat) (two mask : Bool) (serves : Nat → Bool) (f : Lane → LaneOut)
  | bits (two mask : Bool) (serves : Nat → Bool) (f : Lane → Bool)
  | reduce (wide : Bool) (serves : Nat → Bool) (f : Lane → LaneOut)
  | sumUnordered (wide : Bool)
  | slide (up : Bool)
  | slideOne (up : Bool)
  | gather (wide : Bool)
  | compress
  | wholeMove (n : Nat)
  | toX | fromX | toF | fromF
  | popCount | firstSet
  | maskLogic (f : Bool → Bool → Bool)
  | maskFirst (before at_ : Bool)
  | iota | index

/-- Rounding by vxrm: v over 2^d. -/
def roundoff (xrm : Nat) (v : Int) (d : Nat) : Int :=
  let q := v / 2 ^ d
  let r := (v % 2 ^ d).toNat
  if r = 0 then q
  else
    match xrm with
    | 0 => if 2 ^ d ≤ 2 * r then q + 1 else q
    | 1 => if 2 ^ d < 2 * r || (2 * r == 2 ^ d && q % 2 == 1) then q + 1 else q
    | 2 => q
    | _ => if q % 2 = 0 then q + 1 else q

/-- Any SEW. -/
def anySew (_ : Nat) : Bool := true

/-- SEW with elements twice as wide. -/
def narrowSew (w : Nat) : Bool := w < 32

/-- An integer operation on elements of SEW; results wrap. -/
def intLanes (f : Lane → Int) : VKind := .lanes id id id true false anySew fun l => (wrapTo l.w (f l), false, 0)

/-- The same on signed operands. -/
def signedLanes (f : Nat → Int → Int → Int) : VKind := intLanes fun l => f l.w (signed l.w l.a) (signed l.w l.b)

/-- A result clamped to the range of w bits, which sets vxsat. -/
def clampOut (isSigned : Bool) (w : Nat) (v : Int) : LaneOut :=
  let r := if isSigned then satRange v (-(2 ^ (w - 1))) (2 ^ (w - 1) - 1) else satRange v 0 (2 ^ w - 1)
  (wrapTo w r.1, r.2, 0)

def clampLanes (isSigned : Bool) (aw : Nat → Nat) (f : Lane → Int) : VKind :=
  .lanes id aw id true false (fun w => aw w ≤ 32) fun l => clampOut isSigned l.w (f l)

/-- A widening integer operation. -/
def wideLanes (aw : Nat → Nat) (f : Lane → Int) : VKind :=
  .lanes (2 * ·) aw id true false narrowSew fun l => (wrapTo (2 * l.w) (f l), false, 0)

/-- A compare of elements. -/
def compareBits (f : Lane → Bool) : VKind := .bits true false anySew f

/-- A compare of signed elements. -/
def compareSigned (f : Int → Int → Bool) : VKind := compareBits fun l => f (signed l.w l.a) (signed l.w l.b)

/-- OPIVV, OPIVX and OPIVI: the forms (1 VV, 2 VX, 4 VI) and the shape. -/
def vOpi (o : VWord) : Option (Nat × VKind) :=
  let carryIn (l : Lane) : Int := if !o.vm && l.m then 1 else 0
  match o.f6 with
  | 0x00 => some (7, intLanes fun l => l.a + l.b)
  | 0x02 => some (3, intLanes fun l => (l.a : Int) - l.b)
  | 0x03 => some (6, intLanes fun l => (l.b : Int) - l.a)
  | 0x04 => some (3, intLanes fun l => (Nat.min l.a l.b : Nat))
  | 0x05 => some (3, signedLanes fun _ a b => min a b)
  | 0x06 => some (3, intLanes fun l => (Nat.max l.a l.b : Nat))
  | 0x07 => some (3, signedLanes fun _ a b => max a b)
  | 0x09 => some (7, intLanes fun l => (l.a &&& l.b : Nat))
  | 0x0A => some (7, intLanes fun l => (l.a ||| l.b : Nat))
  | 0x0B => some (7, intLanes fun l => (l.a ^^^ l.b : Nat))
  | 0x0C => some (7, .gather false)
  | 0x0E => if o.f3 = 0 then some (1, .gather true) else some (6, .slide true)
  | 0x0F => some (6, .slide false)
  | 0x10 => if o.vm then none else some (7, .lanes id id id true true anySew fun l => (wrapTo l.w (l.a + l.b + carryIn l), false, 0))
  | 0x11 => some (7, .bits true true anySew fun l => decide ((2 ^ l.w : Int) ≤ l.a + l.b + carryIn l))
  | 0x12 => if o.vm then none else some (3, .lanes id id id true true anySew fun l => (wrapTo l.w ((l.a : Int) - l.b - carryIn l), false, 0))
  | 0x13 => some (3, .bits true true anySew fun l => decide ((l.a : Int) < l.b + carryIn l))
  | 0x17 =>
    if o.vm && o.vs2 ≠ 0 then none
    else some (7, .lanes id id id true true anySew fun l => (if o.vm || l.m then l.b else l.a, false, 0))
  | 0x18 => some (7, compareBits fun l => l.a == l.b)
  | 0x19 => some (7, compareBits fun l => l.a != l.b)
  | 0x1A => some (3, compareBits fun l => l.a < l.b)
  | 0x1B => some (3, compareSigned fun a b => a < b)
  | 0x1C => some (7, compareBits fun l => l.a ≤ l.b)
  | 0x1D => some (7, compareSigned fun a b => a ≤ b)
  | 0x1E => some (6, compareBits fun l => l.b < l.a)
  | 0x1F => some (6, compareSigned fun a b => b < a)
  | 0x20 => some (7, clampLanes false id fun l => l.a + l.b)
  | 0x21 => some (7, clampLanes true id fun l => signed l.w l.a + signed l.w l.b)
  | 0x22 => some (3, clampLanes false id fun l => (l.a : Int) - l.b)
  | 0x23 => some (3, clampLanes true id fun l => signed l.w l.a - signed l.w l.b)
  | 0x25 => some (7, intLanes fun l => (l.a <<< (l.b % l.w) : Nat))
  | 0x27 =>
    if o.f3 = 3 then (if o.vm && [0, 1, 3, 7].contains o.vs1 then some (4, .wholeMove (o.vs1 + 1)) else none)
    else some (3, clampLanes true id fun l => roundoff l.xrm (signed l.w l.a * signed l.w l.b) (l.w - 1))
  | 0x28 => some (7, intLanes fun l => (l.a >>> (l.b % l.w) : Nat))
  | 0x29 => some (7, intLanes fun l => signed l.w l.a / 2 ^ (l.b % l.w))
  | 0x2A => some (7, intLanes fun l => roundoff l.xrm l.a (l.b % l.w))
  | 0x2B => some (7, intLanes fun l => roundoff l.xrm (signed l.w l.a) (l.b % l.w))
  | 0x2C => some (7, .lanes id (2 * ·) id true false narrowSew fun l => (l.a / 2 ^ (l.b % (2 * l.w)) % 2 ^ l.w, false, 0))
  | 0x2D => some (7, .lanes id (2 * ·) id true false narrowSew fun l =>
      (wrapTo l.w (signed (2 * l.w) l.a / 2 ^ (l.b % (2 * l.w))), false, 0))
  | 0x2E => some (7, clampLanes false (2 * ·) fun l => roundoff l.xrm l.a (l.b % (2 * l.w)))
  | 0x2F => some (7, clampLanes true (2 * ·) fun l => roundoff l.xrm (signed (2 * l.w) l.a) (l.b % (2 * l.w)))
  | 0x30 => some (1, .reduce true narrowSew fun l => (wrapTo (2 * l.w) (l.d + l.a), false, 0))
  | 0x31 => some (1, .reduce true narrowSew fun l => (wrapTo (2 * l.w) (l.d + signed l.w l.a), false, 0))
  | _ => none

/-- An integer reduction. -/
def intReduce (f : Lane → Int) : VKind := .reduce false anySew fun l => (wrapTo l.w (f l), false, 0)

/-- OPMVV and OPMVX. -/
def vOpm (o : VWord) : Option (Nat × VKind) :=
  let s (l : Lane) (x : Nat) : Int := signed l.w x
  let div (f : (w : Nat) → BitVec w → BitVec w → BitVec w) : VKind :=
    intLanes fun l => ((f l.w (BitVec.ofNat l.w l.a) (BitVec.ofNat l.w l.b)).toNat : Nat)
  let logic (f : Bool → Bool → Bool) : Option (Nat × VKind) := if o.vm then some (1, .maskLogic f) else none
  match o.f6 with
  | 0x00 => some (1, intReduce fun l => l.d + l.a)
  | 0x01 => some (1, intReduce fun l => (l.d &&& l.a : Nat))
  | 0x02 => some (1, intReduce fun l => (l.d ||| l.a : Nat))
  | 0x03 => some (1, intReduce fun l => (l.d ^^^ l.a : Nat))
  | 0x04 => some (1, intReduce fun l => (Nat.min l.d l.a : Nat))
  | 0x05 => some (1, intReduce fun l => min (s l l.d) (s l l.a))
  | 0x06 => some (1, intReduce fun l => (Nat.max l.d l.a : Nat))
  | 0x07 => some (1, intReduce fun l => max (s l l.d) (s l l.a))
  | 0x08 => some (3, intLanes fun l => roundoff l.xrm (l.a + l.b) 1)
  | 0x09 => some (3, intLanes fun l => roundoff l.xrm (s l l.a + s l l.b) 1)
  | 0x0A => some (3, intLanes fun l => roundoff l.xrm ((l.a : Int) - l.b) 1)
  | 0x0B => some (3, intLanes fun l => roundoff l.xrm (s l l.a - s l l.b) 1)
  | 0x0E => some (2, .slideOne true)
  | 0x0F => some (2, .slideOne false)
  | 0x10 =>
    if o.f3 = 6 then (if o.vm && o.vs2 = 0 then some (2, .fromX) else none)
    else
      (match o.vs1 with
        | 0 => if o.vm then some (1, .toX) else none
        | 16 => some (1, .popCount)
        | 17 => some (1, .firstSet)
        | _ => none)
  | 0x12 =>
    let k := 2 ^ (4 - o.vs1 / 2)
    if 2 ≤ o.vs1 && o.vs1 < 8 then
      some (1, .lanes id (· / k) id false false (fun w => 8 * k ≤ w) fun l =>
        (if o.vs1 % 2 = 1 then wrapTo l.w (signed (l.w / k) l.a) else l.a, false, 0))
    else none
  | 0x14 =>
    (match o.vs1 with
      | 1 => some (1, .maskFirst true false)
      | 2 => some (1, .maskFirst false true)
      | 3 => some (1, .maskFirst true true)
      | 16 => some (1, .iota)
      | 17 => if o.vs2 = 0 then some (1, .index) else none
      | _ => none)
  | 0x17 => if o.vm then some (1, .compress) else none
  | 0x18 => logic fun a b => a && !b
  | 0x19 => logic fun a b => a && b
  | 0x1A => logic fun a b => a || b
  | 0x1B => logic fun a b => a ^^ b
  | 0x1C => logic fun a b => a || !b
  | 0x1D => logic fun a b => !(a && b)
  | 0x1E => logic fun a b => !(a || b)
  | 0x1F => logic fun a b => !(a ^^ b)
  | 0x20 => some (3, div fun _ a b => (divUnsigned a b).1)
  | 0x21 => some (3, div fun _ a b => (divSigned a b).1)
  | 0x22 => some (3, div fun _ a b => (remUnsigned a b).1)
  | 0x23 => some (3, div fun _ a b => remSigned a b)
  | 0x24 => some (3, intLanes fun l => (l.a * l.b / 2 ^ l.w : Nat))
  | 0x25 => some (3, intLanes fun l => (l.a * l.b : Nat))
  | 0x26 => some (3, intLanes fun l => s l l.a * l.b / 2 ^ l.w)
  | 0x27 => some (3, intLanes fun l => s l l.a * s l l.b / 2 ^ l.w)
  | 0x29 => some (3, intLanes fun l => (l.b * l.d + l.a : Nat))
  | 0x2B => some (3, intLanes fun l => (l.a : Int) - (l.b * l.d : Nat))
  | 0x2D => some (3, intLanes fun l => (l.b * l.a + l.d : Nat))
  | 0x2F => some (3, intLanes fun l => (l.d : Int) - (l.b * l.a : Nat))
  | 0x30 => some (3, wideLanes id fun l => l.a + l.b)
  | 0x31 => some (3, wideLanes id fun l => s l l.a + s l l.b)
  | 0x32 => some (3, wideLanes id fun l => (l.a : Int) - l.b)
  | 0x33 => some (3, wideLanes id fun l => s l l.a - s l l.b)
  | 0x34 => some (3, wideLanes (2 * ·) fun l => l.a + l.b)
  | 0x35 => some (3, wideLanes (2 * ·) fun l => l.a + s l l.b)
  | 0x36 => some (3, wideLanes (2 * ·) fun l => (l.a : Int) - l.b)
  | 0x37 => some (3, wideLanes (2 * ·) fun l => l.a - s l l.b)
  | 0x38 => some (3, wideLanes id fun l => (l.a * l.b : Nat))
  | 0x3A => some (3, wideLanes id fun l => s l l.a * l.b)
  | 0x3B => some (3, wideLanes id fun l => s l l.a * s l l.b)
  | 0x3C => some (3, wideLanes id fun l => (l.d + l.a * l.b : Nat))
  | 0x3D => some (3, wideLanes id fun l => l.d + s l l.a * s l l.b)
  | 0x3E => some (2, wideLanes id fun l => l.d + s l l.a * l.b)
  | 0x3F => some (3, wideLanes id fun l => l.d + l.a * s l l.b)
  | _ => none

/-! ### Floating elements -/

/-- The format of elements of some width. -/
def vformat (w : Nat) : FloatFmt := if w = 16 then fp16 else fp32

/-- SEW with a floating format. -/
def floatSew (w : Nat) : Bool := w == 16 || w == 32

/-- The element that a register of 32 bits holds: one of 16 bits is NaN-boxed. -/
def unboxed (w : Nat) (a : Word64) : Nat :=
  if w = 16 then (if bitsOf a.toNat 16 16 = 0xFFFF then a.toNat % 2 ^ 16 else fp16.nan) else a.toNat % 2 ^ 32

/-- A floating operation on elements of SEW. -/
def floatLanes (two : Bool) (f : FloatFmt → Lane → Exact → Exact → Exact → Nat × Nat) : VKind :=
  .lanes id id id two false floatSew fun l =>
    let fm := vformat l.w
    let r := f fm l (fm.value l.a) (fm.value l.b) (fm.value l.d)
    (r.1, false, r.2)

/-- An operation on the codes of floating elements. -/
def codeLanes (two : Bool) (f : FloatFmt → Nat → Nat → Nat) : VKind :=
  .lanes id id id two false floatSew fun l => (f (vformat l.w) l.a l.b, false, 0)

/-- A widening floating operation, from 16 to 32 bits. -/
def wideFloat (aw : Nat → Nat) (f : Nat → Exact → Exact → Exact → Nat × Nat) : VKind :=
  .lanes (2 * ·) aw id true false (· == 16) fun l =>
    let r := f l.mode ((vformat (aw l.w)).value l.a) (fp16.value l.b) (fp32.value l.d)
    (r.1, false, r.2)

/-- A compare of floating elements. -/
def floatBits (f : Exact → Exact → Bool) : VKind := .bits true false floatSew fun l => f ((vformat l.w).value l.a) ((vformat l.w).value l.b)

/-- A floating reduction on elements of the destination's width. -/
def floatReduce (wide : Bool) (f : FloatFmt → Nat → Exact → Exact → Nat × Nat) : VKind :=
  .reduce wide (if wide then (· == 16) else floatSew) fun l =>
    let fm := vformat (if wide then 2 * l.w else l.w)
    let r := f fm l.mode (fm.value l.d) ((vformat l.w).value l.a)
    (r.1, false, r.2)

/-- The seven bits of 1 over a significand whose leading seven bits are given: that of the middle of their interval. -/
def recip7 (k : Nat) : Nat := (256 * (255 - 2 * k) + (257 + 2 * k)) / (2 * (257 + 2 * k))

/-- The seven bits of 1 over a square root, by the exponent's last bit and six bits of the significand. -/
def rsqrt7 (k : Nat) : Nat := ((4 * ((if 64 ≤ k then 512 else 256) * 16384) / (129 + 2 * (k % 64))).sqrt + 1) / 2 - 128

/-- Exponent and fraction of a nonzero magnitude, a subnormal one normalised. -/
def expFrac (f : FloatFmt) (mag : Nat) : Int × Nat :=
  let e := mag / 2 ^ f.frac
  let m := mag % 2 ^ f.frac
  if e ≠ 0 then ((e : Int), m)
  else
    let z := f.frac - 1 - Nat.log2 m
    (-(z : Int), m * 2 ^ (z + 1) % 2 ^ f.frac)

/-- VFREC7.V. -/
def vfrec7 (f : FloatFmt) (mode code : Nat) : Nat × Nat :=
  let neg := code.testBit (f.frac + f.exp)
  let mag := code % 2 ^ (f.frac + f.exp)
  let top := 2 ^ f.exp - 1
  if f.nanFrom ≤ mag then (f.nan, 0)
  else if f.inf = some mag then (f.sign neg, 0)
  else if mag = 0 then (f.sign neg + f.inf.getD 0, flagDivByZero)
  else
    let x := expFrac f mag
    let out : Int := 2 * (2 ^ (f.exp - 1) - 1) - 1 - x.1
    let sig := recip7 (x.2 / 2 ^ (f.frac - 7)) * 2 ^ (f.frac - 7)
    if (top : Int) ≤ out then
      (f.sign neg + (if mode = 1 || (mode = 3 && !neg) || (mode = 2 && neg) then f.largest else f.inf.getD 0), 0)
    else if 0 < out then (f.sign neg + out.toNat * 2 ^ f.frac + sig, 0)
    else (f.sign neg + (2 ^ f.frac + sig) / 2 ^ ((1 - out).toNat), 0)

/-- VFRSQRT7.V. -/
def vfrsqrt7 (f : FloatFmt) (code : Nat) : Nat × Nat :=
  let neg := code.testBit (f.frac + f.exp)
  let mag := code % 2 ^ (f.frac + f.exp)
  if f.nanFrom ≤ mag then (f.nan, 0)
  else if mag = 0 then (f.sign neg + f.inf.getD 0, flagDivByZero)
  else if neg then (f.nan, flagInvalid)
  else if f.inf = some mag then (0, 0)
  else
    let x := expFrac f mag
    let out : Int := (3 * (2 ^ (f.exp - 1) - 1) - 1 - x.1) / 2
    (out.toNat * 2 ^ f.frac + rsqrt7 ((x.1 % 2).toNat * 64 + x.2 / 2 ^ (f.frac - 6)) * 2 ^ (f.frac - 7), 0)

/-- Rounding to odd: toward zero, with the last bit set where that is inexact. -/
def roundOdd (f : FloatFmt) (x : Exact) : Nat :=
  let r := (roundTo f 1 x []).1
  if x.isNan || (f.value r).eq x then r else r ||| 1

/-- A conversion: widths, defined SEW, and the result from the source element under a mode. -/
def convert (dw aw : Nat → Nat) (serves : Nat → Bool) (f : Nat → Nat → Nat → Nat) : Option (Nat × VKind) :=
  some (1, .lanes dw aw id false false serves fun l => (f l.w l.mode l.a, false, 0))

/-- VFUNARY0: the conversions, by vs1. -/
def vConvert (k : Nat) : Option (Nat × VKind) :=
  let toInt (isSigned trunc : Bool) (n w mode a : Nat) : Nat := toInteger isSigned n (if trunc then 1 else mode) ((vformat w).value a)
  let ofInt (isSigned : Bool) (n w mode a : Nat) : Nat :=
    (roundTo (vformat w) mode (Exact.ofInt (if isSigned then signed n a else ((a % 2 ^ n : Nat) : Int))) []).1
  let between (f g : FloatFmt) (mode a : Nat) : Nat := (roundTo g mode (f.value a) []).1
  match k with
  | 0 | 1 | 6 | 7 => convert id id floatSew fun w m a => toInt (k % 2 == 1) (decide (6 ≤ k)) w w m a
  | 2 | 3 => convert id id floatSew fun w m a => ofInt (k % 2 == 1) w w m a
  | 8 | 9 | 14 | 15 => convert (2 * ·) id (· == 16) fun w m a => toInt (k % 2 == 1) (decide (14 ≤ k)) (2 * w) w m a
  | 10 | 11 => convert (2 * ·) id narrowSew fun w m a => ofInt (k % 2 == 1) w (2 * w) m a
  | 12 => convert (2 * ·) id (· == 16) fun _ m a => between fp16 fp32 m a
  | 13 => convert (2 * ·) id (· == 16) fun _ m a => between bf16 fp32 m a
  | 16 | 17 | 22 | 23 => convert id (2 * ·) narrowSew fun w m a => toInt (k % 2 == 1) (decide (22 ≤ k)) w (2 * w) m a
  | 18 | 19 => convert id (2 * ·) (· == 16) fun w m a => ofInt (k % 2 == 1) (2 * w) w m a
  | 20 => convert id (2 * ·) (· == 16) fun _ m a => between fp32 fp16 m a
  | 21 => convert id (2 * ·) (· == 16) fun _ _ a => roundOdd fp16 (fp32.value a)
  | 29 => convert id (2 * ·) (· == 16) fun _ m a => between fp32 bf16 m a
  | _ => none

/-- OPFVV and OPFVF. -/
def vOpf (o : VWord) : Option (Nat × VKind) :=
  let add (f : FloatFmt) (m : Nat) (x y : Exact) : Nat × Nat := roundTo f m (Exact.add m x y) [x, y]
  let merge : VKind := .lanes id id id true true floatSew fun l => (if o.vm || l.m then l.b else l.a, false, 0)
  match o.f6 with
  | 0x00 => some (3, floatLanes true fun f l x y _ => add f l.mode x y)
  | 0x01 => some (1, .sumUnordered false)
  | 0x02 => some (3, floatLanes true fun f l x y _ => add f l.mode x y.neg)
  | 0x03 => some (1, floatReduce false add)
  | 0x04 => some (3, floatLanes true fun f _ x y _ => leastIn f false x y)
  | 0x05 => some (1, floatReduce false fun f _ x y => leastIn f false x y)
  | 0x06 => some (3, floatLanes true fun f _ x y _ => leastIn f true x y)
  | 0x07 => some (1, floatReduce false fun f _ x y => leastIn f true x y)
  | 0x08 => some (3, codeLanes true fun f a b => signIn f 0 a b)
  | 0x09 => some (3, codeLanes true fun f a b => signIn f 1 a b)
  | 0x0A => some (3, codeLanes true fun f a b => signIn f 2 a b)
  | 0x0E => some (2, .slideOne true)
  | 0x0F => some (2, .slideOne false)
  | 0x10 =>
    if !o.vm then none
    else if o.f3 = 5 then (if o.vs2 = 0 then some (2, .fromF) else none)
    else if o.vs1 = 0 then some (1, .toF) else none
  | 0x12 => vConvert o.vs1
  | 0x13 =>
    (match o.vs1 with
      | 0 => some (1, floatLanes false fun f l x _ _ => roundTo f l.mode x.sqrt [x])
      | 4 => some (1, floatLanes false fun f l _ _ _ => vfrsqrt7 f l.a)
      | 5 => some (1, floatLanes false fun f l _ _ _ => vfrec7 f l.mode l.a)
      | 16 => some (1, codeLanes false fun f a _ => classIn f a)
      | _ => none)
  | 0x17 => if o.vm && o.vs2 ≠ 0 then none else some (2, merge)
  | 0x18 => some (3, floatBits fun x y => x.eq y)
  | 0x19 => some (3, floatBits fun x y => x.lt y || x.eq y)
  | 0x1B => some (3, floatBits fun x y => x.lt y)
  | 0x1C => some (3, floatBits fun x y => !x.eq y)
  | 0x1D => some (2, floatBits fun x y => y.lt x)
  | 0x1F => some (2, floatBits fun x y => y.lt x || x.eq y)
  | 0x20 => some (3, floatLanes true fun f l x y _ => divideIn f l.mode x y)
  | 0x21 => some (2, floatLanes true fun f l x y _ => divideIn f l.mode y x)
  | 0x24 => some (3, floatLanes true fun f l x y _ => roundTo f l.mode (x.mul y) [x, y])
  | 0x27 => some (2, floatLanes true fun f l x y _ => add f l.mode y x.neg)
  | 0x28 | 0x29 | 0x2A | 0x2B => some (3, floatLanes true fun f l x y z => fuseIn f l.mode (o.f6 % 4) y z x)
  | 0x2C | 0x2D | 0x2E | 0x2F => some (3, floatLanes true fun f l x y z => fuseIn f l.mode (o.f6 % 4) y x z)
  | 0x30 => some (3, wideFloat id fun m x y _ => add fp32 m x y)
  | 0x31 => some (1, .sumUnordered true)
  | 0x32 => some (3, wideFloat id fun m x y _ => add fp32 m x y.neg)
  | 0x33 => some (1, floatReduce true add)
  | 0x34 => some (3, wideFloat (2 * ·) fun m x y _ => add fp32 m x y)
  | 0x36 => some (3, wideFloat (2 * ·) fun m x y _ => add fp32 m x y.neg)
  | 0x38 => some (3, wideFloat id fun m x y _ => roundTo fp32 m (x.mul y) [x, y])
  | 0x3C | 0x3D | 0x3E | 0x3F => some (3, wideFloat id fun m x y z => fuseIn fp32 m (o.f6 % 4) y x z)
  | _ => none

/-- Whether a vector instruction is reserved whatever vtype holds (R461): a whole-register move of misaligned registers, operands that may not
be one register, a masked instruction with its mask among its data, and one that no SEW serves. -/
def VWord.reserved (o : VWord) (k : VKind) : Bool :=
  let vector := o.f3 < 3
  let sews := [8, 16, 32]
  let zero (two : Bool) : Bool := !o.vm && (o.vs2 == 0 || (two && o.vs1 == 0))
  match k with
  | .lanes dw aw bw two _ serves _ =>
    let two := two && vector
    zero two || sews.all fun w => !serves w || (o.vd == o.vs2 && decide (aw w < dw w)) ||
      (two && ((o.vd == o.vs1 && decide (bw w < dw w)) || (o.vs1 == o.vs2 && aw w != bw w)))
  | .bits two _ serves _ => zero (two && vector) || sews.all fun w => !serves w
  | .reduce wide serves _ => zero true || (wide && o.vs1 == o.vs2) || sews.all fun w => !serves w
  | .sumUnordered wide => zero true || (wide && o.vs1 == o.vs2)
  | .slide up | .slideOne up => zero false || (up && o.vd == o.vs2)
  | .gather _ => zero vector || o.vd == o.vs2 || (vector && o.vd == o.vs1)
  | .compress => o.vd == o.vs2 || o.vd == o.vs1 || o.vs1 == o.vs2
  | .wholeMove n => o.vd % n != 0 || o.vs2 % n != 0
  | .maskFirst _ _ | .iota => o.vd == o.vs2
  | .toX | .fromX | .toF | .fromF | .popCount | .firstSet | .maskLogic _ | .index => false

/-- The shape of an OP-V instruction that is no vset; none for what is refused. -/
def vkindOf (o : VWord) : Option VKind :=
  let form (f3 vv vx vi : Nat) : Nat := if f3 = vv then 1 else if f3 = vx then 2 else if f3 = vi then 4 else 0
  let pick (r : Option (Nat × VKind)) (form : Nat) : Option VKind := (r.filter fun x => x.1 &&& form != 0).map (·.2)
  let masked := !o.vm && o.vd == 0
  let k :=
    if o.f3 = 0 || o.f3 = 3 || o.f3 = 4 then pick (vOpi o) (form o.f3 0 4 3)
    else if o.f3 = 2 || o.f3 = 6 then pick (vOpm o) (form o.f3 2 6 9)
    else pick (vOpf o) (form o.f3 1 5 9)
  -- A masked result may not lie over its mask, unless it is a mask itself or a scalar.
  k.filter fun k => !o.reserved k && (!masked || (match k with
    | .bits _ _ _ _ | .reduce _ _ _ | .sumUnordered _ | .popCount | .firstSet => true
    | _ => false))

/-! ### The effect of an arithmetic instruction -/

/-- What a vector instruction does beside its vector registers: an x or f register written, whether vxsat is set, flags of FLAGS_V. -/
structure VDone where
  g : Cigon
  x : Option (Nat × Word64) := none
  sat : Bool := false
  flags : Nat := 0

/-- The second operand of an instruction as a scalar of w bits: an x register, an f register or the signed immediate. -/
def scalarOperand (o : VWord) (reg : Nat → Word64) (w : Nat) : Nat :=
  if o.f3 = 5 then unboxed w (reg (32 + o.vs1))
  else if o.f3 = 3 then wrapTo w (signed 5 o.vs1)
  else (reg o.vs1).toNat % 2 ^ w

/-- The same as an offset or index: XLEN bits, the immediate unsigned. -/
def offsetOperand (o : VWord) (reg : Nat → Word64) : Nat := if o.f3 = 3 then o.vs1 else (reg o.vs1).toNat

/-- Whether the second operand is a vector. -/
def VWord.vector (o : VWord) : Bool := o.f3 < 3

/-- Combines terms pairwise in a free order until one is left. -/
def sumFree (f : FloatFmt) (mode n : Nat) : Nat → List (Nat × Nat) → Nat × Nat
  | k + 1, x :: y :: r =>
    let l := x :: y :: r
    let i := Config.sumOrder n (2 * k) % l.length
    let l' := l.eraseIdx i
    let j := Config.sumOrder n (2 * k + 1) % l'.length
    let a := l.getD i (0, 0)
    let b := l'.getD j (0, 0)
    let v := roundTo f mode (Exact.add mode (f.value a.1) (f.value b.1)) [f.value a.1, f.value b.1]
    sumFree f mode n k ((v.1, v.2 ||| a.2 ||| b.2) :: l'.eraseIdx j)
  | _, l => l.headD (0, 0)

/-- The effect of a vector arithmetic instruction, the n-th of its machine, under a mode of Table 5.3; reg reads the scalar registers. -/
def Cigon.vector (g : Cigon) (n mode : Nat) (reg : Nat → Word64) (o : VWord) (k : VKind) : Except Trap VDone :=
  match g.vtype with
  | none => .error vectorIllegal
  | some t =>
    let w := sewOf t
    let active (i : Nat) : Bool := o.vm || g.maskBit 0 i
    let body := (List.range (g.vl - g.vstart)).map (g.vstart + ·)
    let mask : List VGroup := if o.vm then [] else [vsingle 0 1]
    let lane (aw bw dw i : Nat) : Lane :=
      { w := w, mode := mode, xrm := g.vxrm.toNat, d := g.elem o.vd dw i, a := g.elem o.vs2 aw i
        b := if o.vector then g.elem o.vs1 bw i else scalarOperand o reg bw, m := g.maskBit 0 i }
    let need (b : Bool) (r : VDone) : Except Trap VDone := if b then .ok r else .error vectorIllegal
    let group (r e : Nat) : Option VGroup := vgroup t r e
    let second (two : Bool) (e : Nat) : Option (List VGroup) := if two && o.vector then (group o.vs1 e).map ([·]) else some []
    match k with
    | .lanes dw aw bw two all serves f =>
      (match group o.vd (dw w), group o.vs2 (aw w), second two (bw w) with
      | some d, some a, some b =>
        let on (i : Nat) : Bool := all || active i
        let out := body.map fun i => if on i then f (lane (aw w) (bw w) (dw w) i) else (0, false, 0)
        need (serves w && vlegal d (a :: b ++ mask) false && (o.vm || o.vd ≠ 0))
          { g := g.writeGroup t n d on fun i => (out.getD (i - g.vstart) (0, false, 0)).1
            sat := out.any fun x => x.2.1, flags := out.foldl (fun r x => r ||| x.2.2) 0 }
      | _, _, _ => .error vectorIllegal)
    | .bits two all serves f =>
      (match group o.vs2 w, second two w with
      | some a, some b =>
        need (serves w && vlegal (vsingle o.vd 1) (a :: b) false && vlegal (vsingle 32 1) (a :: b ++ mask) false)
          { g := g.writeMask t n o.vd (fun i => all || active i) fun i => f (lane w w w i) }
      | _, _ => .error vectorIllegal)
    | .reduce wide serves f =>
      (match group o.vs2 w with
      | some a =>
        let dw := if wide then 2 * w else w
        let on := (List.range g.vl).filter active
        let r := on.foldl (fun (r : LaneOut) i =>
          let x := f { lane w w dw i with d := r.1 }
          (x.1, false, r.2.2 ||| x.2.2)) (g.elem o.vs1 dw 0, false, 0)
        need (serves w && g.vstart == 0 && vlegal (vsingle 32 1) (a :: vsingle o.vs1 dw :: mask) false)
          { g := g.writeScalar t n o.vd dw r.1, flags := if g.vl = 0 then 0 else r.2.2 }
      | none => .error vectorIllegal)
    | .sumUnordered wide =>
      (match group o.vs2 w with
      | some a =>
        let dw := if wide then 2 * w else w
        let fm := vformat dw
        let term (i : Nat) : Nat × Nat := (if wide then (roundTo fp32 0 (fp16.value (g.elem o.vs2 16 i)) []).1 else g.elem o.vs2 w i, 0)
        let terms := (g.elem o.vs1 dw 0, 0) :: ((List.range g.vl).filter active).map term
        let r := sumFree fm mode n terms.length terms
        need ((if wide then w == 16 else floatSew w) && g.vstart == 0 && vlegal (vsingle 32 1) (a :: vsingle o.vs1 dw :: mask) false)
          { g := g.writeScalar t n o.vd dw r.1, flags := if g.vl = 0 then 0 else r.2 }
      | none => .error vectorIllegal)
    | .slide up =>
      (match group o.vd w, group o.vs2 w with
      | some d, some a =>
        let off := offsetOperand o reg
        need (vlegal d (a :: mask) up && (o.vm || o.vd ≠ 0))
          { g := if up then g.writeGroup t n d active (fun i => g.elem o.vs2 w (i - off)) off
            else g.writeGroup t n d active fun i => if i + off < vlMax t then g.elem o.vs2 w (i + off) else 0 }
      | _, _ => .error vectorIllegal)
    | .slideOne up =>
      (match group o.vd w, group o.vs2 w with
      | some d, some a =>
        let x := scalarOperand o reg w
        need (vlegal d (a :: mask) up && (o.vm || o.vd ≠ 0) && (o.f3 != 5 || floatSew w))
          { g := g.writeGroup t n d active fun i =>
              if up then (if i = 0 then x else g.elem o.vs2 w (i - 1))
              else if i + 1 = g.vl then x else g.elem o.vs2 w (i + 1) }
      | _, _ => .error vectorIllegal)
    | .gather wide =>
      let iw := if wide then 16 else w
      (match group o.vd w, group o.vs2 w, second true iw with
      | some d, some a, some b =>
        let at_ (i : Nat) : Nat := if o.vector then g.elem o.vs1 iw i else offsetOperand o reg
        need (vlegal d (a :: b ++ mask) true && (o.vm || o.vd ≠ 0))
          { g := g.writeGroup t n d active fun i => if at_ i < vlMax t then g.elem o.vs2 w (at_ i) else 0 }
      | _, _, _ => .error vectorIllegal)
    | .compress =>
      (match group o.vd w, group o.vs2 w with
      | some d, some a =>
        let l := (List.range g.vl).filter (g.maskBit o.vs1)
        let r := { g with vl := l.length }.writeGroup t n d (fun _ => true) fun i => g.elem o.vs2 w (l.getD i 0)
        let r := if l.isEmpty && g.vl ≠ 0 then
            g.replace d.reg d.n w (fun i => if t.getLsbD 6 then agnostic w n i else none)
          else r
        need (g.vstart == 0 && vlegal d [a, vsingle o.vs1 1] true) { g := { r with vl := g.vl, vstart := 0 } }
      | _, _ => .error vectorIllegal)
    | .wholeMove m =>
      need (o.vd % m == 0 && o.vs2 % m == 0)
        { g := { g.replace o.vd m w (fun i => if i < g.vstart then none else some (g.elem o.vs2 w i)) with vstart := 0 } }
    | .toX => .ok { g := { g with vstart := 0 }, x := some (o.vd, BitVec.ofInt 64 (signed w (g.elem o.vs2 w 0))) }
    | .fromX => .ok { g := g.writeScalar t n o.vd w ((reg o.vs1).toNat % 2 ^ w) }
    | .toF =>
      let v := g.elem o.vs2 w 0
      need (floatSew w) { g := { g with vstart := 0 }, x := some (32 + o.vd, BitVec.ofNat 64 (if w = 16 then 0xFFFF0000 + v else v)) }
    | .fromF => need (floatSew w) { g := g.writeScalar t n o.vd w (unboxed w (reg (32 + o.vs1))) }
    | .popCount =>
      need (g.vstart == 0)
        { g := g, x := some (o.vd, BitVec.ofNat 64 ((List.range g.vl).filter fun i => active i && g.maskBit o.vs2 i).length) }
    | .firstSet =>
      need (g.vstart == 0)
        { g := g, x := some (o.vd, match (List.range g.vl).find? fun i => active i && g.maskBit o.vs2 i with
            | some i => BitVec.ofNat 64 i
            | none => BitVec.allOnes 64) }
    | .maskLogic f => .ok { g := g.writeMask t n o.vd (fun _ => true) fun i => f (g.maskBit o.vs2 i) (g.maskBit o.vs1 i) }
    | .maskFirst before at_ =>
      let first := ((List.range g.vl).find? fun i => active i && g.maskBit o.vs2 i).getD g.vl
      need (g.vstart == 0 && o.vd ≠ o.vs2 && (o.vm || o.vd ≠ 0))
        { g := g.writeMask t n o.vd active fun i => (before && decide (i < first)) || (at_ && i == first) }
    | .iota =>
      (match group o.vd w with
      | some d =>
        need (g.vstart == 0 && !d.meets (vsingle o.vs2 1) && (o.vm || o.vd ≠ 0))
          { g := g.writeGroup t n d active fun i => ((List.range i).filter fun j => active j && g.maskBit o.vs2 j).length }
      | none => .error vectorIllegal)
    | .index =>
      (match group o.vd w with
      | some d => need (o.vm || o.vd ≠ 0) { g := g.writeGroup t n d active fun i => i }
      | none => .error vectorIllegal)

/-! ### vset -/

/-- The vset instructions: the vtype asked for as a constant or a register, and the AVL as a constant or a register. -/
structure VSet where
  rd : Nat
  vtype : Nat ⊕ Nat
  avl : Nat ⊕ Nat

/-- The vset of an OP-V word of funct3 111; none where it is refused. -/
def vsetOf (w : Word32) : Option VSet :=
  if !bit w 31 then some ⟨rvRd w, .inl (fld w 20 11).toNat, .inr (rvRs1 w)⟩
  else if bit w 30 then some ⟨rvRd w, .inl (fld w 20 10).toNat, .inl (rvRs1 w)⟩
  else if rvF7 w = 0x40 then some ⟨rvRd w, .inr (rvRs2 w), .inr (rvRs1 w)⟩ else none

/-- The effect of a vset: an rs1 of x0 asks for VLMAX, or for the vl there is where rd is x0 too, which a VLMAX that changes makes
reserved. -/
def Cigon.vsetEffect (g : Cigon) (reg : Nat → Word64) (o : VSet) : Except Trap VDone :=
  let t := vtypeOf (match o.vtype with | .inl v => v | .inr r => (reg r).toNat)
  let keep := o.avl == .inr 0 && o.rd == 0
  let avl : Option Nat := match o.avl with
    | .inl n => some n
    | .inr r => if r ≠ 0 then some (reg r).toNat else if o.rd ≠ 0 then some (2 ^ 64) else none
  let g' := g.vset t avl
  if keep && (match g.vtype, t with | some a, some b => vlMax a != vlMax b | none, some _ => true | _, none => false) then
    .error vectorIllegal
  else .ok { g := g', x := some (o.rd, BitVec.ofNat 64 g'.vl) }

/-! ### Loads and stores -/

/-- A vector load or store: nf is the fields of a segment, or the registers of a whole move, width the EEW in bits of the encoding. -/
structure VMem where
  store : Bool
  mop : Nat
  kind : Nat
  nf : Nat
  vm : Bool
  rs1 : Nat
  rs2 : Nat
  width : Nat
  vd : Nat

/-- A vector load or store by its word; none for what is refused: EEW 64 and over, and the reserved forms. -/
def vmemOf (w : Word32) (store : Bool) : Option VMem :=
  let m : VMem :=
    { store := store, mop := (fld w 26 2).toNat, kind := rvRs2 w, nf := (fld w 29 3).toNat + 1, vm := bit w 25, rs1 := rvRs1 w, rs2 := rvRs2 w
      width := [8, 0, 0, 0, 0, 16, 32, 0].getD (rvF3 w) 0, vd := rvRd w }
  let unit := match m.kind with
    | 0 => true
    | 8 => m.vm && [1, 2, 4, 8].contains m.nf && m.vd % m.nf == 0 && (!store || m.width == 8)
    | 11 => m.vm && m.nf == 1 && m.width == 8
    | 16 => !store
    | _ => false
  let indexed := m.mop % 2 == 1
  let whole := m.mop == 0 && (m.kind == 8 || m.kind == 11)
  if m.width = 0 || bit w 28 || (m.mop = 0 && !unit) || (!m.vm && (m.vd = 0 || (indexed && m.rs2 == 0))) || (!whole && 32 < m.vd + m.nf) ||
      (!store && indexed && m.nf != 1 && m.vd ≤ m.rs2 && m.rs2 < m.vd + m.nf) then none
  else some m

/-- An element of an access: its index, the first register of its field's group, its bits, its address. -/
structure VPiece where
  i : Nat
  reg : Nat
  w : Nat
  addr : Word64

/-- The elements that a vector load or store accesses, in order, and for a load the groups written, their element count taken for vl, and
whether their tail is agnostic whatever vtype says. -/
structure VPlan where
  pieces : List VPiece
  groups : List VGroup
  count : Nat
  loose : Bool

/-- The plan of a vector load or store. -/
def Cigon.plan (g : Cigon) (reg : Nat → Word64) (m : VMem) : Except Trap VPlan :=
  let base := reg m.rs1
  let run (count w n : Nat) : List VPiece := ((List.range (count - g.vstart)).map (g.vstart + ·)).map fun i =>
    ⟨i, m.vd, w, base + BitVec.ofNat 64 (n * i)⟩
  if m.mop = 0 && m.kind = 8 then
    let count := m.nf * 2048 / m.width
    .ok ⟨run count m.width (m.width / 8), [⟨m.vd, m.width, m.nf, true⟩], count, false⟩
  else
    match g.vtype with
    | none => .error vectorIllegal
    | some t =>
      if m.mop = 0 && m.kind = 11 then
        let count := (g.vl + 7) / 8
        .ok ⟨run count 8 1, [vsingle m.vd 8], count, true⟩
      else
        let indexed := m.mop % 2 == 1
        let w := if indexed then sewOf t else m.width
        let index := if indexed then vgroup t m.rs2 m.width else some (vsingle 32 8)
        match vgroup t m.vd w, index with
        | some d, some x =>
          let fields := (List.range m.nf).map fun f => { d with reg := m.vd + f * d.n }
          let mask : List VGroup := if m.vm then [] else [vsingle 0 1]
          let ok := m.nf * d.n ≤ 8 && m.vd + m.nf * d.n ≤ 32 &&
            (m.store || fields.all fun f => vlegal f (mask ++ if indexed then [x] else []) (indexed && decide (1 < m.nf))) &&
            (!m.store || fields.all fun f => vlegal (vsingle 32 1) (f :: mask ++ if indexed then [x] else []) false)
          let start (i : Nat) : Word64 :=
            match m.mop with
            | 0 => base + BitVec.ofNat 64 (i * m.nf * w / 8)
            | 2 => base + BitVec.ofNat 64 i * reg m.rs2
            | _ => base + BitVec.ofNat 64 (g.elem m.rs2 m.width i)
          let on := ((List.range (g.vl - g.vstart)).map (g.vstart + ·)).filter fun i => m.vm || g.maskBit 0 i
          if ok then
            .ok ⟨on.flatMap fun i => fields.mapIdx fun f d => ⟨i, d.reg, w, start i + BitVec.ofNat 64 (f * w / 8)⟩, fields, g.vl, false⟩
          else .error vectorIllegal
        | _, _ => .error vectorIllegal

/-- The registers after a load of a plan's first elements, with their values; vl where a fault at a later element cuts it. -/
def Cigon.loaded (g : Cigon) (n : Nat) (m : VMem) (p : VPlan) (values : List (VPiece × Nat)) : Cigon :=
  let t := g.vtype.getD 0
  let get (d : VGroup) (i : Nat) : Option Nat := (values.find? fun x => x.1.i == i && x.1.reg == d.reg).map (·.2)
  if p.count ≤ g.vstart then { g with vstart := 0 }
  else
    let r := p.groups.foldl (fun (r : Cigon) d => r.replace d.reg d.n d.eew fun i =>
      if i < g.vstart then none
      else if i < p.count then
        (match get d i with
          | some v => some v
          | none => if t.getLsbD 7 && !m.vm then agnostic d.eew n i else none)
      else if p.loose || t.getLsbD 6 then agnostic d.eew n i else none) g
    { r with vstart := 0 }

/-! ### Instructions -/

/-- A vector instruction of the Cigon form. -/
inductive Rvv where
  | set (o : VSet)
  | memory (m : VMem)
  | arith (o : VWord) (k : VKind)

/-- The vector instructions by their words. -/
def rvVector (w : Word32) : Option Rvv :=
  match (fld w 0 7).toNat with
  | 0x57 => if rvF3 w = 7 then (vsetOf w).map .set else (vkindOf (vwordOf w)).map (.arith (vwordOf w))
  | 0x07 => (vmemOf w false).map .memory
  | 0x27 => (vmemOf w true).map .memory
  | _ => none

/-- The scalar registers that a vector instruction reads, as g registers. -/
def Rvv.sources : Rvv → List Nat
  | .set o => (match o.vtype with | .inr r => [r] | .inl _ => []) ++ (match o.avl with | .inr r => [r] | .inl _ => [])
  | .memory m => m.rs1 :: (if m.mop = 2 then [m.rs2] else [])
  | .arith o _ => if o.f3 = 4 || o.f3 = 6 then [o.vs1] else if o.f3 = 5 then [32 + o.vs1] else []

end Sys2Proof.Machine
end

