-- ==== Sys2Proof/Machine/Xglm.lean ====
section
/-! DEFINITION. The encodings of the Cigon form (19_cigon R461, R464, R466-R468): Xglm, Xglsync, the pairing of gl.ord and gl.eng with what
follows them, and what the translator refuses. -/

namespace Sys2Proof.Machine

/-- An instruction of the Cigon form. Registers are x registers. -/
inductive CigonCode where
  | scalar (i : Rv)
  | vector (i : Rvv)
  | wfmt (booth : Bool)
  | wswap
  | wload (k : BitVec 7) (bank plane type rs1 : Nat) (narrow : Bool)
  | push (row : BitVec 6) (first : Bool) (bank rs1 rd : Nat)
  | pushHandle (gather : Bool) (row : BitVec 6) (first adv : Bool) (bank rs1 : Nat)
  | accz (row : BitVec 6) (fp all : Bool)
  | shift (row : BitVec 6) (count : BitVec 3)
  | drain (row : BitVec 6) (scale out : Nat) (type : BitVec 4) (zero : Bool)
  | afmt (fmt : BitVec 2) (rs1 : Nat)
  | shape (rs1 rd : Nat)
  | phase (group : BitVec 4) (scope : BitVec 3)
  | fencex (mask : BitVec 7) (scope : BitVec 3)
  | order (release : Bool) (scope : BitVec 3)
  | wait (mask : BitVec 8)
  | slice (rd : Nat)
  | halt
  | replan
  | engine (slot : Nat) (scope : BitVec 3) (xa xb xc : Nat) (i : Instr)

/-- Xglm, custom-0 (Table 19.7). -/
def xglmOf (w : Word32) : Option CigonCode :=
  let f7 := fld w 25 7
  let f := rvRs2 w
  let rs1 := rvRs1 w
  let rd := rvRd w
  let row := fld w 25 6
  let top := bit w 31
  let when_ (ok : Bool) (i : CigonCode) : Option CigonCode := if ok then some i else none
  match rvF3 w with
  | 0 => when_ (f == 0 && rs1 == 0 && rd == 0 && f7.toNat < 3) (if f7 = 2 then .wswap else .wfmt (f7 == 1))
  | 1 => when_ (f < 24 && rd < 2) (.wload f7 (f % 2) (f / 2 % 4) ([8, 13, 5].getD (f / 8) 8) rs1 (rd == 1))
  | 2 =>
    (match f / 2 % 4 with
      | 0 => when_ (f < 8) (.push row top (f % 2) rs1 rd)
      | 3 => none
      | k => when_ (f < 16 && rd == 0) (.pushHandle (k == 2) row top (decide (8 ≤ f)) (f % 2) rs1))
  | 3 => when_ (f < 4 && rs1 == 0 && rd == 0 && !top && (f < 2 || row == 0)) (.accz row (f % 2 == 1) (decide (2 ≤ f)))
  | 4 => when_ (1 ≤ f && f < 4 && rs1 == 0 && rd == 0 && !top) (.shift row (BitVec.ofNat 3 f))
  | 5 => when_ (rd < 8) (.drain row f rs1 (BitVec.ofNat 4 rd) top)
  | 6 => when_ (f7.toNat < 3 && f == 0 && rd == 0) (.afmt (f7.setWidth 2) rs1)
  | _ => when_ (f7 == 0 && f == 0) (.shape rs1 rd)

/-- The literal of a gl.eng with its register fields filled by number (R468): [16:11] of the F-D forms that hold a register, ga and gb of
F-Q, the handles h0 and h1 of CPYB, p1 for the predicate of BARR and BWAIT; none where the literal or a field is refused. -/
def engineOf (slot : Nat) (xa xb xc : Nat) (literal : Word32) : Option Instr :=
  let op := (fld literal 26 6).toNat
  let at_ (n pos : Nat) : Word32 := BitVec.ofNat 32 n <<< pos
  let take (zero : Bool) (w : Word32) : Option Instr := if zero then (decode slot none w).toOption else none
  if slot = 5 then
    let register := (4 ≤ op && op ≤ 7) || op == 0x0A
    if 1 ≤ op && op ≤ 0x0A && xa = 0 && xb = 0 then
      take (if register then fld literal 11 6 == 0 else xc == 0) (literal ||| (if register then at_ xc 11 else 0))
    else none
  else
    let known := (0x08 ≤ op && op ≤ 0x0E) || (0x10 ≤ op && op ≤ 0x13) || (0x18 ≤ op && op ≤ 0x1C) || (0x20 ≤ op && op ≤ 0x26) ||
      (0x28 ≤ op && op ≤ 0x2E)
    let predicate := op == 0x19 || op == 0x1A
    let pair (n : Nat) : Bool := n % 2 == 0 && n != 0 && decide (n ≤ 30)
    if !known || (!predicate && xc ≠ 0) then none
    else if op = 0x09 then take (fld literal 20 6 == 0 && fld literal 10 4 == 0) (literal ||| at_ 1 10)
    else if op = 0x08 && fld literal 1 6 ≠ 0 then none
    else if op = 0x0C && !(pair xa && pair xb) then none
    else if predicate && fld literal 2 5 ≠ 0 then none
    else take (fld literal 20 6 == 0 && fld literal 14 6 == 0)
      (literal ||| at_ xa 20 ||| at_ xb 14 ||| (if predicate && xc ≠ 0 then at_ 1 2 else 0))

/-- Xglsync, custom-1 (Table 19.8), with the word after it, which gl.eng takes. -/
def xglsyncOf (w literal : Word32) : Option CigonCode :=
  let rs1 := rvRs1 w
  let rd := rvRd w
  let imm := fld w 20 12
  let plain := rs1 == 0 && rd == 0
  let scope (lo : Nat) : BitVec 3 := imm.extractLsb' lo 3
  let when_ (ok : Bool) (i : CigonCode) : Option CigonCode := if ok then some i else none
  match rvF3 w with
  | 0 => when_ (plain && imm.toNat < 128 && (scope 4).toNat < 6) (.phase (imm.setWidth 4) (scope 4))
  | 1 => when_ (plain && imm.toNat < 1024 && imm.setWidth 7 != 0 && (scope 7).toNat < 6) (.fencex (imm.setWidth 7) (scope 7))
  | 2 => when_ (plain && imm.toNat < 16 && (scope 1).toNat < 6) (.order (imm.getLsbD 0) (scope 1))
  | 3 => when_ (plain && imm.toNat < 256 && imm != 0) (.wait (imm.setWidth 8))
  | 4 => when_ (rs1 == 0 && imm == 0) (.slice rd)
  | 5 => when_ (plain && imm == 0) .halt
  | 6 => when_ (plain && imm == 0) .replan
  | _ =>
    let slot := (fld w 25 3).toNat
    if 2 ≤ slot || bit w 31 || 6 ≤ (fld w 28 3).toNat then none
    else (engineOf (5 + slot) rd rs1 (rvRs2 w) literal).map (.engine (5 + slot) (fld w 28 3) rd rs1 (rvRs2 w))

/-- Whether a word begins a gl.eng, whose literal is the next. -/
def isEngine (w : Word32) : Bool := fld w 0 7 == 0x2B && fld w 12 3 == 7

/-- An instruction by its word and the word after it; none for what the translator refuses (R461). -/
def cigonOf (w literal : Word32) : Option CigonCode :=
  match (fld w 0 7).toNat with
  | 0x0B => xglmOf w
  | 0x2B => xglsyncOf w literal
  | _ => match rvScalar w with
    | some i => some (.scalar i)
    | none => (rvVector w).map .vector

/-- The instructions of Cigon code in order, each with whether it is whole: a gl.eng takes the word after it. -/
def cigonLines : Nat → List Word32 → List (CigonLine × Bool)
  | _, [] => []
  | off, w :: rest =>
    if isEngine w then
      match rest with
      | l :: rest' => (⟨off, 0, w, l, none⟩, true) :: cigonLines (off + 8) rest'
      | [] => [(⟨off, 0, w, 0, none⟩, false)]
    else (⟨off, 0, w, 0, none⟩, true) :: cigonLines (off + 4) rest

/-- The gl.ord that an instruction is. -/
def CigonLine.orders (l : CigonLine) : Option (Bool × BitVec 3) :=
  match cigonOf l.word l.literal with
  | some (.order release scope) => some (release, scope)
  | _ => none

/-- Whether an instruction may follow a gl.ord: an RV64I load an acquire, an RV64I store a release (R467). -/
def CigonLine.follows (l : CigonLine) (release : Bool) : Bool :=
  match cigonOf l.word l.literal with
  | some (.scalar (.load _ rd _ _)) => !release && rd < 32
  | some (.scalar (.store _ rs2 _ _)) => release && rs2 < 32
  | _ => false

/-- The offsets that the translator refuses (R461, R467): instructions it does not take, and a gl.ord with another successor. -/
def cigonRefused (l : List (CigonLine × Bool)) : List Nat :=
  let next (i : Nat) : Option CigonLine := (l[i + 1]?).map (·.1)
  (l.mapIdx fun i x =>
    let bad := !x.2 || (cigonOf x.1.word x.1.literal).isNone || (match x.1.orders with
      | some (release, _) => !(next i).any (·.follows release)
      | none => false)
    if bad then [x.1.off] else []).flatten

/-- The address of the n-th bundle of a body, counted on from the first past its last. -/
def bundleAddr (origin : Nat) (starts : List Nat) (n : Nat) : Nat := origin + 4 * starts.getD (n % max 1 starts.length) 0

/-- The code with the annotation of each instruction and the bundle of the native body that stands for it. -/
def cigonTable (l : List CigonLine) (place : Nat → Nat) : List CigonLine :=
  l.mapIdx fun i x => { x with
    addr := place i
    order := if i = 0 then none else (l[i - 1]?).bind (·.orders) }

end Sys2Proof.Machine
end

