-- ==== Sys2Proof/Machine/CigonHead.lean ====
section
/-! DEFINITION. When the next instruction of a Cigon context may dispatch (19_cigon R462, R468, R470; log 58): the model runs the
instructions one after another, each once everything that the one before it writes has landed. -/

namespace Sys2Proof.Machine

/-- The object whose body a context runs. -/
def State.objectOf (s : State) (c : Ctx) : Option CodeObject := (s.launchOf c).bind fun l => s.hub.objects.find? l.object

/-- The instruction of a context's Cigon code at an offset. -/
def State.cigonLine (s : State) (c : Ctx) (off : Nat) : Option CigonLine := (s.objectOf c).bind fun o => o.cigon.find? fun l => l.off == off

/-- What that instruction is. -/
def CigonLine.code (l : CigonLine) : Option CigonCode := cigonOf l.word l.literal

/-- The paths on which an instruction has accesses that it makes as it dispatches, without a native syllable (R463). -/
def CigonCode.directPaths : CigonCode → BitVec 7
  | .vector (.memory _) => 2
  | .pushHandle _ _ _ _ _ _ | .engine _ _ _ _ _ (.cpyb _ _ _) => 1
  | _ => 0

/-- Whether an instruction waits for what its own conditions name: fences and earlier ST rows before a direct access (R96), the release of a
PHASE (R99), the beats of a drained row (R265), the minimums between the D commands of the context (R468). -/
def State.cigonWaits (s : State) (tile : Nat) (c : Ctx) (i : CigonCode) : Bool :=
  let paths := i.directPaths
  (paths != 0 && c.fences.any fun f => f.mask &&& paths != 0 && s.olderAccess tile c f.seq f.mask) ||
    (paths.getLsbD 1 && !c.outRows.isEmpty) ||
    (match i with
      | .phase _ scope => s.unpublished tile c c.seq scope.toNat
      | .drain row _ _ _ _ => c.recent.any fun r => r.2.1 == row.toNat && s.clock tile < r.1 + 8
      | .engine 5 _ _ _ _ d => (commandsOf (s.vault tile) c d).any fun x => !(brokenRows c.commands (s.clock tile) x.1 x.2).isEmpty
      | _ => false)

/-- Whether what the last instruction of a context writes has landed: results, a Sorrel reply, the predicate of a barrier. -/
def Ctx.cigonLanded (c : Ctx) (g : Cigon) (clock : Nat) : Bool :=
  decide (g.ready ≤ clock) && c.sf.isNone && c.writes.all (fun w => w.vis ≤ clock) &&
    (match g.owed with
      | .predicate _ => !c.pending.any fun p => p.seq + 1 == c.seq
      | _ => true)

end Sys2Proof.Machine
end

