-- ==== Sys2Proof/Machine/Issue.lean ====
section
/-! DEFINITION. Issue (03_execution R68-R76, 02_bundles R24-R36, R51-R53): the head bundle of a context, the choice of the
context that dispatches, dispatch itself, and the leaving of the slot queues. -/

namespace Sys2Proof.Machine

/-! ### STATUS (Table 7.7) -/

def csrStatus : Nat := 0x10

/-- A bit of STATUS, which only the C slot and the hardware write. -/
def Ctx.statusBit (c : Ctx) (n : Nat) : Bool := (c.regs.csr.getD csrStatus 0).getLsbD n

/-- Writes a bit of STATUS. -/
def Ctx.setStatus (c : Ctx) (n : Nat) (b : Bool) : Ctx :=
  { c with regs := { c.regs with csr := c.regs.csr.set csrStatus (setBit (c.regs.csr.getD csrStatus 0) n b) 0 } }

def Ctx.checkMode (c : Ctx) : Bool := c.statusBit 0
def Ctx.promiseTrap (c : Ctx) : Bool := c.statusBit 1
def Ctx.inHandler (c : Ctx) : Bool := c.statusBit 3
def Ctx.highPriority (c : Ctx) : Bool := c.statusBit 4

/-- The active-loop mask. -/
def Ctx.loops (c : Ctx) : BitVec 4 := ((c.regs.csr.getD csrStatus 0) >>> 8).setWidth 4

/-- RRB (CSR 0x011). -/
def Ctx.rrb (c : Ctx) : BitVec 5 := (c.regs.csr.getD 0x11 0).setWidth 5

/-! ### The head bundle -/

/-- A bundle as the fetch finds it: header, the word after it, op syllables, the address after its last. -/
structure Bundle where
  word : Word32
  lend : Word32
  ops : List (Nat × Option Byte × Word32)
  next : Nat

/-- The bundle at an address of a tile's code SRAM (R24). -/
def State.bundleAt (s : State) (tile addr : Nat) : Bundle :=
  let w := s.codeWord tile addr
  let n := bundleLength w
  let rest := (List.range (n - 1)).map fun k => s.codeWord tile (addr + 4 * (k + 1))
  { word := w, lend := rest.headD 0, ops := bundleOps w rest, next := addr + 4 * n }

/-- The stall count of a header (R27, R33). -/
def Bundle.stall (b : Bundle) : Nat := if (fld b.word 29 3).toNat = 1 then 0 else (headerOf b.word).stall.toNat

/-- The instructions of its syllables that decode, with their slots. -/
def Bundle.instrs (b : Bundle) : List (Nat × Instr) :=
  b.ops.filterMap fun o => match decode o.1 o.2.1 o.2.2 with
    | .ok i => some (o.1, i)
    | .error _ => none

/-- The C syllable. -/
def Bundle.control (b : Bundle) : Option Instr := (b.instrs.find? fun x => x.1 == 0).map (·.2)

/-- Whether the bundle dispatches as a sync bundle: its sync bit, or a redirect in the C slot (R30, R150). -/
def Bundle.sync (b : Bundle) : Bool :=
  (fld b.word 29 3).toNat != 1 && ((headerOf b.word).sync || (b.control.map isRedirect).getD false)

/-- The installed microcode entry of a slot and an extension opcode (R50): slot, opcode, image. -/
def State.microEntry (s : State) (c : Ctx) (slot : Nat) (op : BitVec 3) : Option (List Byte) :=
  if (s.launchOf c).any (·.trusted) then
    (s.hub.entries.find? fun e => e.1 == slot && e.2.1 == op.toNat).map fun e => e.2.2
  else none

/-- The first refusal of a bundle at dispatch, in slot order (R35, R219): slot, opcode or encoding, detail. A bundle that extends past
the code SRAM is refused for that, beyond its header (R25). -/
def State.refusal (s : State) (c : Ctx) (b : Bundle) : Option (Nat × Bool × Nat) :=
  match decodeHeader b.word b.lend with
  | .error (.encoding d) => some (7, false, d)
  | .error .opcode => some (7, true, 0)
  | .ok _ =>
    let outs := b.instrs.flatMap fun x => ((portsOf x.2).filter (8 ≤ ·)).map fun p => (p, x.1)
    let clash (slot : Nat) : Bool := outs.any fun x => x.2 == slot && outs.any fun y => y.1 == x.1 && y.2 < slot
    if 0x10000 < b.next then none
    else
      b.ops.findSome? fun o =>
        match decode o.1 o.2.1 o.2.2 with
        | .error .opcode => some (o.1, true, 0)
        | .error (.encoding d) => some (o.1, false, d)
        | .ok .eret => if c.inHandler then none else some (0, false, 0x0700)
        | .ok (.extensionOpcode op _) => if (s.microEntry c o.1 op).isSome then none else some (o.1, true, 0)
        | .ok _ => if clash o.1 then some (o.1, false, 0x0911) else none

/-! ### What a context waits for -/

/-- The oldest queued syllable. -/
def Ctx.oldest (c : Ctx) : Option Queued :=
  c.allQueued.foldl (fun b q => match b with
    | none => some q
    | some x => if q.seq < x.seq then some q else some x) none

/-- A wait behind another hold: the cycles of causes 0x3, 0x6 and 0xB count while their syllable is held, and a wait behind it is
the same loss: in Table 12.14 a hold of 553 cycles counts 553, with the waits at the slip limit behind it (R493; DEDUCED, log 25). -/
def behind (cause : Nat) : Nat := if [3, 6, 11].contains cause then 0 else cause

/-- The cause that holds the oldest queued syllable. -/
def Ctx.heldCause (c : Ctx) : Nat := (c.oldest.map (·.held)).getD 0

/-- The cause that holds a queued syllable, or that held the one ahead of it from which it keeps its distance (R74). -/
def Ctx.causeOf (c : Ctx) (q : Queued) : Nat :=
  if q.held != 0 then q.held
  else match Table.find? c.last q.slot with
    | some l => if q.disp < l.leave then l.held else 0
    | none => 0

/-- The cause of a cycle blocked at the slip limit (R73, R493): that of the syllable held or slipped behind a held one, else 0xC. -/
def Ctx.slipCause (c : Ctx) : Nat :=
  match c.oldest with
  | none => 12
  | some q => if q.held != 0 then behind q.held else if c.causeOf q = 0 then 12 else behind (c.causeOf q)

/-- A consumer's late producers (R51, R53): the cause that holds one whose result the consumer reads, none without one. -/
def Ctx.lateCause (c : Ctx) (clock disp seq : Nat) (regs : List Reg) (csrs : List Nat) : Option Nat :=
  (c.allQueued.findSome? fun q =>
    if seq ≤ q.seq then none
    else match decode q.slot q.lend q.word with
      | .ok i =>
        if ((writesOf q.rrb i).any fun w => regs.contains w.1 && q.disp + w.2 ≤ disp) ||
            ((csrWritesOf i).any fun w => csrs.contains w.1 && q.disp + w.2 ≤ disp) then some (behind (c.causeOf q))
        else none
      | .error _ => none).or
  (c.writes.findSome? fun w =>
    let named := regs.contains w.reg || (match w.reg with | .csr n => csrs.contains n | _ => false)
    if named && w.vis ≤ disp && clock < w.arrive then some (behind w.cause) else none)

/-- The CSRs that a syllable reads as the last syllables before it left them. -/
def csrReadsOf : Instr → List Nat
  | .csrr _ n | .csrw _ n => [n.toNat]
  | _ => []

/-- The deviation of any wait that needs tokens: 0x5 once one is past its promise (R162). -/
def State.promiseCause (s : State) (c : Ctx) (tokens : List Nat) : Nat :=
  if tokens.any fun t => (c.token t).promise != 0 && (c.token t).promise < s.cycle then 5 else 0

/-- The deviation of a bundle blocked on tokens: past a promise, or an outstanding translation miss (R162, R324). -/
def State.tokenCause (s : State) (c : Ctx) (tokens : List Nat) : Nat :=
  if s.promiseCause c tokens != 0 then 5
  else if tokens.any fun t => (c.token t).misses != 0 then 7 else 0

/-- The tokens of a mask. -/
def maskTokens (m : BitVec 8) : List Nat := (List.range 8).filter fun t => m.getLsbD t

/-- The tokens of a list that do not satisfy a wait yet. -/
def Ctx.waiting (c : Ctx) (clock : Nat) (l : List Nat) : List Nat := l.filter fun t => !c.tokenDone clock t

/-- How a context stands at issue (R68): not there, held without being blocked, blocked with its deviation cause, or ready. -/
inductive Head where
  | absent
  | stalled (cause : Nat)
  | blocked (cause : Nat)
  | ready
  deriving DecidableEq, Repr

/-- Whether the stall count of the head bundle has elapsed (R29). -/
def Ctx.stallOver (c : Ctx) (clock : Nat) (b : Bundle) : Bool :=
  c.base + 1 + (if c.remainder = 0 then b.stall else 0) ≤ clock

/-- The header wait of the head bundle, once its stall has elapsed (R31). -/
def Ctx.headerWait (c : Ctx) (clock : Nat) (b : Bundle) : List Nat :=
  if c.cigon.isNone && c.stallOver clock b && c.wait.isNone && (fld b.word 29 3).toNat != 1 then maskTokens (headerOf b.word).wait else []

/-- Tokens with an error that no trap has reported (R322). -/
def Ctx.unreported (c : Ctx) (clock : Nat) (l : List Nat) : List Nat :=
  l.filter fun t => (c.token t).error && !(c.token t).reported && (c.token t).doneFrom ≤ clock

/-- Unreported errors that a wait of a bundle raises: the first bundle that waits on a token is an older TOKCLR's where one is queued
(R322). -/
def Ctx.raises (c : Ctx) (clock seq : Nat) (l : List Nat) : List Nat :=
  (c.unreported clock l).filter fun t => !(c.queue 6).any fun q => decide (q.seq < seq) &&
    (match decode q.slot q.lend q.word with | .ok (.tokclr k) => k.toNat == t | _ => false)

/-- The spacing of a sync bundle behind the syllables that left last (R74). -/
def Ctx.syncSpaced (c : Ctx) (clock stall : Nat) (b : Bundle) : Bool :=
  b.ops.all fun o => match Table.find? c.last o.1 with
    | some l => l.leave + (c.sched + 1 + stall - l.sched) ≤ clock
    | none => true

/-- A context that dispatches nothing more before it is taken, or before the debugger has it: what a return still has to run again
dispatches first (R76, R141, R477). -/
def Ctx.leaving (c : Ctx) : Bool :=
  c.resume.isNone && (c.take.isSome || c.haltRequest || (c.stepPending && !c.passBreak))

/-- Whether the head bundle is a PHASE whose release is not met (R99): every syllable of the bundle belongs to the phase that begins
once it is, so the bundle dispatches then (R165; log 2). -/
def State.phaseHeld (s : State) (tile : Nat) (c : Ctx) (b : Bundle) : Bool :=
  match b.control with
  | some (.phase _) => s.unpublished tile c c.seq (headerOf b.word).scope.toNat
  | _ => false

/-- The head of a context of a translated body: its next Cigon instruction dispatches once those before it have left their queues and written
their results (log 58). -/
def State.cigonHead (s : State) (tile : Nat) (c : Ctx) (g : Cigon) : Head :=
  let clock := s.clock tile
  if c.queued then .blocked (behind c.heldCause)
  else if !(c.base + 1 ≤ clock && c.cigonLanded g clock) then .stalled 0
  else if ((s.cigonLine c g.pc).bind (·.code)).any (s.cigonWaits tile c) then .blocked 0
  else .ready

/-- The head of a context in an active place (R68-R71, R73, R150). -/
def State.head (s : State) (tile place : Nat) : Head :=
  match s.ctx? tile place with
  | none => .absent
  | some c =>
    let clock := s.clock tile
    let b := s.bundleAt tile c.pc
    let heads := c.queues.filterMap fun kq => kq.2.head?
    if c.heldByDebug then .blocked 14
    else if c.stopping.isSome || c.leaving || s.hub.halting.isSome then .absent
    else
      match c.wait with
      | some (.halt _ _ _) =>
        let n := s.tokenCause c (c.waiting clock (List.range 8))
        if n = 0 then .absent else .blocked n
      | some (.tokens _ _ _ m _ _) => .blocked (s.tokenCause c (c.waiting clock (maskTokens m)))
      | some (.until _ _ _ _) => .blocked 0
      | some (.barrier _ _ _ _ _ _) => .blocked 13
      | none =>
        if (c.queue 6).any fun q => fld q.word 26 6 == 26 then .blocked 13
        else if let some g := c.cigon then s.cigonHead tile c g
        else if !(c.queue 0).isEmpty then .stalled (behind c.heldCause)
        else
          if !c.stallOver clock b then .stalled 0
          else
            match heads.find? fun q => [1, 2, 10].contains q.held && !(q.slot == 4 && clock < (s.tile tile).mHeld) with
            | some q => .blocked q.held
            | none =>
              let waiting := c.waiting clock (c.headerWait clock b)
              if c.remainder = 0 && s.phaseHeld tile c b then .stalled (behind c.heldCause)
              else if !waiting.isEmpty && (c.raises clock c.seq (c.headerWait clock b)).isEmpty then .blocked (s.tokenCause c waiting)
              else if c.remainder = 0 && b.sync && (c.queued || !c.syncSpaced clock b.stall b) then .stalled (behind c.heldCause)
              else if (match c.oldest with | some q => decide (q.seq + 16 ≤ c.seq) | none => false) then
                .blocked c.slipCause
              else
                let now := b.instrs.filter fun x => x.1 == 0 || actsAtDispatch x.2
                match now.findSome? fun x =>
                    c.lateCause clock clock c.seq (readsOf c.rrb x.2) (csrReadsOf x.2) with
                | some cause => if c.remainder = 0 then .stalled cause else .ready
                | none => .ready

/-! ### Choosing the context that dispatches (R69-R71) -/

/-- The first of a list of places after one of them, modulo 4. -/
def nextAfter (last : Nat) (l : List Nat) : Option Nat :=
  ([1, 2, 3, 4].map fun k => (last + k) % 4).find? l.contains

/-- The place that takes or keeps the turn. The manual leaves points open, which the model settles (DESIGN CHOICE, log 33). Where no context
was ready and the blocked holder becomes ready in the same cycle as another, the holder keeps the turn (R69). The mark of a release under R71
stands until the context's next dispatch, though its head bundle blocks for another reason in between. The orders of R69 to R71 count active
places, which are the contexts' own numbers unless a context has come back to another place or two launches share the tile. A priority 1
context that becomes ready while a priority 0 holder waits out its stall count takes the turn, as the fourth sentence of R69 has it. A context
that has entered its handler takes the turn from the 13th cycle on, so that the 16 cycles of R128 hold. -/
def State.chooseTurn (s : State) (tile : Nat) (heads : List (Nat × Head)) : Option Nat :=
  let t := s.tile tile
  let ready := (heads.filter fun h => h.2 == .ready).map (·.1)
  let isHigh (p : Nat) : Bool := ((s.ctx? tile p).map (·.highPriority)).getD false
  let released (p : Nat) : Bool := (s.ctx? tile p).any fun c => c.release.any fun k => decide (k ≤ t.clock)
  let starved (p : Nat) : Bool := ((s.ctx? tile p).map fun c => decide (60 ≤ c.readyFor)).getD false
  let high := ready.filter isHigh
  let pick (l : List Nat) (level : Nat) : Option Nat := nextAfter (t.lastHolder.getD level 3) l
  let pass : Option Nat := if high.isEmpty then pick ready 0 else pick high 1
  match ready.find? starved with
  | some p => some p
  | none =>
    match ready.find? released with
    | some p => some p
    | none =>
      match t.turn with
      | none => pass
      | some h =>
        let yields := ((s.ctx? tile h).map (·.yielded)).getD false
        let others := ready.filter (· != h)
        match ((heads.find? fun x => x.1 == h).map (·.2) : Option Head) with
        | some .ready =>
          if yields && !others.isEmpty then (if (others.filter isHigh).isEmpty then pick others 0 else pick (others.filter isHigh) 1)
          else if !isHigh h && !high.isEmpty then pick high 1 else some h
        | some (.stalled _) =>
          if yields && !others.isEmpty then pass
          else if !isHigh h && !high.isEmpty then pick high 1 else some h
        | _ => if ready.isEmpty then some h else pass

/-- The slot of the syllable that holds a context back for a cause: that of the C or Q syllable it waits in, 7 for the token wait of its
header, else that of its oldest queued syllable (R473). -/
def Ctx.blockedSlot (c : Ctx) (cause : Nat) : Nat :=
  match c.wait with
  | some (.barrier _ _ _ _ _ _) => 6
  | some _ => 0
  | none => if cause = 5 || cause = 7 then 7 else (c.oldest.map (·.slot)).getD 7

/-- The dispatch of one cycle of a tile: the turn, the cycles that ready and blocked contexts lose, and the context whose head
bundle dispatches. -/
def State.dispatchTurn (s : State) (tile : Nat) : State × Option Nat :=
  let heads := (List.range 4).map fun p => (p, s.head tile p)
  let turn := s.chooseTurn tile heads
  let goes := turn.bind fun p => if heads.contains (p, .ready) then some p else none
  let s := s.updTile tile fun t =>
    { t with
      turn := turn
      lastHolder := match goes with
        | some p => t.lastHolder.put (if ((s.ctx? tile p).map (·.highPriority)).getD false then 1 else 0) p
        | none => t.lastHolder }
  let mark (s : State) (h : Nat × Head) : State :=
    s.updCtx tile h.1 fun c =>
      match h.2 with
      | .ready =>
        if goes = some h.1 then c
        else { c with readyFor := c.readyFor + 1, lost := if turn = some h.1 then c.lost else some (8, 7) }
      | .blocked n | .stalled n =>
        if n = 0 || c.lost.isSome then c else { c with lost := some (n, c.blockedSlot n) }
      | .absent => c
  (heads.foldl mark s, goes)

/-! ### Dispatch -/

/-- Stops a context at its head bundle, which does not dispatch, with a done mask. -/
def State.refuseWith (s : State) (tile place slot : Nat) (t : Trap) (done : Ctx → BitVec 7) : State :=
  s.updCtx tile place fun c => c.stop ⟨t, c.seq, c.pc, slot, some (done c), s.cycle, c.rrb, c.loops, c.remainder⟩

/-- The same with the slots that a return left as done, which stay done (R134). -/
def State.refuse (s : State) (tile place slot : Nat) (t : Trap) : State :=
  s.refuseWith tile place slot t fun c => (c.resume.map (·.done)).getD 0

/-- The same with the all-zero mask of a refused bundle (R35, R53, R165, R266). -/
def State.refuseZero (s : State) (tile place slot : Nat) (t : Trap) : State := s.refuseWith tile place slot t fun _ => 0

/-- The comparator that matches the head bundle (R478). -/
def State.breakMatch (s : State) (tile : Nat) (c : Ctx) : Option Nat :=
  if c.passBreak then none
  else (List.find? (fun b => b.2.1.toNat == c.pc && b.2.2.getLsbD c.num) (s.tile tile).breaks).map (·.1)

/-- What is raised before a head bundle dispatches: a breakpoint, code that ends, a token's error (R25, R322, R478). R25 names no
slot for code that ends; the model raises it with slot 7, that of the header (DESIGN CHOICE, log 40). -/
def State.beforeDispatch (s : State) (tile : Nat) (c : Ctx) (wait : BitVec 8) (next : Nat) : Option Trap :=
  match s.breakMatch tile c with
  | some k => some { cause := causeBreakpoint, detail := 0x1400, value := BitVec.ofNat 48 k }
  | none =>
    if 0x10000 < next || 0x10000 ≤ c.pc then some { cause := causeMisalignedTarget, detail := 1 }
    else
      (c.raises (s.clock tile) c.seq (maskTokens wait)).head?.map fun t =>
        { cause := (c.token t).cause.toNat, detail := (c.token t).detail.toNat, value := BitVec.ofNat 48 t,
          address := c.csrLast csrCpfaddr, deferred := true }

/-- A trap of a token marks it as reported (R322). -/
def Ctx.reportToken (c : Ctx) (t : Trap) : Ctx :=
  if t.deferred then c.updToken (t.value.toNat % 8) fun k => { k with reported := true } else c

/-- An illegal opcode or encoding found at dispatch, unless a breakpoint comes first (R35, R478). -/
def State.refuseCode (s : State) (tile place slot cause detail : Nat) : State :=
  let s := { s with issuing := none }
  match s.ctx? tile place with
  | none => s
  | some c =>
    match s.breakMatch tile c with
    | some k => s.refuse tile place 7 { cause := causeBreakpoint, detail := 0x1400, value := BitVec.ofNat 48 k }
    | none => s.refuseZero tile place slot { cause := cause, detail := detail }

def execIllegalOpcode (tile place slot : Nat) (s : State) : Host.Outcome State Fault Refusal :=
  .next (s.refuseCode tile place slot causeIllegalOpcode 0)

def execIllegalEncoding (tile place slot detail : Nat) (s : State) : Host.Outcome State Fault Refusal :=
  .next (s.refuseCode tile place slot causeIllegalEncoding detail)

/-- Rows of the accumulators that an M syllable updates: one, or all (R266). -/
def updatesRow (row : BitVec 6) : Instr → Bool
  | .push r _ _ _ | .pushx r _ _ _ _ | .pushg r _ _ _ _ | .shift r _ => r == row
  | .accz r _ all => all || r == row
  | .drain r _ _ _ zero => zero && r == row
  | _ => false

/-- STALL_UNDERSIZED of a syllable in check mode (R53, R266): a register it reads has a write not yet visible, or a DRAIN comes within
eight beats of an update of its row. Replies of Q engines, which write under slot 7, fall under no such rule (R53). -/
def Ctx.undersized (c : Ctx) (q : Queued) (i : Instr) : Bool :=
  let regs := c.readsAt q i
  let clock := q.disp
  c.checkMode &&
    ((c.writes.any fun w => regs.contains w.reg && clock < w.vis && w.slot != 7) ||
      (c.allQueued.any fun q => match decode q.slot q.lend q.word with
        | .ok j => (writesOf q.rrb j).any fun w => regs.contains w.1 && clock < q.disp + w.2
        | .error _ => false) ||
      (match i with
        | .drain row _ _ _ _ =>
          (c.recent.any fun r => r.2.1 == row.toNat && clock < r.1 + 8) ||
          (c.allQueued.any fun q => clock < q.disp + 8 && (match decode q.slot q.lend q.word with
            | .ok j => updatesRow row j
            | .error _ => false))
        | _ => false))

/-- The conflict of a set group (R99, R102, R103): detail 0x0012, the group, the context in conflict, the lowest address. -/
def State.groupConflict (s : State) (tile : Nat) (c : Ctx) (group : BitVec 4) : Option Trap :=
  match s.setsOf c with
  | none => none
  | some sets =>
    let of (num g : Nat) : List (Nat × SetEntry) := (sets.filter fun e => e.group == g).map fun e => (num, e)
    let mine := of c.num group.toNat
    let others := ((s.groupsOn tile c.launch).filter fun x => x.1 != c.num).flatMap fun x => of x.1 x.2
    let sync (p : Nat) : Bool := p == 0 || p == 3
    let clash (a b : Nat × SetEntry) : Option (Nat × Nat) :=
      let lo := max (a.2.first a.1) (b.2.first b.1)
      if a.2.vault == b.2.vault && (a.2.write || b.2.write) && (a.1 != b.1 || a.2.path != b.2.path) &&
          !(sync a.2.path && sync b.2.path) &&
          lo < min (a.2.first a.1 + a.2.length) (b.2.first b.1 + b.2.length) then some (64 * lo, b.1) else none
    let found := mine.flatMap fun a => (mine ++ others).filterMap (clash a)
    (found.foldl (fun (b : Option (Nat × Nat)) x => match b with
      | none => some x
      | some y => if x.1 < y.1 then some x else some y) none).map fun x =>
        { cause := causeSetOverlap, detail := 0x0012, value := BitVec.ofNat 48 (group.toNat + 16 * x.2),
          address := BitVec.ofNat 64 x.1 }

/-- A displacement in syllables from the bundle, modulo 0x1_0000 (R157). -/
def loopTarget (q : Queued) (imm : BitVec 14) : Int := (q.addr + 4 * imm.toInt) % 0x10000

/-- The target of a JMP or RET (R156). -/
def Ctx.jumpTarget (c : Ctx) (q : Queued) (ga : BitVec 6) (imm : BitVec 14) : Word64 := c.gRaw q ga + 4 * imm.signExtend 64

/-- MISALIGNED_TARGET of a redirect whose target its registers give, which comes before STALL_UNDERSIZED (R130). -/
def State.misaligned (s : State) (tile : Nat) (c : Ctx) (q : Queued) (i : Instr) : Option Trap :=
  let jump (v : Word64) : Option Trap :=
    if v.toNat % 4 ≠ 0 then some { cause := causeMisalignedTarget } else s.targetCheck tile v.toInt
  match i with
  | .br d n g | .call d n g => if guardHolds c q g n then s.targetCheck tile (q.addr + 4 * d.toInt) else none
  | .jmp ga imm => jump (c.jumpTarget q ga imm)
  | .ret ga => jump (c.jumpTarget q ga 0)
  | .lexit _ n p imm => if guardHolds c q p n then s.targetCheck tile (loopTarget q imm) else none
  | _ => none

/-- What a syllable raises in the dispatch cycle, before any syllable of its bundle takes effect (R53, R99, R219). -/
def State.dispatchTrap (s : State) (tile : Nat) (c : Ctx) (q : Queued) (i : Instr) : Option Trap :=
  if c.undersized q i then some ((s.misaligned tile c q i).getD { cause := causeStallUndersized })
  else
    match i with
    | .phase g => s.groupConflict tile c g
    | .bind ga h p w => match bindPort ga h p.toNat w false c q with | .error t => some t | .ok _ => none
    | .bindg ga h p w => match bindPort ga h p.toNat w true c q with | .error t => some t | .ok _ => none
    | .sskip ga p => match skipPort ga p.toNat c q with | .error t => some t | .ok _ => none
    | _ => none

/-- Counts of bundles on a partition (Table 20.3), kept by 256 times the partition. -/
def State.count (s : State) (tile n : Nat) (by_ : Word64) : State :=
  let k := 256 * partOf tile + n
  { s with hub := { s.hub with counters := s.hub.counters.set k (s.hub.counters.getD k 0 + by_) 0 } }

/-- The schedule count that the next bundle has had since its first dispatch, where it runs again (R340). -/
def Ctx.replayed (c : Ctx) : Option Nat :=
  match c.resume with
  | some r => r.stamps.head?
  | none => c.stamps.head?

/-- The schedule count of the bundle that dispatches next (R340). -/
def Ctx.nextStamp (c : Ctx) : Nat := c.replayed.getD c.count

/-- A bundle dispatched: what it leaves in its context whatever it holds (R29, R33, R70, R73). -/
def Ctx.advance (c : Ctx) (clock stall : Nat) (f : Flight) : Ctx :=
  { c with
    pc := f.next, remainder := 0, base := clock, seq := c.seq + 1, sched := c.sched + 1 + stall
    flights := c.flights ++ [{ f with stamp := c.nextStamp }], readyFor := 0, release := none, yielded := false, away := false, passBreak := false
    resume := none, again := if c.resume.isSome then c.again else c.again.drop 1
    awaits := false, count := if c.replayed.isSome then c.count else c.count + 1 + stall, stamps := if c.resume.isSome then c.stamps else c.stamps.drop 1
    dispatched := c.dispatched + 1, lost := none }

/-- The sample record of a dispatch (R473). -/
def State.sample (s : State) (tile place addr : Nat) : State :=
  match s.ctx? tile place with
  | none => s
  | some c =>
    let n := bitsOf (c.csrLast csrTrsamp).toNat 0 32
    if n != 0 && c.dispatched % max n 64 == 0 then
      s.recordIf 1 tile place 2 0 addr ((c.oldest.map (·.slot)).getD 7) s.cycle c.devTotal
        (BitVec.ofNat 64 ((c.queues.filter fun kq => !kq.2.isEmpty).foldl (fun m kq => m + 2 ^ kq.1) 0))
    else s

/-- Skips that a return left for younger bundles (R75): the slots of a bundle to skip, and the counts after it. -/
def takeSkips (skips : List Nat) (slots : List Nat) : BitVec 7 × List Nat :=
  slots.foldl (fun x k => if 0 < x.2.getD k 0 then (setBit x.1 k true, x.2.set k (x.2.getD k 0 - 1)) else x) (0, skips)

/-- What a bundle brings to its dispatch: its op syllables as slot, lend byte and word, the address after it, stall count and scope, the
slots to skip with the skips left for younger bundles, and the rows that it already has. -/
structure Dispatching where
  words : List (Nat × Option Byte × Word32)
  next : Nat
  stall : Nat
  scope : BitVec 3
  skips : BitVec 7 × List Nat
  rows : List RowUse

/-- What an ERET of the bundle at a context's pc finds at TRAPREC as it dispatches (R131), unless a FENCEX still holds its read (R164). -/
def State.foundRecord (s : State) (tile : Nat) (c : Ctx) (words : List (Nat × Option Byte × Word32)) : Option (List Byte × Bool) :=
  let a := sramKey tile (c.regs.csr.getD 0x13 0).toNat
  (words.find? fun w => match decode w.1 w.2.1 w.2.2 with | .ok .eret => true | _ => false).bind fun w =>
    if s.fenced tile c { Queued.none_ with slot := w.1, word := w.2.2, seq := c.seq } .eret then none else some (s.read a 16, s.poisoned a 16)

/-- Dispatch at the context's pc (R27-R31, R53, R219): the syllables enter their queues with what they take along, or the bundle is
refused. -/
def State.issue (s : State) (tile place : Nat) (c : Ctx) (b : Dispatching) : State :=
  let clock := s.clock tile
  let decoded := b.words.filterMap fun w =>
    if b.skips.1.getLsbD w.1 then none
    else match decode w.1 w.2.1 w.2.2 with
      | .ok i => some (w, i)
      | .error _ => none
  let base (w : Nat × Option Byte × Word32) : Queued :=
    { slot := w.1, word := w.2.2, lend := w.2.1, seq := c.seq, disp := clock, sched := c.sched + 1 + b.stall, addr := c.pc,
      scope := b.scope, rrb := c.rrb, group := c.group, rows := [], held := 0, left := clock, stamp := c.nextStamp
      time := s.time }
  match decoded.findSome? fun x => (s.dispatchTrap tile c (base x.1) x.2).map fun t => (x.1.1, t) with
  | some (slot, t) =>
    if [causeStallUndersized, causeSetOverlap].contains t.cause then s.refuseZero tile place slot t else s.refuse tile place slot t
  | none =>
    let group := (decoded.findSome? fun x => match x.2 with | .phase g => some g | _ => none).getD c.group
    let ports := (decoded.flatMap fun x => portsOf x.2).eraseDups
    let rows := c.takeRows b.rows ports
    let acts (i : Instr) : Bool := match i with | .bind _ _ _ _ | .bindg _ _ _ _ | .sskip _ _ => true | _ => false
    let entry (x : (Nat × Option Byte × Word32) × Instr) : Queued :=
      { base x.1 with
        group := group, acted := acts x.2
        rows := match x.2 with
          | .unbind p _ _ | .sqry _ p _ => [⟨p.toNat, Table.find? c.ports p.toNat, 0, 0⟩]
          | i => rows.2.filter fun u => (portsOf i).contains u.port }
    let bound := decoded.find? fun x => acts x.2
    let unbinds := decoded.filterMap fun x => match x.2 with | .unbind p _ _ => some p.toNat | _ => none
    let flight : Flight :=
      { seq := c.seq, addr := c.pc, next := b.next, disp := clock
        present := b.words.foldl (fun m w => setBit m w.1 true) 0
        done := unbinds.foldl (fun m _ => setBit m 6 true) b.skips.1
        rrb := c.rrb, loops := c.loops, remainder := 0, rows := rows.2 }
    let c1 := rows.1.advance clock b.stall flight
    let c2 := { c1 with
      awaits := decoded.any fun x => match x.2 with | .bwait _ _ _ _ => true | _ => false
      skips := b.skips.2, found := s.foundRecord tile c b.words
      queues := decoded.foldl (fun qs x => qs.put x.1.1 (qs.getD x.1.1 [] ++ [entry x])) c1.queues }
    let c3 := unbinds.foldl Ctx.unbound c2
    let s1 := ((s.putCtx tile place c3).vaultStart tile c3).count tile 0 1
    let s2 := s1.sample tile place c.pc
    let s3 := ports.foldl (fun (s : State) p => s.prefetch tile place p 4) s2
    { s3 with engine := bound.map fun x => ⟨tile, place, entry x⟩ }

/-- The plain bundle at a context's pc dispatches, unless something is raised before it. -/
def issueBundle (h : Header) (lend : Option Word32) (s : State) : Host.Outcome State Fault Refusal :=
  match s.issuing with
  | none => .fault .noSyllable
  | some (tile, place) =>
    let s := { s with issuing := none }
    match s.ctx? tile place with
    | none => .fault .noSyllable
    | some c =>
      let slots := presentSlots h.present
      let skip := if lend.isSome then 2 else 1
      let next := c.pc + 4 * (slots.length + skip)
      match s.beforeDispatch tile c h.wait next with
      | some t => .next ((s.updCtx tile place fun c => c.reportToken t).refuse tile place 7 t)
      | none =>
        .next (s.issue tile place c
          { words := slots.mapIdx fun k slot => (slot, lendByte lend k, s.codeWord tile (c.pc + 4 * (k + skip)))
            next := next, stall := h.stall.toNat, scope := h.scope
            skips := match c.resume with | some r => (r.done, c.skips) | none => takeSkips c.skips slots
            rows := match c.resume with | some r => r.rows.headD [] | none => c.again.headD [] })

def execPlainBundle (h : Header) (s : State) : Host.Outcome State Fault Refusal := issueBundle h none s

def execPlainBundleWithLend (h : Header) (lend : Word32) (s : State) : Host.Outcome State Fault Refusal :=
  issueBundle h (some lend) s

/-- One empty bundle of a run (R33). -/
def execEmptyRun (count : BitVec 13) (s : State) : Host.Outcome State Fault Refusal :=
  match s.issuing with
  | none => .fault .noSyllable
  | some (tile, place) =>
    let s := { s with issuing := none }
    match s.ctx? tile place with
    | none => .fault .noSyllable
    | some c =>
      match s.beforeDispatch tile c 0 (c.pc + 4) with
      | some t => .next (s.refuse tile place 7 t)
      | none =>
        let left := (if c.remainder = 0 then count.toNat + 1 else c.remainder) - 1
        let f : Flight :=
          { seq := c.seq, addr := c.pc, next := if left = 0 then c.pc + 4 else c.pc, disp := s.clock tile, present := 0, done := 0
            rrb := c.rrb, loops := c.loops, remainder := c.remainder, rows := [] }
        let c1 := { c.advance (s.clock tile) 0 f with remainder := left }
        .next ((((s.putCtx tile place c1).vaultStart tile c1).count tile 0 1).sample tile place c.pc)

/-- R28: no effect. -/
def execNop (s : State) : Host.Outcome State Fault Refusal := onCtx s fun _ c => .ok c

/-- Bytes that a microcode entry writes to the data SRAM below the reserved window (R146, R458). -/
def State.microWrite (s : State) (tile : Nat) (b : Nat × List Byte) : State :=
  if b.1 + b.2.length ≤ Config.windowBase then s.write (sramKey tile b.1) b.2 false else s

/-- What the microcode entry of an extension opcode makes of the syllable of a context at its engine. -/
def State.micro (s : State) (e : Issued) (c : Ctx) (op : BitVec 3) (rest : BitVec 26) : MicroOutcome :=
  match s.microEntry c e.q.slot op with
  | none => .raises { cause := causeIllegalOpcode }
  | some image => Config.microcode image e.q.slot op rest (c.regsAt e.q.disp)

/-- The syllable that a microcode entry acts as: one of its slot, no extension opcode again. -/
def Issued.actsAs (e : Issued) (word : Word32) : Option Issued :=
  match decode e.q.slot e.q.lend word with
  | .error _ | .ok (.extensionOpcode _ _) => none
  | .ok _ => some { e with q := { e.q with word := word } }

/-- R50, R458: the microcode entry of the slot and opcode acts as its image declares (log 18): it raises a trap, writes registers and data SRAM,
or has another syllable of its slot come to the engine in its place; one that names no such syllable does nothing. Without an entry,
ILLEGAL_OPCODE. -/
def execExtensionOpcode (op : BitVec 3) (rest : BitVec 26) (s : State) : Host.Outcome State Fault Refusal :=
  match s.engine.bind fun e => (s.ctx? e.tile e.place).map fun c => (e, s.micro e c op rest) with
  | none => .fault .noSyllable
  | some (e, .acts word) =>
    match e.actsAs word with
    | some e' => .next { s with engine := some e' }
    | none => onSyllable s fun _ _ => .done s
  | some (_, .raises t) => onSyllable s fun _ _ => .trap s t
  | some (e, .gives regs bytes) =>
    onSyllable s fun _ c => .done ((bytes.foldl (fun s b => s.microWrite e.tile b) s).putCtx e.tile e.place
      (regs.foldl (fun c w => c.result e.q w.2.1 w.1 w.2.2) c))

end Sys2Proof.Machine
end

