-- ==== Sys2Proof/Machine/Cigon.lean ====
section
/-! DEFINITION. What the instructions of the Cigon form do (19_cigon R462-R470): registers, RISC-V scalar and vector instructions, and the
native syllables that the others stand for. The layout of the translated body stays the translator's (log 58). -/

namespace Sys2Proof.Machine

/-! ### Registers (R462) -/

/-- A scalar register: x0-x31 are g0-g31 and f0-f31 the low halves of g32-g63. -/
def Ctx.xReg (c : Ctx) (n : Nat) : Word64 := c.regs.g.getD n 0

/-- Writes a scalar register; x0 discards. -/
def Ctx.setX (c : Ctx) (n : Nat) (v : Word64) : Ctx :=
  if n = 0 then c else { c with regs := (c.regs.put (.g n) (v.setWidth 2048)).setPoison (.g n) false }

/-- POISON of a source register that is poisoned (R138). -/
def Ctx.poisonedX (c : Ctx) (sources : List Nat) : Option Trap :=
  (sources.find? fun n => c.regs.gPoison.getLsbD n).map fun n => poisonG (BitVec.ofNat 6 n)

/-- Writes the bits of a control register that a mask selects. -/
def Ctx.putCsrBits (c : Ctx) (n : Nat) (v mask : Word64) : Ctx :=
  { c with regs := { c.regs with csr := c.regs.csr.set n ((c.regs.csr.getD n 0 &&& ~~~mask) ||| (v &&& mask)) 0 } }

/-- Sets flags of FLAGS_V. -/
def Ctx.flagV (c : Ctx) (flags : Nat) : Ctx := c.putCsrBits csrFlagsV (BitVec.ofNat 64 flags) (BitVec.ofNat 64 flags)

/-- The context with every result in its files. -/
def Ctx.landed (c : Ctx) : Ctx := { c with regs := c.writes.foldl RegFile.apply c.regs, writes := [] }

/-- The context with what its last instruction still owed. -/
def Ctx.paid (c : Ctx) : Owed → Ctx
  | .nothing => c
  | .slice rd => if c.regs.p.getLsbD 1 then c else c.setX rd (BitVec.allOnes 64)
  | .predicate rd => c.setX rd (truth (c.regs.p.getLsbD 1))
  | .shape rd => c.setX rd (c.regs.z.getD 0 0)
  | .scale code => c.putCsrBits csrArrayCfg (code.setWidth 64 <<< 16) 0xFF0000

/-! ### CSRs (R462, R463) -/

/-- fflags: NV and DZ reflect INVALID and DIV_BY_ZERO of FLAGS_V; OF, UF and NX read 0. -/
def Ctx.fflags (c : Ctx) : Nat :=
  let f := (c.regs.csr.getD csrFlagsV 0).toNat
  (if f.testBit 2 then 16 else 0) + (if f.testBit 8 then 8 else 0)

/-- Writes NV and DZ. -/
def Ctx.setFflags (c : Ctx) (v : Nat) : Ctx :=
  c.putCsrBits csrFlagsV (BitVec.ofNat 64 ((if v.testBit 4 then flagInvalid else 0) + (if v.testBit 3 then flagDivByZero else 0)))
    (BitVec.ofNat 64 (flagInvalid + flagDivByZero))

/-- frm as written: RMM acts as RNE (R462). -/
def frmOf (v : Nat) : BitVec 3 := if v % 8 = 4 then 0 else BitVec.ofNat 3 v

/-- A CSR of R463. -/
def cigonCsr (s : State) (c : Ctx) (g : Cigon) (n : Nat) : Word64 :=
  match n with
  | 0x001 => BitVec.ofNat 64 c.fflags
  | 0x002 => g.frm.setWidth 64
  | 0x003 => BitVec.ofNat 64 (32 * g.frm.toNat + c.fflags)
  | 0x008 => BitVec.ofNat 64 g.vstart
  | 0x009 => truth g.vxsat
  | 0x00A => g.vxrm.setWidth 64
  | 0x00F => BitVec.ofNat 64 (2 * g.vxrm.toNat + (if g.vxsat then 1 else 0))
  | 0xC20 => BitVec.ofNat 64 g.vl
  | 0xC21 => g.vtypeCsr
  | 0xC22 => 256
  | _ => s.cycle

/-- A write of one of them. -/
def setCigonCsr (c : Ctx) (g : Cigon) (n : Nat) (v : Nat) : Ctx × Cigon :=
  match n with
  | 0x001 => (c.setFflags v, g)
  | 0x002 => (c, { g with frm := frmOf v })
  | 0x003 => (c.setFflags v, { g with frm := frmOf (v / 32) })
  | 0x008 => (c, { g with vstart := v % 2048 })
  | 0x009 => (c, { g with vxsat := v.testBit 0 })
  | 0x00A => (c, { g with vxrm := BitVec.ofNat 2 v })
  | 0x00F => (c, { g with vxrm := BitVec.ofNat 2 (v / 2), vxsat := v.testBit 0 })
  | _ => (c, g)

/-! ### What an instruction comes to -/

/-- What an instruction comes to: an effect of its own, with the place of the next; a native syllable with its scope, the rows it is given
and what it leaves owed; or a trap, in a slot. -/
inductive CigonAct where
  | done (s : State) (c : Ctx) (g : Cigon)
  | native (c : Ctx) (slot : Nat) (scope : BitVec 3) (i : Instr) (rows : List RowUse := []) (owed : Owed := .nothing)
  | trap (s : State) (slot : Nat) (t : Trap)

/-- The mode of Table 5.3 of a rounding mode field. -/
def Cigon.mode (g : Cigon) (rm : Nat) : Nat :=
  if rm ≠ 7 then rvMode rm else if g.frm.toNat < 5 then rvMode g.frm.toNat else Config.reservedMode g.frm % 4

/-- A native load or store at a register and an offset (R463). -/
def memOff (size : BitVec 3) (data base : Nat) (off : BitVec 12) : MemOff :=
  let o : BitVec 19 := off.signExtend 19
  ⟨BitVec.ofNat 6 data, BitVec.ofNat 6 base, size, o.setWidth 11, some (o.extractLsb' 11 8)⟩

/-- The target of a jump, which the next dispatch checks: JALR clears its last bit. -/
def jumpOffset (v : Word64) : Nat := (v &&& ~~~1).toNat

/-- A scalar instruction at an offset. -/
def scalarAct (s : State) (c : Ctx) (g : Cigon) (order : Option (Bool × BitVec 3)) : Rv → CigonAct
  | .calc rd sources rm f =>
    match c.poisonedX sources with
    | some t => .trap s 1 t
    | none =>
      let r := f (g.mode rm) (sources.map c.xReg)
      .done s ((c.setX rd r.1).flagV r.2) { g with pc := g.pc + 4 }
  | .auipc rd v => .done s (c.setX rd (BitVec.ofNat 64 g.pc + v)) { g with pc := g.pc + 4 }
  | .jal rd off => .done s (c.setX rd (BitVec.ofNat 64 (g.pc + 4))) { g with pc := (BitVec.ofInt 64 (g.pc + off)).toNat }
  | .jalr rd rs1 off =>
    match c.poisonedX [rs1] with
    | some t => .trap s 0 t
    | none => .done s (c.setX rd (BitVec.ofNat 64 (g.pc + 4))) { g with pc := jumpOffset (c.xReg rs1 + BitVec.ofInt 64 off) }
  | .branch rs1 rs2 off holds =>
    match c.poisonedX [rs1, rs2] with
    | some t => .trap s 0 t
    | none => .done s c { g with pc := if holds (c.xReg rs1) (c.xReg rs2) then (BitVec.ofInt 64 (g.pc + off)).toNat else g.pc + 4 }
  | .load size rd rs1 off =>
    match order with
    | some (false, scope) => .native c 1 scope (.ldacq (memOff size rd rs1 off))
    | _ => .native c 1 0 (.ld (memOff size rd rs1 off))
  | .store size rs2 rs1 off =>
    match order with
    | some (true, scope) => .native c 1 scope (.strel (memOff size rs2 rs1 off))
    | _ => .native c 1 0 (.st (memOff size rs2 rs1 off))
  | .fence => .native c 0 0 (.fencex 3)
  | .ecall => .native c 0 0 (.trap 0)
  | .ebreak => .native c 0 0 (.bkpt 0)
  | .wfi => .native c 0 0 .yield
  | .csr op rd n source =>
    let sources := match source with | .inl r => [r] | .inr _ => []
    match c.poisonedX sources with
    | some t => .trap s 1 t
    | none =>
      let old := cigonCsr s c g n
      let v : Word64 := match source with | .inl r => c.xReg r | .inr k => BitVec.ofNat 64 k
      let written := op == 1 || (match source with | .inl r => r != 0 | .inr k => k != 0)
      let new := if op = 1 then v else if op = 2 then old ||| v else old &&& ~~~v
      let r := if written then setCigonCsr c g n new.toNat else (c, g)
      .done s (r.1.setX rd old) { r.2 with pc := g.pc + 4 }

/-! ### Vector instructions (R461, R463) -/

/-- The check of an element of a vector access, on path ST: as R196 checks, then the declared sets, then for a load its poison, which
raises as a row into the V slot does (R138; log 57). -/
def elementTrap (s : State) (tile : Nat) (c : Ctx) (store : Bool) (a n : Nat) : Option Trap :=
  firstTrap [sramRange a n 0x0800 0x0801 n, s.setCheck tile c c.group 1 (!store) store false false a n,
    if !store && s.poisoned (sramKey tile a) n then some (poisonRow a) else none]

/-- The elements of a store performed in order, up to the first that fails. -/
def storeElements (tile : Nat) (c : Ctx) (g : Cigon) (p : VPlan) : List VPiece → State → State × Option Trap
  | [], s => (s, none)
  | x :: rest, s =>
    let a := x.addr.toNat
    match elementTrap s tile c true a (x.w / 8) with
    | some t => (s, some t)
    | none => storeElements tile c g p rest (s.write (sramKey tile a) (leBytes (x.w / 8) (g.elem x.reg x.w x.i)) false)

/-- The number of a vector instruction's inputs, its offset and the vector registers, by which its free values go: they are the same
whenever the inputs are (R80; log 57). -/
def Cigon.inputs (g : Cigon) : Nat := g.v.foldl (fun n x => n * 2 ^ 2048 + x.2.toNat) g.pc

/-- A vector load or store. -/
def vectorMemory (s : State) (tile : Nat) (c : Ctx) (g : Cigon) (m : VMem) : CigonAct :=
  match g.plan c.xReg m with
  | .error t => .trap s 3 t
  | .ok p =>
    let after (g : Cigon) : Cigon := { g with pc := g.pc + 4, vstart := 0 }
    if m.store then
      match storeElements tile c g p p.pieces s with
      | (s2, some t) => .trap s2 3 t
      | (s2, none) => .done s2 c (after g)
    else
      let failing := p.pieces.findSome? fun x => (elementTrap s tile c false x.addr.toNat (x.w / 8)).map fun t => (x.i, t)
      let value (x : VPiece) : VPiece × Nat := (x, leNat (s.read (sramKey tile x.addr.toNat) (x.w / 8)))
      match failing with
      | some (i, t) =>
        if m.mop = 0 && m.kind = 16 && i ≠ 0 then
          -- A fault-only-first load ends before the element.
          let p := { p with count := i }
          .done s c (after { g.loaded g.inputs m p ((p.pieces.filter (·.i < i)).map value) with vl := i })
        else .trap s 3 t
      | none => .done s c (after (g.loaded g.inputs m p (p.pieces.map value)))

/-- A vector instruction. -/
def vectorAct (s : State) (tile : Nat) (c : Ctx) (g : Cigon) (i : Rvv) : CigonAct :=
  match c.poisonedX i.sources with
  | some t => .trap s 3 t
  | none =>
    let finish (r : Except Trap VDone) : CigonAct :=
      match r with
      | .error t => .trap s 3 t
      | .ok d =>
        let c := match d.x with | some (rd, v) => c.setX rd v | none => c
        .done s (c.flagV d.flags) { d.g with pc := g.pc + 4, vxsat := g.vxsat || d.sat }
    match i with
    | .set o => finish (g.vsetEffect c.xReg o)
    | .memory m => vectorMemory s tile c g m
    | .arith o k => finish (g.vector g.inputs (g.mode 7) c.xReg o k)

/-! ### Xglm (R464, R465) -/

/-- A row at an address as a port gives it: dense elements of a type that fill 128 or 256 bytes. -/
def rowPort (type addr : Nat) (narrow : Bool) : Port :=
  let n := (if narrow then 128 else 256) * 8 / max 1 (typeBits type)
  ⟨BitVec.ofNat 256 (addr % 2 ^ 40 + type * 2 ^ 42 + n * 2 ^ 56 + 2 ^ 248), narrow, 0, 0, false, 0, 0, 0⟩

/-- The row of a syllable at an address, on a port's number. -/
def rowUse (port type addr : Nat) (narrow : Bool) : RowUse := ⟨port, some (rowPort type addr narrow), 0, 0⟩

/-- SRAM_RANGE of an operand address: 0x1310 where misaligned (R465), 0x090F beyond what a handle can hold. -/
def operandTrap (a : Word64) (align : Nat) : Option Trap :=
  let t (d : Nat) : Option Trap := some { cause := causeSramRange, detail := d, address := a }
  if a.toNat % align ≠ 0 then t 0x1310 else if 2 ^ 40 ≤ a.toNat then t 0x090F else none

/-- Loads a handle image into a handle register, as HLD reads it (R201): a misaligned address has a detail of its own. -/
def loadHandle (s : State) (tile : Nat) (c : Ctx) (h : Nat) (a : Word64) (misaligned : Nat) : Except Trap Ctx :=
  match firstTrap [sramRange a.toNat 32 misaligned 0x0801 32, s.setCheck tile c c.group 0 true false false false a.toNat 32] with
  | some t => .error t
  | none =>
    let v := leNat (s.read (sramKey tile a.toNat) 32)
    .ok { c with regs := (c.regs.put (.h h) (BitVec.ofNat 2048 v)).setPoison (.h h) (s.poisoned (sramKey tile a.toNat) 32) }

/-- The M syllables that Xglm instructions stand for. Port 0 has the format and default scale of gl.afmt; a beat with a scale of its own
goes through port 1, which takes the format of port 0 and that scale. -/
def xglmAct (s : State) (tile : Nat) (c : Ctx) (x : CigonCode) : CigonAct :=
  let bank (n : Nat) : BitVec 3 := BitVec.ofNat 3 n
  let row (r a align : Nat) (k : Word64 → CigonAct) : CigonAct :=
    match c.poisonedX [a], operandTrap (c.xReg a) align with
    | none, some t => .trap s r t
    | some t, none => .trap s r t
    | some _, some t => .trap s r t
    | none, none => k (c.xReg a)
  match x with
  | .wfmt booth => .native c 4 0 (.wfmt (if booth then 1 else 0))
  | .wswap => .native c 4 0 .wswap
  | .wload k b plane type rs1 narrow =>
    row 4 rs1 64 fun a => .native c 4 0 (.wload 0 (bank plane) (bank b) k) [rowUse 0 type a.toNat narrow]
  | .push r first b rs1 rd =>
    row 4 rs1 64 fun a =>
      if rd = 0 then .native c 4 0 (.push r 0 (bank b) first) [rowUse 0 5 a.toNat true]
      else
        match c.poisonedX [rd] with
        | some t => .trap s 4 t
        | none =>
          let format := c.regs.csr.getD csrAfmtL 0 &&& 0x300
          let c := c.putCsrBits csrAfmtL ((format ||| ((c.xReg rd).setWidth 8).setWidth 64) <<< 16) 0x3FF0000
          .native c 4 0 (.push r 1 (bank b) first) [rowUse 1 5 a.toNat true]
  | .pushHandle gather r first adv b rs1 =>
    (match c.poisonedX [rs1], loadHandle s tile c 0 (c.xReg rs1) 0x1310 with
      | some t, .ok _ => .trap s 4 t
      | _, .error t => .trap s 4 t
      | none, .ok c => .native c 4 0 (if gather then .pushg r 0 (bank b) first adv else .pushx r 0 (bank b) first adv))
  | .accz r fp all => .native c 4 0 (.accz r fp all)
  | .shift r n => .native c 4 0 (.shift r n)
  | .drain r scale out type zero =>
    row 4 out 64 fun a =>
      if scale = 0 then .native c 4 0 (.drain r 8 12 type zero) [rowUse 8 3 a.toNat false]
      else row 4 scale 64 fun b => .native c 4 0 (.drain r 8 0 type zero) [rowUse 8 3 a.toNat false, rowUse 0 0 b.toNat false]
  | .afmt fmt rs1 =>
    (match c.poisonedX [rs1] with
      | some t => .trap s 4 t
      | none =>
        let code : BitVec 8 := if rs1 = 0 then 0x7F else (c.xReg rs1).setWidth 8
        .native c 4 0 (.afmt 0 fmt code) [] (.scale code))
  | _ => .native c 4 0 .nop

/-- A gl.eng (R468): the engine's syllable, its handle images loaded first. -/
def engineAct (s : State) (tile : Nat) (c : Ctx) (slot : Nat) (scope : BitVec 3) (xa xb xc : Nat) (i : Instr) : CigonAct :=
  match i with
  | .cpyb _ _ _ =>
    (match (loadHandle s tile c 0 (c.xReg xa) 0x0800).bind fun c => loadHandle s tile c 1 (c.xReg xb) 0x0800 with
      | .error t => .trap s slot t
      | .ok c' => (match c.poisonedX [xa, xb] with | some t => .trap s slot t | none => .native c' slot scope i))
  | .barr _ _ _ _ | .bwait _ _ _ _ => .native c slot scope i [] (.predicate xc)
  | _ => .native c slot scope i

/-! ### Dispatch -/

/-- What the instruction of a line comes to. -/
def cigonAct (s : State) (tile : Nat) (c : Ctx) (g : Cigon) (l : CigonLine) : CigonAct :=
  match l.code with
  | none => .trap s 7 { cause := causeIllegalOpcode }
  | some x =>
    match x with
    | .scalar i => scalarAct s c g l.order i
    | .vector i => vectorAct s tile c g i
    | .phase group scope => .native c 0 scope (.phase group)
    | .fencex mask scope => .native c 0 scope (.fencex mask)
    | .order _ _ => .done s c { g with pc := g.pc + 4 }
    | .wait mask => .native c 0 0 (.waitt 0 false mask)
    | .slice rd => .native c 0 0 (.slice (BitVec.ofNat 6 rd) 1 0) [] (.slice rd)
    | .halt => .native c 0 0 .halt
    | .replan => .native c 0 0 (.replan 0)
    | .shape rs1 rd => .native c 0 0 (.shape (BitVec.ofNat 6 rs1) 1 0) [] (.shape rd)
    | .engine slot scope xa xb xc i => engineAct s tile c slot scope xa xb xc i
    | x => xglmAct s tile c x

/-- Bytes of an instruction. -/
def CigonLine.bytes (l : CigonLine) : Nat := if isEngine l.word then 8 else 4

/-- MISALIGNED_TARGET of an offset at which no instruction starts: outside the code with detail 1 (R25, R461). -/
def State.cigonOutside (s : State) (c : Ctx) (off : Nat) : Trap :=
  let inside := ((s.objectOf c).map fun o => o.cigon.any fun l => decide (off < l.off + l.bytes)).getD false
  { cause := causeMisalignedTarget, detail := if inside then 0 else 1 }

/-- The next Cigon instruction of a context dispatches: it acts, or its native syllable enters its queue; either takes a free number of
cycles (log 58). -/
def State.cigonDispatch (s : State) (tile place : Nat) : State :=
  match s.ctx? tile place with
  | none => s
  | some c0 =>
    match c0.cigon with
    | none => s
    | some g0 =>
      let c := c0.landed.paid g0.owed
      let g := { g0 with owed := .nothing }
      match s.cigonLine c g.pc with
      | none => (s.putCtx tile place c).refuseZero tile place 7 (s.cigonOutside c g.pc)
      | some l =>
        let c := { c with pc := l.addr }
        let s := s.putCtx tile place { c with cigon := some g }
        match s.beforeDispatch tile c 0 (l.addr + 4) with
        | some t => s.refuse tile place 7 t
        | none =>
          let clock := s.clock tile
          let ready := clock + 1 + Config.delay s.free
          let s := { s with free := s.free + 1 }
          let next (off : Nat) : Nat := ((s.cigonLine c off).map (·.addr)).getD l.addr
          match cigonAct s tile c g l with
          | .trap s1 slot t => (s1.putCtx tile place { c with cigon := some g }).refuseZero tile place slot t
          | .done s1 c1 g1 =>
            let f : Flight :=
              { seq := c.seq, addr := l.addr, next := next g1.pc, disp := clock, present := 0, done := 0, rrb := 0, loops := 0, remainder := 0
                rows := [] }
            let c2 := { c1.advance clock 0 f with cigon := some { g1 with ready := ready } }
            (((s1.putCtx tile place c2).vaultStart tile c2).count tile 0 1).sample tile place l.addr
          | .native c1 slot scope i rows owed =>
            let g1 := { g with pc := g.pc + l.bytes, owed := owed, ready := ready }
            let c1 := { c1 with cigon := some g1 }
            (s.putCtx tile place c1).issue tile place c1
              { words := [(slot, lendOf i, encode i)], next := next g1.pc, stall := 0, scope := scope, skips := (0, c1.skips), rows := rows }

end Sys2Proof.Machine
end

