-- ==== Sys2Proof/Machine/Slices.lean ====
section
/-! DEFINITION. Loop tables and slices (03_execution R60-R67): the slice list of each launch tile, by formula. -/

namespace Sys2Proof.Machine

/-- The product of the extents of levels. -/
def extents (l : List Level) : Nat := (l.map (·.extent)).foldl (· * ·) 1

/-- The levels before the spatial block; none of them where there is no spatial level (R61, R62). -/
def Launch.outer (l : Launch) : List Level :=
  if l.levels.any fun v => v.kind != 0 then l.levels.takeWhile fun v => v.kind == 0 else []

/-- The spatial levels. -/
def Launch.spatial (l : Launch) : List Level := l.levels.filter fun v => v.kind != 0

/-- R, and Sp, Sd, St by kind 3, 2, 1 (R62). -/
def Launch.rounds (l : Launch) : Nat := extents l.outer
def Launch.width (l : Launch) (kind : Nat) : Nat := extents (l.levels.filter fun v => v.kind == kind)

/-- Whether there are levels of a kind. -/
def Launch.stage (l : Launch) (kind : Nat) : Bool := l.levels.any fun v => v.kind == kind

/-- R63: split n items over U units; unit u receives [lo, hi). -/
def splitRange (n u units : Nat) : Nat × Nat := (u * n / units, (u + 1) * n / units)

/-- Launch tiles (R58). -/
def Launch.tiles (l : Launch) : Nat := 18 * l.partitions.length

/-- The package ordinal and die of a launch tile. -/
def Launch.dieAt (l : Launch) (t : Nat) : Nat × Nat :=
  let p := l.partitions.getD (t / 18) (0, 0)
  (p.1, p.2 / 16)

/-- The launch tile of a logical tile of this package. -/
def Launch.tileIndex (l : Launch) (tile : Nat) : Option Nat :=
  (l.partitions.findIdx? fun p => p == (l.ordinal, partOf tile)).map fun n => 18 * n + partIndex tile

/-- The group index of a launch tile (R64). -/
def Launch.groupIndex (l : Launch) (t : Nat) : Nat := (l.place.findIdx? (· == t)).getD t

/-- The ranges of the package, die and tile stages for a launch tile (R63). -/
def Launch.ranges (l : Launch) (t : Nat) : (Nat × Nat) × (Nat × Nat) × (Nat × Nat) :=
  let home := l.dieAt t
  let all := List.range l.tiles
  let dies := ((all.map l.dieAt).eraseDups).filter fun d => !l.stage 3 || d.1 == home.1
  let pool := all.filter fun x =>
    if l.stage 2 then l.dieAt x == home else if l.stage 3 then (l.dieAt x).1 == home.1 else true
  let rank := (pool.filter fun x => l.groupIndex x < l.groupIndex t).length
  (if l.stage 3 then splitRange (l.width 3) home.1 l.packages else (0, 1),
   if l.stage 2 then splitRange (l.width 2) (dies.findIdx fun d => d == home) dies.length else (0, 1),
   splitRange (l.width 1) rank pool.length)

/-- L, the length of a launch tile's slice list. -/
def Launch.sliceCount (l : Launch) (t : Nat) : Nat :=
  let r := l.ranges t
  l.rounds * (r.1.2 - r.1.1) * (r.2.1.2 - r.2.1.1) * (r.2.2.2 - r.2.2.1)

/-- Entry j of a launch tile's slice list (R63). -/
def Launch.sliceAt (l : Launch) (t j : Nat) : Nat :=
  let r := l.ranges t
  let np := r.1.2 - r.1.1
  let nd := r.2.1.2 - r.2.1.1
  let nt := r.2.2.2 - r.2.2.1
  let round := j / (np * nd * nt)
  let sp := r.1.1 + j / (nd * nt) % np
  let sd := r.2.1.1 + j / nt % nd
  let st := r.2.2.1 + j % nt
  round * (l.width 3 * l.width 2 * l.width 1) + (sp * l.width 2 + sd) * l.width 1 + st

/-- The coordinate of the level at a walk position in a slice; 0 for an inner temporal level or beyond the count (R62, R174). -/
def Launch.coordinate (l : Launch) (slice pos : Nat) : Word64 :=
  let walked := l.outer ++ l.spatial
  match walked[pos]? with
  | none => 0
  | some v => BitVec.ofInt 64 ((slice / extents (walked.drop (pos + 1)) % v.extent : Nat) * v.step)

/-- The next slice of a context (R65, R174): its index, and the launch once it is handed out. -/
def Launch.nextSlice (l : Launch) (home num pos : Nat) : Option (Nat × Launch) :=
  if l.deterministic then
    let j := num + pos * l.contexts
    if j < l.sliceCount home then some (l.sliceAt home j, l) else none
  else
    let j := l.claimed.getD home 0
    if j < l.sliceCount home then some (l.sliceAt home j, { l with claimed := l.claimed.put home (j + 1) }) else none

end Sys2Proof.Machine
end

