-- ==== Sys2Proof/Machine/Routes.lean ====
section
/-! DEFINITION. Routes of the mesh (14_mesh R334-R339): hops, latencies and segments of flows, the flows of a context, and the
checks of the mesh syllables. -/

namespace Sys2Proof.Machine

/-! ### Tiles and links -/

/-- The row and column of a logical tile in its die (R11). -/
def rowOf (tile : Nat) : Nat := tile % 288 / 18
def colOf (tile : Nat) : Nat := tile % 18

/-- The difference of two numbers. -/
def apart (a b : Nat) : Nat := (a - b) + (b - a)

/-- Hops of a dimension-order route within a die (R337). -/
def hops (a b : Nat) : Nat := apart (rowOf a) (rowOf b) + apart (colOf a) (colOf b)

/-- The tile that a die's hub bridge joins (R334). -/
def bridgeTile (tile : Nat) : Nat := 288 * dieOf tile + 8

/-- The logical tile of a launch tile, if it is in this package. -/
def Launch.localTile (l : Launch) (k : Nat) : Option Nat :=
  let p := l.partitions.getD (k / 18) (0, 0)
  if k < l.tiles && p.1 = l.ordinal then some (partTile p.2 (k % 18)) else none

/-- The logical tile of a launch tile in its own package, with that package's ordinal. -/
def Launch.anyTile (l : Launch) (k : Nat) : Nat × Nat :=
  let p := l.partitions.getD (k / 18) (0, 0)
  (p.1, partTile p.2 (k % 18))

/-- The latency of a route between two tiles of this package (Table 14.2). -/
def latencyHere (a b : Nat) : Nat :=
  if dieOf a = dieOf b then 4 + 2 * hops a b else 4 + 2 * hops a (bridgeTile a) + 40 + 2 * hops (bridgeTile b) b

/-- Cycles after departure in which a beat of a tile reaches the link ports of its own hub (Table 14.2). -/
def toLink (a : Nat) : Nat := 2 + 2 * hops a (bridgeTile a) + 24

/-- Cycles from the release of a beat into a hub to its arrival at a tile (Table 14.2). -/
def fromLink (b : Nat) : Nat := 26 + 2 * hops (bridgeTile b) b

/-- The link port of this package toward another package of a launch, by its ordinal, and the padding of that port. -/
def Launch.port (l : Launch) (ordinal : Nat) : Nat := (l.toward.getD ordinal (16, 0)).1
def Launch.padding (l : Launch) (ordinal : Nat) : Nat := (l.toward.getD ordinal (16, 0)).2

/-- The cycles of the links between two packages of a launch (R337): into this package the last of them is the padding of its own port; the
others are in registers of other packages (log 3). -/
def Launch.transit (l : Launch) (a b : Nat) : Nat := Config.transit a b + if b = l.ordinal then l.padding a else 0

/-- The latency of a route between two launch tiles. -/
def Launch.latency (l : Launch) (source dest : Nat) : Nat :=
  let a := l.anyTile source
  let b := l.anyTile dest
  if a.1 = b.1 then latencyHere a.2 b.2 else toLink a.2 + l.transit a.1 b.1 + fromLink b.2

/-! ### Segments (R337, R338) -/

/-- The links of a dimension-order route within a die, as tile and direction (0 north, 1 east, 2 south, 3 west). -/
def linkPath : Nat → Nat → Nat → List (Nat × Nat)
  | 0, _, _ => []
  | n + 1, a, b =>
    if colOf a < colOf b then (a, 1) :: linkPath n (a + 1) b
    else if colOf b < colOf a then (a, 3) :: linkPath n (a - 1) b
    else if rowOf a < rowOf b then (a, 2) :: linkPath n (a + 18) b
    else if rowOf b < rowOf a then (a, 0) :: linkPath n (a - 18) b
    else []

/-- The links of a route within a die, each with the cycles after departure in which a beat enters it. -/
def linksFrom (start a b : Nat) : List (Nat × Nat × Nat) :=
  (linkPath 64 a b).mapIdx fun h x => (4 * x.1 + x.2, 3, start + 2 * h)

/-- The segments of a route in this package, those of a beat that another package sends among them, as number, kind and
cycle after departure: kinds 0 injection, 1 ejection, 2 a bridge toward the hub, 3 a mesh link, 4 a bridge toward a die, 5 a link port. -/
def Launch.segments (l : Launch) (source dest : Nat) (farthest : Nat) : List (Nat × Nat × Nat) :=
  let a := l.anyTile source
  let b := l.anyTile dest
  let up := 2 + 2 * hops a.2 (bridgeTile a.2)
  let out : List (Nat × Nat × Nat) := linksFrom 2 a.2 (bridgeTile a.2) ++ [(dieOf a.2, 2, up)]
  let released := toLink a.2 + l.transit a.1 b.1
  if a.1 != l.ordinal then
    (if b.1 != l.ordinal then []
     else [(dieOf b.2, 4, released + 8)] ++ linksFrom (released + 24) (bridgeTile b.2) b.2 ++ [(b.2, 1, farthest)])
  else if a.1 = b.1 then
    (if dieOf a.2 = dieOf b.2 then linksFrom 2 a.2 b.2
     else out ++ [(dieOf b.2, 4, up + 24)] ++ linksFrom (up + 40) (bridgeTile b.2) b.2) ++ [(a.2, 0, 0), (b.2, 1, farthest)]
  else out ++ [(l.port b.1, 5, up + 24), (a.2, 0, 0)]

/-- The segments of a flow in this package, each with the slots of the frame in which its beats enter it. -/
def Launch.occupied (l : Launch) (f : Flow) : List (Nat × Nat × Nat) :=
  let s := (f.dests.flatMap fun d => l.segments f.source d f.latency).eraseDups
  f.slots.flatMap fun slot => s.map fun x => (x.1, x.2.1, (slot + x.2.2) % 64)

/-! ### Copy beats (R339) -/

/-- The tile at the far end of a link. -/
def linkEnd (x : Nat × Nat) : Nat :=
  match x.2 with
  | 0 => x.1 - 18
  | 1 => x.1 + 1
  | 2 => x.1 + 18
  | _ => x.1 - 1

/-- Whether a route within a die crosses a link between two tiles of a launch's partitions. -/
def Launch.crossed (l : Launch) (a b : Nat) : Bool :=
  (linkPath 64 a b).any fun x => (l.tileIndex x.1).isSome && (l.tileIndex (linkEnd x)).isSome

/-- Whether a route in dies, given as legs, crosses such links of a running deterministic launch other than its own, in the dimension order
or, turned, in the other one: the route that starts with the column has the links of the way back that starts with the row. -/
def State.crosses (s : State) (own : Option Nat) (turned : Bool) (legs : List (Nat × Nat)) : Bool :=
  s.hub.launches.any fun (x : Nat × Launch) => x.2.deterministic && x.2.start.isSome && own != some x.1 &&
    legs.any fun p => if turned then x.2.crossed p.2 p.1 else x.2.crossed p.1 p.2

/-- The links of a leg within a die, in either dimension order, each with the cycles after departure in which a beat enters it. -/
def legLinks (start : Nat) (turned : Bool) (a b : Nat) : List (Nat × Nat × Nat) :=
  (if turned then (linkPath 64 b a).reverse.map fun x => (linkEnd x, (x.2 + 2) % 4) else linkPath 64 a b).mapIdx fun h x =>
    (4 * x.1 + x.2, 3, start + 2 * h)

/-- The segments of a copy beat between two tiles, or a tile and the hub. Between neighbouring dies it takes their bridge, which holds no
slot (R334). -/
def beatSegments (turned : Bool) : Option Nat → Option Nat → List (Nat × Nat × Nat)
  | some a, some b =>
    let up := 2 + 2 * hops a (bridgeTile a)
    if a = b then []
    else
      (a, 0, 0) :: (if dieOf a = dieOf b then legLinks 2 turned a b
        else legLinks 2 turned a (bridgeTile a) ++
          (if apart (dieOf a) (dieOf b) = 1 then [] else [(dieOf a, 2, up), (dieOf b, 4, up + 24)]) ++
          legLinks (up + 40) turned (bridgeTile b) b) ++ [(b, 1, latencyHere a b)]
  | some a, none => (a, 0, 0) :: legLinks 2 turned a (bridgeTile a) ++ [(dieOf a, 2, 2 + 2 * hops a (bridgeTile a))]
  | none, some b => (dieOf b, 4, 0) :: legLinks 16 turned (bridgeTile b) b ++ [(b, 1, 16 + 2 * hops (bridgeTile b) b)]
  | none, none => []

/-- The cycles that a beat travels. -/
def travel (segments : List (Nat × Nat × Nat)) : Nat := segments.foldl (fun n x => max n x.2.2) 0

/-- The slots that the flows of running launches take. -/
def State.flowSlots (s : State) : List (Nat × Nat × Nat) :=
  (s.hub.launches.filter fun (l : Nat × Launch) => l.2.start.isSome).flatMap fun l => l.2.flows.flatMap l.2.occupied

/-- Whether every slot that a beat starting n cycles from now needs is free of flows and of other copy beats. -/
def State.slotsFree (s : State) (flows : List (Nat × Nat × Nat)) (segments : List (Nat × Nat × Nat)) (n : Nat) : Bool :=
  segments.all fun x =>
    !flows.contains (x.1, x.2.1, (s.cycle.toNat + n + x.2.2) % 64) && !s.links.contains (8 * x.1 + x.2.1, s.time + n + x.2.2)

/-- Takes those slots. -/
def State.takeSlots (s : State) (segments : List (Nat × Nat × Nat)) (n : Nat) : State :=
  { s with links := s.links ++ segments.map fun (x : Nat × Nat × Nat) => (8 * x.1 + x.2.1, s.time + n + x.2.2) }

/-- The first start at which they are free. -/
def State.firstFree (s : State) (flows : List (Nat × Nat × Nat)) (segments : List (Nat × Nat × Nat)) : Nat → Nat → Nat
  | 0, n => n
  | fuel + 1, n => if s.slotsFree flows segments n then n else s.firstFree flows segments fuel (n + 1)

/-! ### The flows of a context (R336) -/

/-- The flow that a context sends on. -/
def State.flowOut (s : State) (c : Ctx) (flow : Nat) : Option Flow :=
  (s.launchOf c).bind fun l => l.flows.find? fun f => f.flow == flow && f.source == c.home && f.sourceCtx == c.num

/-- The flow that a context receives. -/
def State.flowIn (s : State) (c : Ctx) (flow : Nat) : Option Flow :=
  (s.launchOf c).bind fun l => l.flows.find? fun f => f.flow == flow && f.destCtx == c.num && f.dests.contains c.home

/-- Whether a scope of a tile covers a launch tile (Table 4.4). -/
def State.coversTile (s : State) (l : Launch) (scope tile k : Nat) : Bool :=
  match l.localTile k with
  | some t => s.covers scope tile ⟨s.packageId, 1, t, 0⟩
  | none => 4 ≤ scope

/-! ### Checks of MSEND, MCAST and MLAND (R348, R349) -/

/-- The row address and the arrival cycle of a mesh syllable. -/
def meshRow (c : Ctx) (q : Queued) (ga : BitVec 6) : Nat := (c.gRaw q ga).toNat

/-- The checks that the mesh syllables share. -/
def State.meshRows (s : State) (tile : Nat) (c : Ctx) (q : Queued) (ga gb : BitVec 6) (n : Nat) (wr : Bool) : Option Trap :=
  let a := meshRow c q ga
  firstTrap [sramRange a (128 * n) 0x0E06 0x0E07 128, s.setCheck tile c q.group 4 (!wr) wr false false a (128 * n),
    if c.gPoisoned q ga then some (poisonG ga) else if c.gPoisoned q gb then some (poisonG gb) else none]

/-- MESH_SLOT with a detail. -/
def meshSlot (detail : Nat) : Trap := { cause := causeMeshSlot, detail := detail }

/-- The checks of MSEND and MCAST: the flow that the beats take. -/
def State.sendCheck (s : State) (tile : Nat) (c : Ctx) (q : Queued) (ga gb : BitVec 6) (n : Nat) (flow : Nat) (multicast : Bool) :
    Except Trap Flow :=
  match s.meshRows tile c q ga gb n false with
  | some t => .error t
  | none =>
    match s.flowOut c flow, s.launchOf c with
    | some f, some l =>
      let first : Int := ((c.gRaw q gb).toNat : Int) - (f.latency : Int)
      if f.multicast != multicast then .error (meshSlot 0x0E01)
      else if !f.dests.all fun k => s.coversTile l q.scope.toNat tile k then .error (meshSlot 0x0E03)
      else if (List.range n).any fun i => !f.slots.contains ((first + i) % 64).toNat then .error (meshSlot 0x0E02)
      else if (s.cycle.toNat : Int) + 65536 < first then .error (meshSlot 0x0E08)
      else .ok f
    | _, _ => .error (meshSlot 0x0E00)

/-- The beats that an MLAND claims. -/
def landKeys (c : Ctx) (q : Queued) (gb : BitVec 6) (n flow : Nat) : List (Nat × Nat × Nat × Word64) :=
  (List.range n).map fun i => (c.launch, c.num, flow, c.gRaw q gb + BitVec.ofNat 64 i)

/-- Whether a beat is in the landing buffer. -/
def Tile.landed (t : Tile) (k : Nat × Nat × Nat × Word64) : Bool :=
  t.landing.any fun b => (b.launch, b.num, b.flow, b.arrival) == k

/-- The checks of MLAND. -/
def State.landCheck (s : State) (tile : Nat) (c : Ctx) (q : Queued) (ga gb : BitVec 6) (n flow : Nat) : Option Trap :=
  firstTrap [s.meshRows tile c q ga gb n true, if (s.flowIn c flow).isNone then some (meshSlot 0x0E00) else none]

/-! ### A frozen tile (R342) -/

/-- The MLAND at the head of the Q queue of a place, with its syllable and the beats it claims. -/
def State.landingHead (s : State) (tile place : Nat) : Option (Queued × List (Nat × Nat × Nat × Word64)) :=
  match s.ctx? tile place with
  | none => none
  | some c =>
    match (c.queue 6).head? with
    | none => none
    | some q =>
      match decode q.slot q.lend q.word with
      | .ok (.mland _ gb n flow) => some (q, landKeys c q gb (n.toNat + 1) flow.toNat)
      | _ => none

/-- Whether a beat that the MLAND of a place awaits carries the link-delay mark or is named by a hold entry. -/
def State.awaitsLink (s : State) (tile place : Nat) : Bool :=
  let t := s.tile tile
  (s.landingHead tile place).any fun x => x.2.any fun k =>
    t.holds.contains k || t.landing.any fun b => b.linked && (b.launch, b.num, b.flow, b.arrival) == k

/-- The end of a freeze: every context of the tile counts its cycles, 0x9 where an awaited beat carries the link-delay mark or is
named by a hold entry. -/
def State.thaw (s : State) (tile : Nat) : State :=
  match (s.tile tile).freeze with
  | none => s
  | some f =>
    let n := s.time + 1 - f.since
    let by_ : Word64 := BitVec.ofNat 64 n
    let linked := f.linked || s.awaitsLink tile f.place
    let s := s.updTile tile fun t => { t with freeze := none, thawed := if f.stands ≤ s.time then s.time + 1 else t.thawed }
    if n = 0 then s
    else
      [0, 1, 2, 3].foldl (fun s p =>
        match (s.endEpisode tile p).ctx? tile p with
        | none => s
        | some c =>
          let cause := if c.away || c.heldByDebug then 14 else if linked then 9 else 4
          let c := { c with lost := none, episode := some ⟨c.pc, cause, 7, s.cycle - BitVec.ofNat 64 (n - 1), n⟩ }
          ((s.endEpisode tile p).putCtx tile p (c.deviate cause by_)).count tile cause by_) s

end Sys2Proof.Machine
end

