-- ==== Sys2Proof/Machine/Checks.lean ====
section
/-! DEFINITION. The checks that the Q syllables of the barrier unit, Yarrow and Sorrel make when they reach their engines (R361, R386,
R409), and the entries, slots and chains that they name. -/

namespace Sys2Proof.Machine

/-- POISON for the first poisoned of some g operands. -/
def Ctx.firstPoison (c : Ctx) (q : Queued) (l : List (BitVec 6)) : Option Trap :=
  (l.find? fun n => c.gPoisoned q n).map poisonG

/-- POISON for the first poisoned granule of a data SRAM range (detail 0x0022). -/
def State.poisonRange (s : State) (tile a n : Nat) : Option Trap :=
  ((granules a n).find? fun k => s.poisoned (sramKey tile (64 * k)) 64).map fun k =>
    { cause := causePoison, detail := 0x22, address := BitVec.ofNat 64 (64 * k) }

/-- A check with a cause and a detail. -/
def need (ok : Bool) (cause detail : Nat) : Option Trap := if ok then none else some { cause := cause, detail := detail }

/-! ### Barriers (R356, R361) -/

/-- A barrier id (Table 15.2): the home's launch tile and the object, none where it breaks the table. -/
def Launch.barrierId (l : Launch) (v : Word64) : Option (Nat × Nat) :=
  let n := bitsOf v.toNat 16 20
  let k := bitsOf v.toNat 4 5
  if bitsOf v.toNat 36 28 = 0 && bitsOf v.toNat 9 7 = 0 && n < l.partitions.length && k < 18 then some (18 * n + k, bitsOf v.toNat 0 4)
  else none

/-- The checks of a barrier syllable: the home's launch tile and the object. -/
def State.barrierCheck (s : State) (tile : Nat) (c : Ctx) (q : Queued) (id : BitVec 6) (others : List (BitVec 6)) :
    Except Trap (Nat × Nat) :=
  match c.firstPoison q (id :: others), s.launchOf c with
  | some t, _ => .error t
  | none, none => .error { cause := causeBarrierError, detail := 0x0F00 }
  | none, some l =>
    match l.barrierId (c.gRaw q id) with
    | none => .error { cause := causeBarrierError, detail := 0x0F00 }
    | some x => if s.coversTile l q.scope.toNat tile x.1 then .ok x else .error { cause := causeBarrierError, detail := 0x0F01 }

/-! ### Pages (R378, R386) -/

/-- Head dimension. -/
def headDim (d128 : Bool) : Nat := if d128 then 128 else 64

/-- DOME_ERROR unless a condition holds. -/
def domeNeed (ok : Bool) (detail : Nat) : Option Trap := need ok causeDomeError detail

/-- A page id (Table 16.2) of the issuer's own partition: the owner's logical tile and the entry. -/
def State.pageId (s : State) (tile : Nat) (c : Ctx) (v : Word64) : Option (Nat × Nat) :=
  let k := bitsOf v.toNat 8 5
  if bitsOf v.toNat 36 28 = 0 && bitsOf v.toNat 13 3 = 0 && bitsOf v.toNat 6 2 = 0 && k < 18 &&
      ((s.launchOf c).bind fun l => l.tileIndex tile).map (· / 18) == some (bitsOf v.toNat 16 20) then
    some (partTile (partOf tile) k, bitsOf v.toNat 0 6)
  else none

/-- The SRAM_RANGE check of Yarrow. -/
def yarrowRange (a n align : Nat) : Option Trap := sramRange a n 0x100C 0x100D align

def State.pgsubCheck (s : State) (tile : Nat) (c : Ctx) (q : Queued) (ga gb : BitVec 6) (d128 : Bool) : Option Trap :=
  let a := (c.gRaw q gb).toNat
  let n := 256 * headDim d128
  firstTrap [yarrowRange a n 128, s.setCheck tile c q.group 5 false true false false a n, c.firstPoison q [ga, gb],
    domeNeed ((s.pageId tile c (c.gRaw q ga)).isSome && q.scope != 0) 0x1009]

def State.pgunsubCheck (s : State) (tile : Nat) (c : Ctx) (q : Queued) (ga : BitVec 6) : Option Trap :=
  firstTrap [c.firstPoison q [ga], domeNeed ((s.pageId tile c (c.gRaw q ga)).isSome && q.scope != 0) 0x1009]

/-- A page entry of a tile. -/
def Tile.page (t : Tile) (n : Nat) : PageEntry := t.pages.getD n PageEntry.free

def State.pgcastCheck (s : State) (tile : Nat) (c : Ctx) (q : Queued) (ga gb : BitVec 6) (d128 : Bool) : Option Trap :=
  let a := (c.gRaw q ga).toNat
  let n := 256 * headDim d128
  let owner := ((s.tile tile).page (bitsOf (c.gRaw q gb).toNat 0 6)).owner
  firstTrap [yarrowRange a n 128, s.setCheck tile c q.group 5 true false false false a n, c.firstPoison q [ga, gb],
    domeNeed (decide ((c.gRaw q gb).toNat < 64) && q.scope != 0) 0x1009, domeNeed (owner.isNone || owner == some c.launch) 0x1007]

/-! ### The Dome (R386, R389-R391) -/

/-- The slot that a g operand names. -/
def Tile.slot? (t : Tile) (v : Word64) : Option DomeSlot := Table.find? t.dome (bitsOf v.toNat 0 6)

/-- Whether the slot is open for a launch with d = 128, which its sizes follow; 64 otherwise. -/
def slotDim (x : Option DomeSlot) (launch : Nat) : Nat :=
  match x with
  | some d => if d.owner = launch then headDim d.d128 else 64
  | none => 64

/-- Bytes of a record (R114). -/
def recordBytes (d : Nat) : Nat := 64 + 4 * d

/-- The slot is open, and the launch's own. -/
def slotOpen (x : Option DomeSlot) (launch : Nat) : List (Option Trap) :=
  [domeNeed x.isSome 0x1000, domeNeed (x.all fun d => d.owner == launch) 0x1002]

def State.mrgopenCheck (s : State) (tile : Nat) (c : Ctx) (q : Queued) (ga : BitVec 6) : Option Trap :=
  let v := c.gRaw q ga
  let x := (s.tile tile).slot? v
  let n := bitsOf v.toNat 8 7
  firstTrap [c.firstPoison q [ga], domeNeed (decide (v.toNat < 2 ^ 15) && bitsOf v.toNat 6 2 == 0) 0x1009,
    domeNeed (x.all fun d => d.owner == c.launch) 0x1002, domeNeed x.isNone 0x1001, domeNeed (decide (0 < n ∧ n ≤ 64)) 0x100B]

def State.mrgCheck (s : State) (tile : Nat) (c : Ctx) (q : Queued) (ga gb : BitVec 6) : Option Trap :=
  let a := (c.gRaw q ga).toNat
  let v := c.gRaw q gb
  let x := (s.tile tile).slot? v
  let n := recordBytes (slotDim x c.launch)
  let k := bitsOf v.toNat 8 6
  firstTrap ([yarrowRange a n 64, s.setCheck tile c q.group 5 true false false false a n, c.firstPoison q [ga, gb],
    s.poisonRange tile a n, domeNeed (decide (v.toNat < 2 ^ 14) && bitsOf v.toNat 6 2 == 0) 0x1009] ++ slotOpen x c.launch ++
    [domeNeed (x.all fun d => decide (k < d.n) && !d.mask.getLsbD k) 0x1004])

/-- Whether bits 0 to n - 1 of the completeness mask are set. -/
def DomeSlot.complete (d : DomeSlot) : Bool := (List.range d.n).all fun k => d.mask.getLsbD k

/-- Bytes that MRGFIN writes. -/
def finBytes (d : Nat) (bf16 raw : Bool) : Nat := if raw then recordBytes d else if bf16 then 2 * d else 4 * d

def State.mrgfinCheck (s : State) (tile : Nat) (c : Ctx) (q : Queued) (ga gb : BitVec 6) (bf16 raw : Bool) : Option Trap :=
  let a := (c.gRaw q ga).toNat
  let v := c.gRaw q gb
  let x := (s.tile tile).slot? v
  let n := finBytes (slotDim x c.launch) bf16 raw
  firstTrap ([yarrowRange a n 64, s.setCheck tile c q.group 5 false true false false a n, c.firstPoison q [ga, gb],
    domeNeed (decide (v.toNat < 64)) 0x1009] ++ slotOpen x c.launch ++ [domeNeed (x.all DomeSlot.complete) 0x1005])

/-- Reorder entries in use: parked partials, and those whose merge has not ended. -/
def Tile.reorderUsed (t : Tile) : Nat := t.parked.length + (t.merges.filter (·.entry)).length

/-- Records that wait in the merge queue. -/
def Tile.mergeWaiting (t : Tile) : Nat := t.merges.length - (if t.merging.isSome then 1 else 0)

/-! ### Sorrel (R398-R400, R409) -/

/-- The first partition of the chain that holds a partition's field, and the chain. -/
def State.chainOf (s : State) (part : Nat) : Nat × SfChain :=
  match List.find? (fun (x : Nat × SfChain) => x.1 ≤ part && part < x.1 + x.2.m && x.1 / 16 == part / 16) s.hub.chains with
  | some x => x
  | none => (part, SfChain.single 0)

/-- Changes a chain. -/
def State.updChain (s : State) (key : Nat) (f : SfChain → SfChain) : State :=
  { s with hub := { s.hub with chains := s.hub.chains.put key (f (s.chainOf key).2) } }

/-- The checks of an SF syllable that follow its own: ownership and scope. -/
def State.fieldCheck (s : State) (tile : Nat) (c : Ctx) (q : Queued) (operands : Bool) : List (Option Trap) :=
  let x := s.chainOf (partOf tile)
  [need (Table.find? s.hub.owners (partOf tile) == some c.launch) causeFieldError 0x1100,
   need (2 ≤ q.scope.toNat || (q.scope == 1 && x.2.m == 1)) causeFieldError 0x1101, need operands causeFieldError 0x1102]

/-- First index and count of a range register, and whether it keeps to R408. -/
def rangeOf (v : Word64) : Nat × Nat × Bool :=
  let q := bitsOf v.toNat 32 19
  (bitsOf v.toNat 0 18, q, bitsOf v.toNat 18 14 == 0 && bitsOf v.toNat 51 13 == 0 && decide (0 < q ∧ q ≤ 262144))

/-- The checks of an SF syllable with an image: size in bytes for a count, whether the image is written. -/
def State.imageCheck (s : State) (tile : Nat) (c : Ctx) (q : Queued) (ga gb : BitVec 6) (size : Nat → Nat) (wr : Bool) : Option Trap :=
  let a := (c.gRaw q ga).toNat
  let r := rangeOf (c.gRaw q gb)
  let n := size r.2.1
  firstTrap ([sramRange a n 0x1109 0x110A 64, s.setCheck tile c q.group 6 (!wr) wr false false a n, c.firstPoison q [ga, gb],
    if wr then none else s.poisonRange tile a n] ++ s.fieldCheck tile c q r.2.2)

/-- Bytes of an SFLOAD image. -/
def loadBytes (ns : BitVec 6) (n : Nat) : Nat := n * (4 + 4 * ns.toNat)

def State.sweepCheck (s : State) (tile : Nat) (c : Ctx) (q : Queued) (ga gb : BitVec 6) : Option Trap :=
  firstTrap (c.firstPoison q [ga, gb] :: s.fieldCheck tile c q (decide ((c.gRaw q ga).toNat < 2 ^ 32 ∧ (c.gRaw q gb).toNat < 2 ^ 8)))

end Sys2Proof.Machine
end

