-- ==== Sys2Proof/Machine/Leave.lean ====
section
/-! DEFINITION. The leaving of the slot queues (R74): what holds the head of each queue, and the step that takes it to its
engine. -/

namespace Sys2Proof.Machine

/-! ### Order among the accesses of a context (R89, R93-R96) -/

/-- Syllables that leave their queue whatever release they wait for, and whose operation waits at its engine (R310). -/
def waitsAtEngine : Instr → Bool
  | .cpy _ _ _ _ _ _ | .cpyb _ _ _ | .cpych _ _ _ _ | .accw _ _ _ _ _ _ _ | .casw _ _ _ _ _ _ => true
  | _ => false

/-- The homes that a copy syllable names, none where only a walk could tell: an access of it to a home outside an acquire's scope is not held
(R94). -/
def State.namedHomes (s : State) (tile : Nat) (c : Ctx) (q : Queued) : Instr → List (Option Home)
  | .cpy ga gb dkind skind _ _ => [s.operandHome tile dkind.toNat (c.gRaw q ga), s.operandHome tile skind.toNat (c.gRaw q gb)]
  | .accw ga _ _ _ _ kind _ | .casw ga _ _ _ kind _ => [s.operandHome tile kind.toNat (c.gRaw q ga)]
  | .cpyb hd hs _ =>
    let one (h : BitVec 4) : Option Home :=
      let d := (c.regsAt q.disp).h.getD h.toNat 0
      s.operandHome tile d.space (BitVec.ofNat 64 d.base)
    [one hd, one hs]
  | _ => [none]

/-- Fences before a syllable's accesses, an older MLAND whose rows it is to see (R95, R351), acquires and its own release; the wait counts under no cause of its own (R164, R493). -/
def State.orderHold (s : State) (tile : Nat) (c : Ctx) (q : Queued) (i : Instr) : Option Nat :=
  let reads := (pathsOf i).any fun p => !p.2 || p.1 == 2 || p.1 == 3
  let landing := reads && (c.queue 6).any fun x => decide (x.seq < q.seq) && (match decode x.slot x.lend x.word with
    | .ok (.mland _ _ _ _) => true
    | _ => false)
  let acquiring := !(pathsOf i).isEmpty && (c.acquires q).any fun a =>
    !waitsAtEngine i || (s.namedHomes tile c q i).any fun h => h.all (s.covers a.scope.toNat tile)
  if s.fenced tile c q i || landing || acquiring || (!waitsAtEngine i && isRelease i && s.unpublished tile c q.seq q.scope.toNat) then some 0
  else none

/-! ### Per engine -/

/-- The bytes of an SC access. -/
def scAccess (c : Ctx) (q : Queued) : Instr → Option (Nat × Nat)
  | .ld o | .ldacq o | .st o | .strel o => some ((eaOff c q o.base o.off o.lend).toNat, sizeBytes o.size)
  | .ldx o | .stx o => some ((eaIdx c q o).toNat, sizeBytes o.size)
  | .hld o | .hst o => some ((eaOff c q o.base o.off o.lend).toNat, 32)
  | _ => none

/-- The lines of an SC access that lies inside the SRAM. -/
def scLinesOf (c : Ctx) (q : Queued) (i : Instr) : List Nat :=
  match scAccess c q i with
  | some (a, n) => if a + n ≤ Config.windowBase then rowLines [a, a + n - 1] else []
  | none => []

/-- An SC syllable waits for older ones, and for a line of its bank that another SC access took (R89, R199). -/
def State.scHold (s : State) (tile : Nat) (c : Ctx) (q : Queued) (i : Instr) : Option Nat :=
  if !(pathsOf i).contains (0, false) && !(pathsOf i).contains (0, true) then none
  else
    let before (x : Queued) : Bool := (x.seq < q.seq || (x.seq == q.seq && x.slot < q.slot)) &&
      (match decode x.slot x.lend x.word with | .ok j => (pathsOf j).any fun p => p.1 == 0 | .error _ => false)
    match ((c.queue 1) ++ (c.queue 2)).find? before with
    | some x => some x.held
    | none =>
      let t := s.tile tile
      if (scLinesOf c q i).any fun l => t.scLines.any fun k => k % 16 == l % 16 && k != l then some 3 else none

/-- Whether a syllable reads or writes the SRAM on path ST beside stream rows. -/
def directST : Instr → Bool
  | .vldx _ | .vstx _ | .pushx _ _ _ _ _ | .pushg _ _ _ _ _ => true
  | _ => false

/-- The SRAM lines that a V, M, D or Q syllable reaches when it leaves its queue, beside those of stream rows (R252, R276, R277, R303, R348,
R349, R390, R391). -/
def State.directLines (s : State) (tile : Nat) (c : Ctx) (q : Queued) (i : Instr) : List Nat :=
  let bytes : List Nat := match i with
    | .vldx o | .vstx o => (vEnv s ⟨tile, 0, q⟩ c o 3 o.ty.toNat o.ty.toNat false).laneAddrs.map (·.2.toNat)
    | .pushx _ h _ _ _ => (c.pushxAddrs q h).filterMap id
    | .pushg _ h _ _ _ => (s.pushgGather tile c q h).reads
    | .wr o => [(colAddr c q o).toNat]
    | .wrm o => [(colAddr c q o).toNat, (colAddr c q o).toNat + 128]
    | .msend ga _ n _ _ _ | .mcast ga _ n _ _ _ | .mland ga _ n _ => (List.range (n.toNat + 1)).map fun k => meshRow c q ga + 128 * k
    | .mrg ga gb =>
      let a := (c.gRaw q ga).toNat
      (List.range 5).map fun k => a + min (128 * k) (recordBytes (slotDim ((s.tile tile).slot? (c.gRaw q gb)) c.launch) - 1)
    | .mrgfin ga gb bf16 raw =>
      let a := (c.gRaw q ga).toNat
      (List.range 5).map fun k => a + min (128 * k) (finBytes (slotDim ((s.tile tile).slot? (c.gRaw q gb)) c.launch) bf16 raw - 1)
    | _ => []
  rowLines (bytes.filter (· < Config.windowBase))

/-- Whether one of those lines finds its bank taken in this cycle (R199, R320). -/
def State.bankHold (s : State) (tile : Nat) (c : Ctx) (q : Queued) (i : Instr) : Bool :=
  let t := s.tile tile
  sameBank (s.directLines tile c q i) t.lines || t.starves (s.directLines tile c q i)

/-- A V or M syllable waits for its rows, for older accesses of its context on path ST (R89), and for its engine, which takes one in a cycle
(R234, R252, R265, R277): of several contexts' syllables that of the lowest place (DESIGN CHOICE, log 60). -/
def State.streamHold (s : State) (tile : Nat) (c : Ctx) (q : Queued) (i : Instr) : Option Nat :=
  let t := s.tile tile
  match s.rowHold tile c q with
  | some n => some n
  | none =>
    if t.accepted.contains q.slot then some 0
    else if q.slot == 3 && t.clock < t.vHeld then some 3
    else if q.slot == 4 && t.clock < t.mHeld then some 1
    else if usesST i && c.olderST q.seq || directST i && c.outRows.any (fun r => r.seq < q.seq) then some 0
    else if s.bankHold tile c q i then some 3 else none

/-- A D syllable waits for the vault interface, a forced refresh, the commands of other sources, and the SRAM bytes it reads
(R144, R290, R297, R303). -/
def State.vaultHold (s : State) (tile : Nat) (c : Ctx) (q : Queued) (i : Instr) : Option Nat :=
  let t := s.tile tile
  let v := t.vault
  let cmds := commandsOf v c i
  let others := v.bus.filter fun b => b.source != some (c.launch, c.num)
  let bank := v.increments % 32
  let engineRefreshes := s.engineBank tile bank
  let isRefpb := match i with | .refpb _ => true | _ => false
  let minimum := cmds.any fun x =>
    !(brokenRows (busOf others) s.time x.1 x.2).isEmpty ||
      (others.any fun b => s.time < b.time + 32 && b.command.activates) && (brokenRows (busOf v.bus) s.time x.1 x.2).contains 7
  let reads : Option (Nat × Nat) := match i with
    | .wr o => some ((colAddr c q o).toNat, 128)
    | .wrm o => some ((colAddr c q o).toNat, 144)
    | _ => none
  if t.clock < t.dHeld then some 14
  else if v.forced.isSome || (v.stepDue && v.debt == 8 && !engineRefreshes && !isRefpb) then some 6
  else if !cmds.isEmpty && ((v.bus.any fun b => b.time == s.time) || minimum ||
      cmds.any fun x => if x.1 == .refab then !v.closing.isEmpty || v.busy.any (fun b => decide (s.time < b.2))
        else s.time < v.busy.getD x.2 0 || v.closing.contains x.2) || s.bankHold tile c q i then some 3
  else
    match reads with
    | none => none
    | some (a, n) =>
      let hit (b m : Nat) : Bool := b < a + n && a < b + m
      if (c.allQueued.any fun x => x.seq < q.seq && x.slot < 5 && (match decode x.slot x.lend x.word with
            | .ok j => (pathsOf j).any fun p => p.1 < 2 && p.2
            | .error _ => false)) ||
          (c.outRows.any fun r => r.seq < q.seq && r.bytes.any fun b => hit b.1 1) ||
          (v.landings.any fun l => l.launch == c.launch && l.num == c.num && l.seq < q.seq && l.pieces.any fun p => hit p.1 64) then
        some 0
      else none

/-! ### The Q slot -/

/-- Bytes of a word by type (R313). -/
def accBytes (ty : Nat) : Nat := if ty = 1 || ty = 5 then 8 else if ty = 3 then 2 else 4

/-- The bytes that a CPYB moves (R312). -/
def boxBytes (d : Handle) : Nat := d.extent 1 * d.extent 2 * d.extent 3 * ((d.extent 0 * typeBits d.type + 7) / 8)

/-- The token that a Q syllable posts to, with the bytes (R321). -/
def postsOf (c : Ctx) (q : Queued) : Instr → Option (Nat × Nat)
  | .cpy _ _ _ _ t len => some (t.toNat, bitsOf (c.gRaw q len).toNat 0 32)
  | .cpyb hd _ t => some (t.toNat, boxBytes ((c.regsAt q.disp).h.getD hd.toNat 0) % 2 ^ 41)
  | .cpych _ _ t _ => some (t.toNat, 1)
  | .accw _ _ _ t ty _ _ => some (t.toNat, accBytes ty.toNat)
  | .casw _ _ t _ _ _ | .binit _ _ t | .barr _ _ t _ | .binv _ t | .bqry _ _ t _ | .sfsweep _ _ t _ | .sfqry _ t _ => some (t.toNat, 8)
  | .msend _ _ n t _ post | .mcast _ _ n t _ post => if post then some (t.toNat, 128 * (n.toNat + 1)) else none
  | .unbind p post t => if post then some (t.toNat, c.unbindBytes q p.toNat) else none
  | .pgsub _ _ t d | .pgcast _ _ t d _ => some (t.toNat, 256 * headDim d)
  | _ => none

/-- The hold of an MLAND whose last cycle has come with beats missing (R342). -/
def landMissing : Nat := 16

/-- An MLAND waits for its last cycle, and then for its beats (R349). -/
def State.landHold (s : State) (tile : Nat) (c : Ctx) (q : Queued) (ga gb : BitVec 6) (n flow : Nat) : Option Nat :=
  let keys := landKeys c q gb n flow
  if (s.landCheck tile c q ga gb n flow).isSome then none
  else if s.cycle.toNat + 1 < (c.gRaw q gb).toNat + n then some 0
  else if keys.any (s.tile tile).marks.contains || keys.all (s.tile tile).landed then none else some landMissing

/-- Sweeps of a context that the controller has not started (R413). -/
def State.sweepsWaiting (s : State) (w : Who) : Nat :=
  (s.hub.chains.map fun (x : Nat × SfChain) => (x.2.waiting.filter fun m => m.who == w && (match m.kind with
    | .sweep _ _ _ => true
    | _ => false)).length).foldl (· + ·) 0

/-- Whether a queued syllable is a C syllable that takes effect after the rest of its bundle. -/
def Queued.actsLast (q : Queued) : Bool :=
  q.slot == 0 && (match decode q.slot q.lend q.word with | .ok i => Sys2Proof.Machine.actsLast i | .error _ => false)

/-- A Q syllable waits for its engine, MRG and MRGFIN for the older accesses of their context on path YA (R89, R393), and behind a Sorrel
command under way; UNBIND for the rows of older syllables (R224), BWAIT for every other syllable but a C syllable that
acts last (R368), TOKCLR for its token (R323). -/
def State.qHold (s : State) (tile : Nat) (c : Ctx) (q : Queued) (i : Instr) : Option Nat :=
  let t := s.tile tile
  let me : Who := ⟨tile, c.launch, c.num⟩
  let when_ (b : Bool) : Option Nat := if b then some 0 else none
  let full := !q.acted && (postsOf c q i).any fun x => 2 ^ 48 ≤ (c.token x.1).remaining.toNat + x.2
  let descriptors :=
    let ops := s.copies.filter fun (x : Nat × CopyOp) => x.2.tile == tile && x.2.chain.isNone
    let owners := ops.map (fun x => x.2.owner) ++ t.channels.filterMap fun x => x.2.run.map (·.owner)
    64 ≤ owners.length || 32 ≤ (owners.filter (· == some me)).length
  if c.sf.isSome || full then some 0
  else if q.acted then none
  else
    match i with
    | .unbind p _ _ => when_ (c.allQueued.any fun x => x.seq < q.seq && x.rows.any fun u => u.port == p.toNat)
    | .cpy _ _ _ _ _ _ | .cpyb _ _ _ | .accw _ _ _ _ _ _ _ | .casw _ _ _ _ _ _ => when_ descriptors
    | .cpych _ ch _ _ => when_ (descriptors || (t.channels.getD ch.toNat Channel.stopped).running)
    | .tokclr k =>
      if (c.token k.toNat).remaining != 0 && (c.unreported (s.clock tile) [k.toNat]).isEmpty then some (s.tokenCause c [k.toNat]) else none
    | .msend ga gb n _ flow _ => (match s.sendCheck tile c q ga gb (n.toNat + 1) flow.toNat false with
      | .ok _ => when_ (16 < t.outbound.length + n.toNat + 1)
      | .error _ => none)
    | .mcast ga gb n _ flow _ => (match s.sendCheck tile c q ga gb (n.toNat + 1) flow.toNat true with
      | .ok _ => when_ (16 < t.outbound.length + n.toNat + 1)
      | .error _ => none)
    | .mland ga gb n flow => s.landHold tile c q ga gb (n.toNat + 1) flow.toNat
    | .bwait _ _ _ _ => when_ (c.allQueued.any fun x => x.seq < q.seq || (x.seq == q.seq && x.slot != 6 && !x.actsLast))
    | .pgcast ga gb _ d _ => when_ ((s.pgcastCheck tile c q ga gb d).isNone && 4 ≤ t.casts.length)
    | .mrg ga gb =>
      if s.olderAccess tile c q.seq 0x20 then some 0
      else if (s.mrgCheck tile c q ga gb).isSome then none
      else if (t.slot? (c.gRaw q gb)).any fun d => d.next == bitsOf (c.gRaw q gb).toNat 8 6 then when_ (8 ≤ t.mergeWaiting)
      else if 32 ≤ t.reorderUsed then some 10 else none
    | .mrgfin ga gb bf16 raw =>
      when_ (s.olderAccess tile c q.seq 0x20 || ((s.mrgfinCheck tile c q ga gb bf16 raw).isNone && t.merges.any fun m => m.slot == bitsOf (c.gRaw q gb).toNat 0 6))
    | .sfsweep ga gb _ _ =>
      when_ ((s.sweepCheck tile c q ga gb).isNone && c.gRaw q ga != 0 && 2 ≤ s.sweepsWaiting me)
    | _ => none

/-! ### The head of a queue -/

/-- The spacing of R74 behind the syllable that left the queue last (log 21). -/
def Ctx.spaced (c : Ctx) (clock : Nat) (q : Queued) : Bool :=
  match Table.find? c.last q.slot with
  | none => true
  | some l => if q.disp < l.leave then l.leave + (q.disp - l.disp) ≤ clock else l.leave + (q.sched - l.sched) ≤ clock

/-- What holds the head of a queue: the deviation cause of its cycle, 0 for none; none when it may leave. -/
def State.hold (s : State) (tile : Nat) (c : Ctx) (q : Queued) (i : Instr) : Option Nat :=
  if q.slot != 0 && !c.spaced (s.clock tile) q then some 0
  else if q.slot == 0 && actsLast i then
    (if c.allQueued.any fun x => x.seq < q.seq || (x.seq == q.seq && x.slot != 0) then some (behind c.heldCause)
      else if c.sf.any fun f => decide (f.seq ≤ q.seq) then some 0
      else s.orderHold tile c q i)
  else
    [c.lateCause (s.clock tile) q.disp q.seq (c.readsAt q i) [],
     s.orderHold tile c q i,
     if q.slot == 1 || q.slot == 2 then s.scHold tile c q i else none,
     if q.slot == 3 || q.slot == 4 then s.streamHold tile c q i else none,
     if q.slot == 5 then s.vaultHold tile c q i else none,
     if q.slot == 6 then (s.qHold tile c q i).or (if s.bankHold tile c q i then some 3 else none) else none].findSome? id

/-- An M syllable that finds the array with another launch: the handover starts (R145). -/
def State.startHandover (s : State) (tile place : Nat) : State :=
  if (s.tile tile).array.handover.isSome then s
  else
    let d := s.drawDelay 320
    (d.2.updTile tile fun t => { t with array := { t.array with handover := some place } }).afterTile tile d.1
      (.arrayHandover tile place)

/-- Whether an M syllable uses the array. -/
def usesArray (i : Instr) : Bool := slotOf i == some 4

/-- Marks the head of a queue as held, and its context's cycle as lost to the cause. -/
def Ctx.holdHead (c : Ctx) (slot cause : Nat) : Ctx :=
  match c.queue slot with
  | [] => c
  | q :: r =>
    { c with
      queues := c.queues.put slot ({ q with held := cause } :: r)
      lost := if cause = 0 || c.lost.isSome then c.lost else some (cause, slot) }

/-- The cause behind a syllable's slip as it leaves: its own hold, or that of the syllable ahead of it. -/
def Ctx.slipOf (c : Ctx) (q : Queued) : Nat := if q.disp < q.left || q.held != 0 then c.causeOf q else 0

/-- R215: the list entry of a row's block is fetched before the first of its rows, and serves the others. -/
def State.fetchEntry (s : State) (tile : Nat) (x : Ctx × Queued) (u : RowUse) : Ctx × Queued :=
  match u.bound with
  | some p =>
    if !p.gather then x
    else
      let block := u.ordinal / p.handle.grows
      let kept := (Table.find? x.1.blocks u.port).filter fun b => b.1 == p.bind && b.2.1 == block && u.ordinal % p.handle.grows != 0
      let v := (kept.map (·.2.2)).getD (p.listEntry s tile u.ordinal)
      ({ x.1 with blocks := x.1.blocks.put u.port (p.bind, block, v) }, { x.2 with entries := x.2.entries.put u.port v })
  | none => x

/-- The same for every row of a syllable that leaves its queue. -/
def State.fetchEntries (s : State) (tile : Nat) (c : Ctx) (q : Queued) : Ctx × Queued :=
  q.rows.foldl (s.fetchEntry tile) (c, q)

/-- R74: the head of a slot queue leaves for its engine, or is held. A handover holds the M slot of its tile (R145). -/
def execSlotQueueLeave (tile place slot : Nat) (s : State) : Host.Outcome State Fault Refusal :=
  .next (match s.ctx? tile place with
    | none => s
    | some c =>
      match c.queue slot with
      | [] => s
      | q :: rest =>
        match decode q.slot q.lend q.word with
        | .error _ => s
        | .ok i =>
          let held (s : State) (n : Nat) : State := s.updCtx tile place fun c => c.holdHead slot n
          match s.hold tile c q i with
          | some n =>
            if n = landMissing then (held s 0).now (.lateLanding tile place)
            else if n = 10 then (held s n).updCtx tile place fun c => c.orCsr (s.clock tile) 0x78 0x100
            else held s n
          | none =>
            if usesArray i && (s.tile tile).array.handover.isSome then held s 11
            else if usesArray i && s.standing tile c == .handover then held (s.startHandover tile place) 11
            else
              let fetched := s.fetchEntries tile c q
              let c := fetched.1
              let q := { fetched.2 with left := s.clock tile }
              let lines := scLinesOf c q i
              let direct := s.directLines tile c q i
              let s := s.putCtx tile place
                { c with queues := c.queues.put slot rest, last := c.last.put slot ⟨q.left, q.disp, q.sched, c.slipOf q⟩ }
              let s := (s.unland tile lines).updTile tile fun t =>
                { t with lines := t.lines ++ lines ++ direct, scLines := t.scLines ++ lines, accepted := slot :: t.accepted }
              { s with engine := if q.acted then none else some ⟨tile, place, q⟩ })

end Sys2Proof.Machine
end

