-- ==== Sys2Proof/Machine/Control.lean ====
section
/-! DEFINITION. The C slot (07_issue): control transfer, hardware loops, waits, order, CSRs, shapes, slices and variants. -/

namespace Sys2Proof.Machine

/-! ### Control transfer (R150, R156) -/

/-- Sends the context to a code address, or raises MISALIGNED_TARGET (R25). -/
def redirect (s : State) (e : Issued) (c : Ctx) (target : Int) : Act :=
  match s.targetCheck e.tile target with
  | some t => .trap s t
  | none => .done (s.putCtx e.tile e.place { c with pc := target.toNat })

/-- The package cycle in which a syllable's bundle dispatched. -/
def State.dispatchCycle (s : State) (e : Issued) : Word64 := s.cycle - BitVec.ofNat 64 (s.time - e.q.time)

/-- The record of a CALL or RET that redirects (R473). -/
def recordTransfer (e : Issued) (tag target : Nat) (a : Act) : Act :=
  match a with
  | .done s => .done (s.recordIf 3 e.tile e.place 5 tag e.q.addr 0 (s.dispatchCycle e) (BitVec.ofNat 64 target) 0)
  | .trap s t => .trap s t

def execBr (disp : BitVec 20) (neg : Bool) (guard : BitVec 5) (s : State) : Host.Outcome State Fault Refusal :=
  onSyllable s fun e c =>
    if guardHolds c e.q guard neg then redirect s e c (e.q.addr + 4 * disp.toInt) else .done s

/-- The address of the syllable after the bundle is the pc, which nothing but a redirect moves (R150). -/
def execCall (disp : BitVec 20) (neg : Bool) (guard : BitVec 5) (s : State) : Host.Outcome State Fault Refusal :=
  onSyllable s fun e c =>
    if guardHolds c e.q guard neg then
      let target := e.q.addr + 4 * disp.toInt
      recordTransfer e 0 target.toNat (redirect s e (c.resultG e.q 1 31 (BitVec.ofNat 64 c.pc)) target)
    else .done s

/-- JMP and RET: a target that is no multiple of 4 first, then R25, then POISON (R130, R156). -/
def jumpTo (ga : BitVec 6) (imm : BitVec 14) (s : State) (e : Issued) (c : Ctx) : Act :=
  let target := c.jumpTarget e.q ga imm
  match (if target.toNat % 4 ≠ 0 then .trap s { cause := causeMisalignedTarget } else redirect s e c target.toInt : Act) with
  | .trap s t => .trap s t
  | .done s' => if c.gPoisoned e.q ga then .trap s (poisonG ga) else .done s'

def execRet (ga : BitVec 6) (s : State) : Host.Outcome State Fault Refusal :=
  onSyllable s fun e c => recordTransfer e 1 (c.gRaw e.q ga).toNat (jumpTo ga 0 s e c)

def execJmp (ga : BitVec 6) (imm : BitVec 14) (s : State) : Host.Outcome State Fault Refusal :=
  onSyllable s fun e c => jumpTo ga imm s e c

/-! ### Loops and the rotating base (R157, R158) -/

/-- Writes a CSR that the C slot alone writes. -/
def Ctx.putCsr (c : Ctx) (n : Nat) (v : Word64) : Ctx := { c with regs := { c.regs with csr := c.regs.csr.set n v 0 } }

/-- LCn. -/
def Ctx.loopCount (c : Ctx) (n : BitVec 2) : Word64 := c.regs.csr.getD (0x14 + n.toNat) 0

/-- Writes LCn and its bit of the active-loop mask. -/
def Ctx.putLoop (c : Ctx) (n : BitVec 2) (v : Word64) : Ctx := (c.putCsr (0x14 + n.toNat) v).setStatus (8 + n.toNat) (v != 0)

/-- LOOP, and LOOPR with its rotation. -/
def loopBack (n : BitVec 2) (imm : BitVec 14) (rotate : Bool) (s : State) (e : Issued) (c : Ctx) : Act :=
  if 1 < (c.loopCount n).toNat then
    let c1 := c.putCsr (0x14 + n.toNat) (c.loopCount n - 1)
    let c2 := if rotate then c1.putCsr 0x11 (((c1.rrb + 2 : BitVec 5)).setWidth 64) else c1
    redirect s e c2 (loopTarget e.q imm)
  else .done (s.putCtx e.tile e.place (c.putLoop n 0))

def execLoop (n : BitVec 2) (imm : BitVec 14) (s : State) : Host.Outcome State Fault Refusal :=
  onSyllable s (loopBack n imm false s)

def execLoopr (n : BitVec 2) (imm : BitVec 14) (s : State) : Host.Outcome State Fault Refusal :=
  onSyllable s (loopBack n imm true s)

def execLexit (n : BitVec 2) (neg : Bool) (p : BitVec 5) (imm : BitVec 14) (s : State) : Host.Outcome State Fault Refusal :=
  onSyllable s fun e c =>
    if guardHolds c e.q p neg then redirect s e (c.putLoop n 0) (loopTarget e.q imm) else .done s

def execSetrrb (v : BitVec 5) (s : State) : Host.Outcome State Fault Refusal :=
  onCtx s fun _ c => .ok (c.putCsr 0x11 (v.setWidth 64))

/-! ### Waiting, halting, priority (R159-R163) -/

/-- The slots of a syllable's bundle. -/
def Ctx.presentOf (c : Ctx) (q : Queued) : BitVec 7 :=
  ((c.flights.find? fun f => f.seq == q.seq).map (·.present)).getD (setBit 0 q.slot true)

def execHalt (s : State) : Host.Outcome State Fault Refusal :=
  onCtx s fun q c => .ok { c with wait := some (.halt q.seq q.addr (c.presentOf q)) }

def execYield (s : State) : Host.Outcome State Fault Refusal :=
  onCtx s fun _ c => .ok { c with yielded := true }

/-- Whether the tokens of a wait meet its condition (R161). -/
def Ctx.waitMet (c : Ctx) (clock : Nat) (mask : BitVec 8) (any : Bool) : Bool :=
  if any then (maskTokens mask).any (c.tokenDone clock) else (maskTokens mask).all (c.tokenDone clock)

/-- The mask of the named tokens that are complete. -/
def Ctx.doneMask (c : Ctx) (clock : Nat) (mask : BitVec 8) : Word64 :=
  (maskTokens mask).foldl (fun m t => if c.tokenDone clock t then setBit m t true else m) 0

/-- Begins a wait on tokens: released at once if its condition holds, unless an error is still to be raised. -/
def beginWait (mask : BitVec 8) (any : Bool) (dest : Option (BitVec 6)) (s : State) : Host.Outcome State Fault Refusal :=
  onSyllable s fun e c =>
    let clock := s.clock e.tile
    if c.waitMet clock mask any && (c.raises clock e.q.seq (maskTokens mask)).isEmpty then
      .done (s.putCtx e.tile e.place (match dest with
        | some g => c.resultG e.q 1 g (c.doneMask clock mask)
        | none => c))
    else
      .done (s.putCtx e.tile e.place { c with
        wait := some (.tokens e.q.seq e.q.addr (c.presentOf e.q) mask any (dest.map fun g => physG g e.q.rrb)) })

def execWaitt (ga : BitVec 6) (any : Bool) (mask : BitVec 8) (s : State) : Host.Outcome State Fault Refusal :=
  beginWait mask any (some ga) s

def execSleept (t : BitVec 3) (s : State) : Host.Outcome State Fault Refusal := beginWait (setBit 0 t.toNat true) false none s

def execSleeptCyc (ga : BitVec 6) (s : State) : Host.Outcome State Fault Refusal :=
  onSyllable s fun e c =>
    match c.g e.q ga with
    | .error t => .trap s t
    | .ok v =>
      .done (if v ≤ s.cycle then s
        else s.putCtx e.tile e.place { c with wait := some (.until e.q.seq e.q.addr (c.presentOf e.q) v) })

def execSetpri (level : Bool) (s : State) : Host.Outcome State Fault Refusal :=
  onCtx s fun _ c => .ok (c.setStatus 4 level)

/-- The trap of a wait in the C slot: its bundle's other syllables take effect first, and its done mask holds them (Table 7.5). -/
def State.trapWait (s : State) (tile place seq addr : Nat) (present : BitVec 7) (t : Trap) : State :=
  s.updCtx tile place fun c =>
    (c.reportToken t).stop ⟨t, seq + 1, addr, 0, some (setBit present 0 false), s.cycle, c.rrb, c.loops, 0⟩

/-- The deferred trap of a token in error (R322). -/
def Ctx.tokenTrap (c : Ctx) (t : Nat) : Trap :=
  { cause := (c.token t).cause.toNat, detail := (c.token t).detail.toNat, value := BitVec.ofNat 48 t,
    address := c.csrLast csrCpfaddr, deferred := true }

/-- What a barrier message asks about: its phase. -/
def Ask.phase : Ask → BitVec 32
  | .arrive p | .await p | .withdraw p => p
  | _ => 0

/-- A release with an error, raised before the next bundle; the wait's bundle has taken effect whole (R367). -/
def State.barrierTrap (s : State) (tile place seq addr : Nat) (present : BitVec 7) (msg : Message) (detail : Nat) : State :=
  s.updCtx tile place fun c =>
    ({ c with wait := none }).stop ⟨{ cause := causeBarrierError, detail := detail, value := msg.ask.phase.setWidth 48, deferred := true },
      seq + 1, addr, 6, some present, s.cycle, c.rrb, c.loops, 0⟩

/-- R161: the wait ends, or raises the error of one of its tokens (R322). A WAITT writes its mask, which the next cycle's
bundle reads. -/
def execWaitRelease (tile place : Nat) (s : State) : Host.Outcome State Fault Refusal :=
  .next (match s.ctx? tile place with
    | none => s
    | some c =>
      let clock := s.clock tile
      match c.wait with
      | some (.tokens seq addr present mask any dest) =>
        match (c.raises clock seq (maskTokens mask)).head? with
        | some t => s.trapWait tile place seq addr present (c.tokenTrap t)
        | none =>
          if c.waitMet clock mask any then
            match dest with
            | some g =>
              s.putCtx tile place { c.writeAt (clock + 1) (.g g) (c.doneMask clock mask) with
                wait := some (.until seq addr present (s.cycle + 1)) }
            | none => s.putCtx tile place { c with wait := none }
          else s
      | some (.until _ _ _ v) => if v ≤ s.cycle then s.putCtx tile place { c with wait := none } else s
      | some (.halt seq addr present) =>
        match (c.raises clock seq (List.range 8)).head? with
        | some t => s.trapWait tile place seq addr present (c.tokenTrap t)
        | none => s
      | some (.barrier seq addr present msg _ (some (ok, detail, landed))) =>
        if !(landed < clock) then s
        else if ok then s.putCtx tile place { c with wait := none, release := some clock }
        else s.barrierTrap tile place seq addr present msg detail
      | _ => s)

/-- A token whose promise has passed without a trap on that promise yet (R162). -/
def State.promisePassed (s : State) (c : Ctx) (t : Nat) : Bool :=
  let k := c.token t
  k.promise != 0 && k.promise < s.cycle && k.missed != k.promise

/-- The TOKCLR at the head of the Q queue and the token that it waits for (R323). -/
def Ctx.clearWait (c : Ctx) : Option (Queued × Nat) :=
  match c.queue 6 with
  | [] => none
  | q :: _ =>
    match decode q.slot q.lend q.word with
    | .ok (.tokclr t) => if (c.token t.toNat).remaining = 0 then none else some (q, t.toNat)
    | _ => none

/-- The tokens that an unsatisfied wait of a context, a TOKCLR apart, still needs (R162). Behind a redirect that has not committed no bundle
waits yet. -/
def State.neededTokens (s : State) (tile : Nat) (c : Ctx) : List Nat :=
  let clock := s.clock tile
  match c.wait with
  | some (.tokens _ _ _ mask any _) => if c.waitMet clock mask any then [] else c.waiting clock (maskTokens mask)
  | some (.halt _ _ _) => c.waiting clock (List.range 8)
  | some _ => []
  | none => if (c.queue 0).isEmpty then c.waiting clock (c.headerWait clock (s.bundleAt tile c.pc)) else []

/-- The token whose missed promise traps: in the any form only when every needed token has passed its promise (R162). -/
def State.missedPromise (s : State) (tile : Nat) (c : Ctx) : Option Nat :=
  let first := c.clearWait.bind fun x => if s.promisePassed c x.2 then some x.2 else none
  let l := s.neededTokens tile c
  if !c.promiseTrap || c.stopping.isSome then none
  else if first.isSome then first
  else
    match c.wait with
    | some (.tokens _ _ _ _ true _) =>
      if l.all fun t => (c.token t).promise != 0 && (c.token t).promise < s.cycle then l.find? (s.promisePassed c) else none
    | _ => l.find? (s.promisePassed c)

/-- PROMISE_MISSED of a token (Table 7.5). -/
def missedTrap (k : Nat) : Trap := { cause := causePromiseMissed, value := BitVec.ofNat 48 k, deferred := true }

/-- PROMISE_MISSED at a WAITT, SLEEPT or HALT, or at the head bundle's header wait. -/
def State.missedWait (s : State) (tile place k : Nat) : Option Wait → State
  | some (.tokens seq addr present _ _ _) | some (.halt seq addr present) =>
    s.updCtx tile place fun c => c.stop ⟨missedTrap k, seq + 1, addr, 0, some (setBit present 0 false), s.cycle, c.rrb, c.loops, 0⟩
  | _ => s.refuse tile place 7 (missedTrap k)

/-- R162: PROMISE_MISSED at the bundle of the wait, an older TOKCLR first. -/
def execPromiseMissed (tile place : Nat) (s : State) : Host.Outcome State Fault Refusal :=
  .next (match s.ctx? tile place with
    | none => s
    | some c =>
      match s.missedPromise tile c with
      | none => s
      | some k =>
        let s := s.putCtx tile place (c.updToken k fun x => { x with missed := x.promise })
        match c.clearWait, c.wait with
        | some (q, n), w =>
          if n = k then s.updCtx tile place fun c => c.trapAt s.cycle q.seq 6 (missedTrap k)
          else s.missedWait tile place k w
        | none, w => s.missedWait tile place k w)

/-! ### Ordering and phases (R164, R165) -/

/-- Rows prefetched before a fence on path ST, for what comes after it, are fetched again (R96). -/
def Ctx.refetch (c : Ctx) : Ctx :=
  { c with ports := c.ports.map fun kp => if kp.1 < 8 then (kp.1, { kp.2 with arrived := min kp.2.arrived kp.2.position, fetching := 0 }) else kp }

def execFencex (mask : BitVec 7) (s : State) : Host.Outcome State Fault Refusal :=
  onSyllable s fun e c =>
    let c1 := { c with fences := c.fences ++ [⟨e.q.seq, mask⟩] }
    .done (if mask.getLsbD 1 then (s.putCtx e.tile e.place c1.refetch).prefetchAll e.tile e.place else s.putCtx e.tile e.place c1)

/-- R99: the release is met when the bundle dispatches (State.phaseHeld), so what is left is the check, the new group, and the rows
prefetched in the phase that ends, which are fetched again as after a fence on every path (R96). -/
def execPhase (group : BitVec 4) (s : State) : Host.Outcome State Fault Refusal :=
  onSyllable s fun e c =>
    match s.groupConflict e.tile c group with
    | some t => .trap s t
    | none =>
      .done ((s.putCtx e.tile e.place { c with group := group }.refetch).prefetchAll e.tile e.place)

/-! ### Traps from code and return (R134, R166) -/

/-- TRAP and BKPT: every slot of the bundle, C included, has taken effect. -/
def raiseAfter (t : Trap) (s : State) : Host.Outcome State Fault Refusal :=
  onSyllable s fun e _ => .done (s.updCtx e.tile e.place fun c => c.trapAt s.cycle e.q.seq 0 t)

def execTrap (code : BitVec 14) (s : State) : Host.Outcome State Fault Refusal :=
  raiseAfter { cause := causeSoftware, value := code.setWidth 48 } s

def execBkpt (code : BitVec 14) (s : State) : Host.Outcome State Fault Refusal :=
  raiseAfter { cause := causeBreakpoint, value := code.setWidth 48 } s

/-- A trap record address breaks R127: no multiple of 64, or above 0x0F_AFC0. -/
def badRecord (a : Word64) : Bool := a.toNat % 64 != 0 || 0x0FAFC0 < a.toNat

/-- R131, R134: ERET reads the record as its dispatch found it, or once a FENCEX lets it; a bad target comes before a poisoned record (R130,
R138). The counts, the remainder and the rows held since entry apply only at the bundle named at entry. -/
def execEret (s : State) : Host.Outcome State Fault Refusal :=
  onSyllable s fun e c =>
    let rec_ := c.regs.csr.getD 0x13 0
    if badRecord rec_ then .trap s { cause := causeSramRange, detail := 0x0E }
    else
      let record := c.found.getD (scBytes s e c rec_.toNat 16)
      let b := bitsOf (leNat record.1) 64 16
      let dm : BitVec 7 := BitVec.ofNat 7 (bitsOf (leNat record.1) 19 7)
      match firstTrap [s.targetTrap e.tile b, if record.2 then some { cause := causePoison, detail := 0x22, address := rec_ } else none] with
      | some t => .trap s t
      | none =>
        let held : EretState := match c.eret with
          | some r => if r.addr = b then r else ⟨b, 0, [], 0, [], []⟩
          | none => ⟨b, 0, [], 0, [], []⟩
        .done (s.putCtx e.tile e.place { c.setStatus 3 false with
          pc := b, remainder := held.remainder, eret := none, found := none, base := s.clock e.tile
          resume := some { held with done := dm }, skips := held.counts, again := held.rows.drop 1, stamps := held.stamps.drop 1 })

/-! ### CSRs (R168, R177) -/

/-- CSRs that the C slot alone changes. -/
def isControlCsr (n : Nat) : Bool := 0x10 ≤ n && n ≤ 0x17

/-- The grant of a tile (R172). -/
def State.grant (s : State) (tile : Nat) : Word64 :=
  BitVec.ofNat 64 (64 + (s.tile tile).columns * 2 ^ 16 + 128 * 2 ^ 32 + 64 * 2 ^ 48)

/-- CHANST: each channel's running, resume, failure and starting context (R331). -/
def Tile.chanst (t : Tile) : Word64 :=
  BitVec.ofNat 64 ((List.range 4).foldl (fun v k =>
    let h := t.channels.getD k Channel.stopped
    let b (x : Bool) (n : Nat) : Nat := if x then 2 ^ (8 * k + n) else 0
    v + b h.running 0 + b h.resume.isSome 1 + b h.failed 2 + h.starter % 4 * 2 ^ (8 * k + 4)) 0)

/-- The value of a CSR for a syllable of a context (Table 7.6 and the tables of the engines). -/
def State.csrValue (s : State) (tile : Nat) (c : Ctx) (disp n : Nat) : Word64 :=
  let t := s.tile tile
  let list : Option (Launch × Nat) := (s.launchOf c).bind fun l => (l.tileIndex tile).map fun i => (l, i)
  if n = 0 then BitVec.ofNat 64 c.num
  else if n = 1 then BitVec.ofNat 64 (tile + dieOf tile * 2 ^ 16 + s.packageId * 2 ^ 50)
  else if n = 2 then
    BitVec.ofNat 64 (partOf tile + partIndex tile * 2 ^ 8 + ((list.map fun x => x.2 / 18).getD 0) * 2 ^ 16)
  else if n = 3 then
    (match list with
      | some (l, i) => if l.sliceCount i = 0 then 0 else BitVec.ofNat 64 (l.sliceAt i 0)
      | none => 0)
  else if n = 4 then (match list with | some (l, i) => BitVec.ofNat 64 (l.sliceCount i) | none => 0)
  else if isControlCsr n then c.regs.csr.getD n 0
  else if n = 0x20 then s.cycle - BitVec.ofNat 64 (s.clock tile - disp)
  else if 0x21 ≤ n && n ≤ 0x2E then c.dev.getD (n - 0x20) 0
  else if n = 0x2F then c.devTotal
  else if n = 0x41 then s.grant tile
  else if n = 0x62 then c.csrLast n
  else if n = 0x6B then t.chanst
  else if n = 0x83 then
    BitVec.ofNat 64 ((if c.attached then 1 else 0) + (if c.heldByDebug then 2 else 0) + (if c.stepPending then 4 else 0))
  else if 0xC0 ≤ n then s.hub.counters.getD (256 * partOf tile + (n - 0xC0)) 0
  else c.csrAt disp n

def execCsrr (ga : BitVec 6) (csr : BitVec 8) (s : State) : Host.Outcome State Fault Refusal :=
  onSyllable s fun e c =>
    .done (s.putCtx e.tile e.place (c.resultG e.q 1 ga (if csr = 0x20 then s.dispatchCycle e else s.csrValue e.tile c e.q.disp csr.toNat)))

/-- The bits of a CSR that a CSRW changes. -/
def csrMask (n : Nat) : Word64 :=
  match n with
  | 0x10 => 3
  | 0x11 => 0x1E
  | 0x12 => 0xFFFF
  | 0x51 => 0x00FFFFFFFFFFFFFF
  | 0x59 | 0x5A => 0x03FF03FF03FF03FF
  | 0x5C => 0xFF0000
  | 0x5F => 0x0000FFFFFFFFFFFF
  | 0x61 => 3
  | 0x62 => 0xFFFFF
  | 0x69 => 0x0000FFFFFFFFFFFF
  | 0x80 => 0x0000FFFF0000003F
  | 0x81 => 0xFFFFFFFF
  | _ => BitVec.allOnes 64

/-- A value whose field of two bits may not hold 11: such a field is written as 00 (R280, Table 12.7). -/
def no11 (v : Word64) (lo : Nat) : Word64 := if v.getLsbD lo && v.getLsbD (lo + 1) then v &&& ~~~((3 : Word64) <<< lo) else v

/-- What a CSRW writes to a CSR. -/
def csrWritten (n : Nat) (v : Word64) : Word64 :=
  if n = 0x59 || n = 0x5A then [8, 24, 40, 56].foldl no11 v else if n = 0x61 then no11 v 0 else v

/-- A write that the next bundle sees, in its place among the results of R52: slot C, the first. -/
def Ctx.csrResult (c : Ctx) (q : Queued) (n : Nat) (v m : Word64) : Ctx :=
  let w : RegWrite := ⟨.csr n, q.disp + 1, q.left + 1, q.held, q.seq, q.slot, m.setWidth 2048, v.setWidth 2048, none⟩
  if 0x52 ≤ n && n ≤ 0x56 then c.postInOrder w else c.post w

/-- R168: the write is seen by the next bundle; a FLAGS CSR only loses bits, LCn and RRB follow R157 and R158. -/
def execCsrw (ga : BitVec 6) (csr : BitVec 8) (s : State) : Host.Outcome State Fault Refusal :=
  onCtx s fun q c => do
    let v ← c.g q ga
    let n := csr.toNat
    let m := csrMask n
    if 0x14 ≤ n && n ≤ 0x17 then pure (c.putLoop (BitVec.ofNat 2 (n - 0x14)) v)
    else if isControlCsr n then pure (c.putCsr n ((c.regs.csr.getD n 0 &&& ~~~m) ||| (v &&& m)))
    else if isFlagsCsr n then pure (c.csrResult q n 0 (~~~v))
    else pure (c.csrResult q n (csrWritten n v) m)

def execRdcyc (ga : BitVec 6) (s : State) : Host.Outcome State Fault Refusal :=
  onSyllable s fun e c => .done (s.putCtx e.tile e.place (c.resultG e.q 1 ga (s.dispatchCycle e)))

/-! ### Predicates (R170, R171) -/

def execPlog (pd pa pb : BitVec 5) (tt : BitVec 4) (s : State) : Host.Outcome State Fault Refusal :=
  onCtx s fun q c =>
    let k := (if c.pred q pa.toNat then 2 else 0) + (if c.pred q pb.toNat then 1 else 0)
    .ok (c.resultP q 1 pd.toNat (tt.getLsbD k))

def execPmovg (ga : BitVec 6) (s : State) : Host.Outcome State Fault Refusal :=
  onCtx s fun q c => .ok (c.resultG q 1 ga ((c.regsAt q.disp).p.setWidth 64))

def execPmovp (ga gb : BitVec 6) (s : State) : Host.Outcome State Fault Refusal :=
  onCtx s fun q c => do
    let v ← c.g q ga
    let m ← if gb = 0 then pure (BitVec.allOnes 64) else c.g q gb
    pure ((List.range 32).foldl (fun c n => if m.getLsbD n then c.resultP q 1 n (v.getLsbD n) else c) c)

/-! ### Shapes (R172, R173) -/

/-- One field of a grant, and whether the request fits. -/
def grantField (req cap : Nat) : Nat × Bool := (min (if req = 0 then cap else req) cap, req = 0 || req ≤ cap)

def execShape (ga : BitVec 6) (pd : BitVec 5) (z : BitVec 2) (s : State) : Host.Outcome State Fault Refusal :=
  onSyllable s fun e c =>
    match c.g e.q ga with
    | .error t => .trap s t
    | .ok req =>
      let cap := s.grant e.tile
      let f := (List.range 4).map fun k => grantField (bitsOf req.toNat (16 * k) 16) (bitsOf cap.toNat (16 * k) 16)
      let v := BitVec.ofNat 64 (f.foldr (fun x r => x.1 + 2 ^ 16 * r) 0)
      let c1 := (c.result e.q 1 (.z z.toNat) (v.setWidth 2048) none).resultP e.q 1 pd.toNat (f.all (·.2))
      .done (s.putCtx e.tile e.place (c1.setStatus 5 false))

/-- SHAPEQ in a context with the revalidation mark raises SHAPE_REVALIDATE, with the clamped column count, and clears the mark. -/
def execShapeq (ga : BitVec 6) (z : BitVec 2) (s : State) : Host.Outcome State Fault Refusal :=
  onSyllable s fun e c =>
    let v := (c.regsAt e.q.disp).z.getD z.toNat 0
    if c.statusBit 5 then
      .trap (s.putCtx e.tile e.place (c.setStatus 5 false))
        { cause := causeShapeRevalidate, value := BitVec.ofNat 48 (bitsOf v.toNat 16 16) }
    else .done (s.putCtx e.tile e.place (c.resultG e.q 1 ga v))

def execShapeqCap (ga : BitVec 6) (s : State) : Host.Outcome State Fault Refusal :=
  onSyllable s fun e c =>
    if c.statusBit 5 then
      .trap (s.putCtx e.tile e.place (c.setStatus 5 false))
        { cause := causeShapeRevalidate, value := BitVec.ofNat 48 (bitsOf ((c.regsAt e.q.disp).z.getD 0 0).toNat 16 16) }
    else .done (s.putCtx e.tile e.place (c.resultG e.q 1 ga (s.grant e.tile)))

/-! ### Slices, variants, trace (R174-R176) -/

def execSlice (ga : BitVec 6) (pd : BitVec 5) (k : BitVec 4) (s : State) : Host.Outcome State Fault Refusal :=
  onSyllable s fun e c =>
    match (s.launchOf c).bind fun l => l.nextSlice c.home c.num c.slicePos with
    | none => .done (s.putCtx e.tile e.place (c.resultP e.q 1 pd.toNat false))
    | some (slice, l) =>
      let c1 := { c with slicePos := c.slicePos + 1 }
      let c2 := (List.range k.toNat).foldl (fun c j =>
        c.resultG e.q 1 (ga + BitVec.ofNat 6 (j + 1)) (l.coordinate slice j)) (c1.resultG e.q 1 ga (BitVec.ofNat 64 slice))
      let s1 := s.putCtx e.tile e.place (c2.resultP e.q 1 pd.toNat true)
      .done { s1 with hub := { s1.hub with launches := s1.hub.launches.put c.launch l } }

/-- R175: to the variant of the band that the tile had at the start of the dispatch cycle, by the pending bit of that cycle; the bit is set
again where the tile's band differs from it by now. -/
def execReplan (ga : BitVec 6) (s : State) : Host.Outcome State Fault Refusal :=
  onSyllable s fun e c =>
    let v := s.vault e.tile
    let band := v.bandAt e.q.time
    let target := (s.launchOf c).bind fun l => (l.variants[band]?).join
    match (c.csrAt e.q.disp 0x40).getLsbD 9, target with
    | true, some a =>
      let again := if v.measured = band then 0 else 512
      let c1 := (c.csrResult e.q 0x40 (BitVec.ofNat 64 (band + again)) 0x203).resultG e.q 1 ga (BitVec.ofNat 64 (band + 256))
      .done ((s.putCtx e.tile e.place { c1 with pc := a }).checkWindow e.tile)
    | pending, _ =>
      .done (s.putCtx e.tile e.place (c.resultG e.q 1 ga (BitVec.ofNat 64 (band + (if pending then 512 else 0)))))

def execTemit (ga : BitVec 6) (tag : BitVec 12) (s : State) : Host.Outcome State Fault Refusal :=
  onSyllable s fun e c =>
    match c.g e.q ga with
    | .error t => .trap s t
    | .ok v =>
      let s1 := s.recordIf 0 e.tile e.place 1 tag.toNat e.q.addr 0 (s.dispatchCycle e) v 0
      .done (if c.traces 4 && tag.getLsbD 11 then State.now { s1 with hub := { s1.hub with tagged := true } } .trigger else s1)

end Sys2Proof.Machine
end

