-- ==== Sys2Proof/Machine/Traps.lean ====
section
/-! DEFINITION. Taking a trap (06_traps R75, R127-R134): the record, the handler, and the contexts that cannot enter one. -/

namespace Sys2Proof.Machine

/-! ### The stop (R75) -/

/-- Whether every older syllable of a stopped context has taken effect; a Sorrel syllable does so with its reply (R409), which alone tells
whether one of the same or a younger bundle is done: the stop waits for that too (DEDUCED, log 60). -/
def Ctx.settled (c : Ctx) (st : Stopping) : Bool :=
  !(c.allQueued.any fun q => q.seq < st.seq) && c.sf.isNone

/-- The flights as a trap counts them: a C syllable that still waits has not taken effect. -/
def Ctx.effects (c : Ctx) : List Flight :=
  match c.wait with
  | some (.tokens seq _ _ _ _ _) | some (.until seq _ _ _) | some (.halt seq _ _) =>
    c.flights.map fun f => if f.seq = seq then { f with done := setBit f.done 0 false } else f
  | _ => c.flights

/-- The run-ahead count of each slot: younger bundles whose syllable there has taken effect, and skips still to come (R75). -/
def Ctx.runAhead (c : Ctx) (st : Stopping) : List Nat :=
  (List.range 7).map fun k =>
    ((c.effects.filter fun f => st.seq < f.seq && f.present.getLsbD k && f.done.getLsbD k).length) + c.skips.getD k 0

/-- The done mask of a record. -/
def Ctx.doneOf (c : Ctx) (st : Stopping) : BitVec 7 :=
  match st.done with
  | some d => d
  | none => ((c.effects.find? fun f => f.seq == st.seq).map (·.done)).getD 0

/-- The rows that stay with the syllables to run again, from the named bundle on (R220). -/
def Ctx.rowsKept (c : Ctx) (st : Stopping) : List (List RowUse) :=
  if st.seq = c.seq then
    (match c.resume with
      | some r => r.rows.headD [] :: c.again
      | none => c.again)
  else ((c.flights.filter fun f => st.seq ≤ f.seq).map (·.rows)) ++ c.again

/-- The schedule counts of the bundles to run again, from the named one on (R340). -/
def Ctx.stampsKept (c : Ctx) (st : Stopping) : List Nat :=
  if st.seq = c.seq then
    (match c.resume with
      | some r => r.stamps.take 1 ++ c.stamps
      | none => c.stamps)
  else ((c.flights.filter fun f => st.seq ≤ f.seq).map (·.stamp)) ++ c.stamps

/-- The trap record (Table 6.1) as eight qwords. -/
def trapRecord (s : State) (tile : Nat) (c : Ctx) (st : Stopping) : List Word64 :=
  let t := st.trap
  let b (x : Bool) (n : Nat) : Nat := if x then 2 ^ n else 0
  [BitVec.ofNat 64 (t.cause + st.slot * 2 ^ 16 + (c.doneOf st).toNat * 2 ^ 19 + b ((c.runAhead st).any (· != 0)) 26 + b t.deferred 27),
   BitVec.ofNat 64 st.addr,
   BitVec.ofNat 64 (t.detail + t.value.toNat * 2 ^ 16),
   t.address,
   st.cycle,
   BitVec.ofNat 64 (c.num + tile * 2 ^ 8 + partOf tile * 2 ^ 24 + s.packageId * 2 ^ 32),
   BitVec.ofNat 64 (st.rrb.toNat + st.remainder * 2 ^ 8 + st.loops.toNat * 2 ^ 24),
   0]

/-- The bytes of qwords. -/
def qwordBytes (l : List Word64) : List Byte := l.flatMap fun v => leBytes 8 v.toNat

/-- Writes the record at TRAPREC, without a set check (R128). -/
def State.writeRecord (s : State) (tile : Nat) (c : Ctx) (st : Stopping) : State :=
  s.write (sramKey tile (c.regs.csr.getD 0x13 0).toNat) (qwordBytes (trapRecord s tile c st)) false

/-- Why a trap cannot enter a handler (R129), as the detail of Table 6.3. Where several reasons hold the manual names no order: the model
reports a double trap first, then a TRAPVEC of 0, then a bad vector, then a bad record (DESIGN CHOICE, log 26). -/
def State.noEntry (s : State) (tile : Nat) (c : Ctx) (st : Stopping) : Option Nat :=
  let vec := (c.regs.csr.getD 0x12 0).toNat
  if st.trap.cause = causeCodeRevoked then some 0
  else if c.inHandler then some 0x0F
  else if vec = 0 then some 0x0D
  else if vec % 4 ≠ 0 || !s.startBit tile vec then some 0x10
  else if badRecord (c.regs.csr.getD 0x13 0) then some 0x0E
  else none

/-- Whether the stop goes to the debugger: BREAKPOINT in a context that it holds (R129, R477; log 22). -/
def Ctx.toDebugger (c : Ctx) (st : Stopping) : Bool := c.attached && st.trap.cause == causeBreakpoint

/-- The state in which the context waits for its return: every result visible (R51), nothing in flight but UNBINDs (R219), no
slip left behind a syllable that did not leave (R74; log 21). -/
def Ctx.entered (c : Ctx) (clock : Nat) : Ctx :=
  { c with
    regs := c.writes.foldl RegFile.apply c.regs, writes := [], flights := [], wait := none, stopping := none, resume := none
    skips := [], again := [], stamps := [], awaits := false, last := [], remainder := 0, base := clock, yielded := false, release := none }

/-- What ERET finds (R134). -/
def Ctx.returnState (c : Ctx) (st : Stopping) : EretState :=
  ⟨st.addr, c.doneOf st, c.runAhead st, st.remainder, c.rowsKept st, c.stampsKept st⟩

/-- The context in its handler. -/
def State.enterHandler (s : State) (tile place : Nat) (c : Ctx) (st : Stopping) : State :=
  let s1 := s.writeRecord tile c st
  let c1 := (c.entered (s.clock tile)).setStatus 3 true
  s1.putCtx tile place { c1 with
    pc := (c.regs.csr.getD 0x12 0).toNat, eret := some (c.returnState st), release := some (s.clock tile + 12) }

/-- The context held by the debugger: it resumes from its record, its handler state unchanged; the record always reaches the debugger
(R477). -/
def State.enterDebugger (s : State) (tile place : Nat) (c : Ctx) (st : Stopping) : State :=
  let s1 := if badRecord (c.regs.csr.getD 0x13 0) then s else s.writeRecord tile c st
  let s1 := { s1 with hub := { s1.hub with records := s1.hub.records ++ [qwordBytes (trapRecord s tile c st)] } }
  let r := c.returnState st
  s1.putCtx tile place { c.entered (s.clock tile) with
    pc := st.addr, remainder := st.remainder, resume := some r, skips := r.counts, again := r.rows.drop 1, stamps := r.stamps.drop 1
    wait := c.wait, heldByDebug := true, haltRequest := false, stepPending := false, passBreak := true }

end Sys2Proof.Machine
end

