-- ==== Sys2Proof/Machine/Ending.lean ====
section
/-! DEFINITION. The end of a context (R77-R79, R129, R148): by HALT, by a trap that enters no handler, or by a kill. -/

namespace Sys2Proof.Machine

/-- Changes a launch. -/
def State.updLaunch (s : State) (l : Nat) (f : Launch → Launch) : State :=
  match s.hub.launches.find? l with
  | some x => { s with hub := { s.hub with launches := s.hub.launches.put l (f x) } }
  | none => s

/-- The running launches of a tile. -/
def State.runningOn (s : State) (tile : Nat) : List Nat :=
  (s.hub.launches.filter fun (l : Nat × Launch) => l.2.start.isSome && l.2.partitions.contains (l.2.ordinal, partOf tile)).map (·.1)

/-- Counts a discarded beat on its tile (R341). -/
def State.countLost (s : State) (tile : Nat) : State :=
  s.updTile tile fun t => { t with lost := (s.runningOn tile).foldl (fun m l => m.put l (m.getD l 0 + 1)) t.lost }

/-- Counts a discarded beat of a context, with the flag of Table 14.7. -/
def State.loseBeat (s : State) (tile launch num : Nat) : State :=
  let s := s.countLost tile
  match s.findWho ⟨tile, launch, num⟩ with
  | some (t, p, c) => s.putCtx t p (c.orCsr (s.clock t) 0x70 0x800)
  | none => s

/-- Discards the beats held for a context. -/
def State.dropBeats (s : State) (tile : Nat) (p : InBeat → Bool) : State :=
  ((s.tile tile).landing.filter p).foldl (fun s b => s.loseBeat tile b.launch b.num)
    (s.updTile tile fun t => { t with landing := t.landing.filter fun b => !p b })

/-- Messages that would enter their context at a home: none is applied for a context that has gone (R357, R377). -/
def Ask.enters : Ask → Bool
  | .await _ | .subscribe _ _ => true
  | _ => false

/-- Drops every message and reply of a launch that is over (R357, R377). -/
def State.dropMessages (s : State) (launch : Nat) : State :=
  { s with
    unsent := s.unsent.filter fun u => u.msg.who.launch != launch
    moving := s.moving.filter fun m => m.msg.who.launch != launch
    abroad := s.abroad.filter fun x => x.1.who.launch != launch
    replies := s.replies.filter fun r => r.msg.who.launch != launch
    tiles := s.tiles.map fun (kt : Nat × Tile) => (kt.1, { kt.2 with messages := kt.2.messages.filter fun m => m.who.launch != launch }) }

/-- Takes a context off its tile: its buffered rows are performed as UNBIND leaves them, its array goes without a spill, and its
image, its save slot, its barrier waits and its beats go with it (R145, R148, R268, R287, R341, R357). -/
def State.removeCtx (s : State) (tile place : Nat) : State :=
  match s.ctx? tile place with
  | none => s
  | some c =>
    let me := some (c.launch, c.num)
    let asksFor (m : Message) : Bool := m.ask.enters && m.who.launch == c.launch && m.launchTile == c.home && m.who.num == c.num
    let s := c.outRows.foldl (fun s r => s.writeCells tile r.bytes r.poisoned) s
    let s := s.dropBeats tile fun b => b.launch == c.launch && b.num == c.num
    let s := if (s.tile tile).freeze.any fun f => f.place == place then s.thaw tile else s
    let s := s.updTile tile fun t =>
      let a := if t.array.owner == me then { MatrixArray.empty with image := t.array.image } else t.array
      { t with
        turn := if t.turn == some place then none else t.turn
        array := if a.image == me then { a with image := none } else a
        slots := t.slots.filter fun x => !(x.2.launch == c.launch && x.2.num == c.num)
        marks := t.marks.filter fun k => !(k.1 == c.launch && k.2.1 == c.num)
        holds := t.holds.filter fun k => !(k.1 == c.launch && k.2.1 == c.num) }
    let s := { s with
      unsent := s.unsent.filter fun u => !(u.msg.who.launch == c.launch && u.msg.launchTile == c.home && u.msg.who.num == c.num)
      moving := s.moving.filter fun m => !(m.answer.isNone && asksFor m.msg)
      tiles := s.tiles.map fun (kt : Nat × Tile) => (kt.1, { kt.2 with
        messages := kt.2.messages.filter fun m => !asksFor m
        barriers := kt.2.barriers.map fun (kb : Nat × Barrier) =>
        (kb.1, if kb.2.owner = some c.launch then
          { kb.2 with waiters := kb.2.waiters.filter fun w => !(w.msg.launchTile == c.home && w.msg.who.num == c.num) } else kb.2) }) }
    s.dropCtx tile place

/-- Which of two endings fixes the status of a launch (R437). -/
def Ending.before (a b : Ending) : Bool :=
  a.cycle < b.cycle || (a.cycle == b.cycle && (a.status < b.status || (a.status == b.status &&
    (a.launchTile < b.launchTile || (a.launchTile == b.launchTile && a.num < b.num)))))

/-- Records how a launch ends, unless an earlier ending fixed its status. -/
def Launch.ends (l : Launch) (e : Ending) : Launch :=
  match l.ending with
  | some old => if e.before old then { l with ending := some e } else l
  | none => { l with ending := some e }

/-- The halt tree (R78): once no context of the launch is live, and the other packages of one that spans packages have reported, which is an
input, its completion follows within 900 cycles. -/
def State.haltTree (s : State) (l : Nat) : State :=
  match s.hub.launches.find? l with
  | some x =>
    if x.live.isEmpty && (x.packages = 1 || x.far.halted) && x.start.isSome then
      let d := s.drawDelay 900
      let s := match d.2.hub.packets.find? x.packet with
        | some p => { d.2 with hub := { d.2.hub with packets := d.2.hub.packets.put x.packet { p with status := { p.status with cycle := s.cycle } } } }
        | none => d.2
      s.after d.1 (.launchCompletion l)
    else s
  | none => s

/-! ### The fields of a launch (R398, R415) -/

/-- A launch takes the fields of its partitions that no running launch holds; of launches with one start, the one that the command
processor started first has them (R460). -/
def State.takeFields (s : State) (launch : Nat) (seed : Word64) (parts : List Nat) : State :=
  let order (l : Nat) : Option (Option Word64 × Nat) := (s.hub.launches.find? l).map fun x => (x.start, x.order)
  parts.foldl (fun s p =>
    let kept := match Table.find? s.hub.owners p with
      | some o => (match order o, order launch with
        | some a, some b => !(a.1 == b.1 && decide (b.2 < a.2))
        | _, _ => true)
      | none => false
    if kept then s
    else { s with hub := { s.hub with owners := s.hub.owners.put p launch, chains := s.hub.chains.put p (SfChain.single seed) } }) s

/-- The partitions of this package that a launch runs on. -/
def Launch.here (l : Launch) : List Nat := (l.partitions.filter fun p => p.1 == l.ordinal).map (·.2)

/-- The earliest-started running launch of a partition that is not over (R398, R460). -/
def State.heir (s : State) (part : Nat) : Option (Nat × Launch) :=
  (s.hub.launches.filter fun (l : Nat × Launch) => l.2.start.isSome && !l.2.live.isEmpty && l.2.here.contains part).foldl
    (fun (b : Option (Nat × Launch)) x => match b with
      | none => some x
      | some y => if x.2.start.getD 0 < y.2.start.getD 0 || (x.2.start == y.2.start && x.2.order < y.2.order) then some x else b) none

/-- Releases the fields of a chain, which the next launch takes. -/
def State.releaseFields (s : State) (key m : Nat) : State :=
  let mine := (List.range m).map (key + ·)
  let s := { s with hub := { s.hub with
    owners := s.hub.owners.filter fun (x : Nat × Nat) => !mine.contains x.1
    chains := s.hub.chains.filter fun (x : Nat × SfChain) => !mine.contains x.1 } }
  mine.foldl (fun s p => match s.heir p with
    | some l => s.takeFields l.1 l.2.seed [p]
    | none => s) s

/-- R415: the end of a launch, or its kill, drops the waiting commands of its chains and releases its fields, those of a chain that
sweeps once the current colour step has finished. -/
def State.endSorrel (s : State) (launch : Nat) : State :=
  let mine := s.hub.chains.filter fun (x : Nat × SfChain) => Table.find? s.hub.owners x.1 == some launch
  mine.foldl (fun (s : State) (x : Nat × SfChain) =>
    if x.2.sweep.isSome then
      { s with hub := { s.hub with chains := s.hub.chains.put x.1 { x.2 with waiting := [], closing := true } } }
    else s.releaseFields x.1 x.2.m) s

/-- A launch that is killed gives up its fields with its last context. -/
def State.killedGives (s : State) (launch : Nat) : State :=
  if (s.hub.launches.find? launch).any fun l => l.live.isEmpty && l.ending.any fun e => 4 ≤ e.status && e.status ≤ 6 then s.endSorrel launch
  else s

/-! ### The end of a context -/

/-- Ends a context, with what fixes the status of its launch unless it halted (R78, R79). -/
def State.endContext (s : State) (tile place : Nat) (e : Option Ending) : State :=
  match s.ctx? tile place with
  | none => s
  | some c =>
    let s := (s.endEpisode tile place).removeCtx tile place
    let s := s.updLaunch c.launch fun l =>
      let l := match e with
        | some e => l.ends e
        | none => l
      { l with live := l.live.filter fun x => x != (c.home, c.num) }
    (s.haltTree c.launch).killedGives c.launch

/-- Where a context is, as qword 0x28 of a trap record (Table 6.1). -/
def State.placeWord (s : State) (tile : Nat) (c : Ctx) : Word64 :=
  BitVec.ofNat 64 (c.num + tile * 2 ^ 8 + partOf tile * 2 ^ 24 + s.packageId * 2 ^ 32)

/-- An ending of a context at the present cycle. -/
def State.endingOf (s : State) (tile : Nat) (c : Ctx) (status cause detail : Nat) : Ending :=
  ⟨s.cycle, status, c.home, c.num, cause, detail, 0, 0, s.placeWord tile c⟩

/-- Ends a context under R148, by what the command processor did in a cycle (R437). -/
def State.killContextAt (s : State) (tile place status cause detail : Nat) (cycle : Word64) : State :=
  match s.ctx? tile place with
  | none => s
  | some c => s.endContext tile place (some { s.endingOf tile c status cause detail with cycle := cycle })

/-- Ends a context under R148 in this cycle. -/
def State.killContext (s : State) (tile place status cause detail : Nat) : State := s.killContextAt tile place status cause detail s.cycle

/-! ### Trap entry (R128, R129) -/

/-- The record of a raised trap (R473). -/
def State.recordTrap (s : State) (tile place : Nat) (c : Ctx) (st : Stopping) : State :=
  let r := trapRecord s tile c st
  s.recordIf 5 tile place 4 st.trap.cause st.addr st.slot st.cycle (r.getD 2 0) (r.getD 0 0)

/-- A precise stop of the debugger, which is no trap of the program (R477). -/
def Stopping.isStop (st : Stopping) : Bool := st.trap.cause == causeBreakpoint && (st.trap.detail == 0x1401 || st.trap.detail == 0x1402)

/-- The context as a record, which may count a dropped one, has left it. -/
def State.ctxNow (s : State) (tile place : Nat) (c : Ctx) : Ctx := (s.ctx? tile place).getD c

/-- The debugger takes the context: record kind 6 (R473, R477). -/
def State.toDebugger (s : State) (tile place : Nat) (c : Ctx) (st : Stopping) : State :=
  let s := s.record tile place 6 st.trap.detail st.addr 7 s.cycle 0 0
  s.enterDebugger tile place (s.ctxNow tile place c) st

/-- R128, R129: the trap of a stopped context whose older syllables have taken effect. A trap that enters no handler leaves its record
all the same, but for a second trap in a handler, which keeps the first one's (log 26). -/
def execTrapEntry (tile place : Nat) (s : State) : Host.Outcome State Fault Refusal :=
  .next (match s.ctx? tile place with
    | none => s
    | some c =>
      match c.stopping with
      | none => s
      | some st =>
        if !c.settled st then s
        else
          let s := s.endEpisode tile place
          let s := if st.isStop then s else s.recordTrap tile place (s.ctxNow tile place c) st
          let c := s.ctxNow tile place c
          if c.toDebugger st then s.toDebugger tile place c st
          else
            match s.noEntry tile c st with
            | some reason =>
              let revoked := st.trap.cause == causeCodeRevoked
              let s := if c.inHandler || badRecord (c.regs.csr.getD 0x13 0) then s else s.writeRecord tile c st
              s.endContext tile place (some
                { cycle := st.cycle, status := if revoked then 4 else 3, launchTile := c.home, num := c.num, cause := st.trap.cause
                  detail := st.trap.detail, reason := reason, value := st.trap.value, place := s.placeWord tile c })
            | none => s.enterHandler tile place c st)

/-! ### HALT (R77) -/

/-- Whether a HALT may retire. -/
def Ctx.mayRetire (c : Ctx) : Bool :=
  (match c.wait with | some (.halt _ _ _) => true | _ => false) &&
    !c.queued && c.pending.isEmpty && c.outRows.isEmpty && c.sf.isNone && c.stopping.isNone

/-- R77: the context ends once its operations have finished and no error is unreported. -/
def execHaltRetire (tile place : Nat) (s : State) : Host.Outcome State Fault Refusal :=
  .next (match s.ctx? tile place with
    | none => s
    | some c => if c.mayRetire && (c.unreported (s.clock tile) (List.range 8)).isEmpty then s.endContext tile place none else s)

end Sys2Proof.Machine
end

