-- ==== Sys2Proof/Machine/Registers.lean ====
section
/-! DEFINITION. The package registers (18_host, Table 18.2): their values, the steps that a write takes, and the steps of the link
ports and of domain alignment. -/

namespace Sys2Proof.Machine

/-- Reset values other than zero (Table 18.2). -/
def registerReset (off : Nat) : Word64 := if off = 0x18 then 18000000 else if off = 0x20 then 2300 else 0

/-- A stored register, by its offset. -/
def State.reg (s : State) (off : Nat) : Word64 := s.hub.regs.getD off (registerReset off)

/-- Stores a register. -/
def State.putReg (s : State) (off : Nat) (v : Word64) : State :=
  { s with hub := { s.hub with regs := s.hub.regs.set off v (registerReset off) } }

/-- Changes bits of a register. -/
def State.setRegBit (s : State) (off n : Nat) (b : Bool) : State := s.putReg off (setBit (s.reg off) n b)

/-- Sets a bit of EVENT: a management event, which MSI-X vector 0 of the PF carries (R420). -/
def State.event (s : State) (n : Nat) : State :=
  State.setRegBit { s with hub := { s.hub with interrupts := s.hub.interrupts + 1 } } 0x38 n true

/-- The answer to a request from outside: 0 and data, 1 Unsupported Request or a debug command refused, 2 Completer Abort. -/
def State.answers (s : State) (code : Nat) (data : List Byte) : State :=
  { s with hub := { s.hub with answer := BitVec.ofNat 8 code :: data } }

/-- The link port toward a package, if its ROUTE entry is valid (R425). -/
def State.route (s : State) (pkg : Nat) : Option Nat :=
  let b := bitsOf (s.reg (0x4000 + pkg / 8 * 8)).toNat (8 * (pkg % 8)) 8
  if b / 128 = 1 then some (b % 16) else none

/-- Whether a package id names a package of the domain: this one, or one with a route. -/
def State.inDomain (s : State) (pkg : Nat) : Bool := pkg == s.packageId || (s.route pkg).isSome

/-- The physical tile of a logical tile within its die, none where the entry is not valid (R10; log 14). -/
def State.physical (s : State) (tile : Nat) : Option Nat :=
  match s.hub.remap.find? tile with
  | some x => x
  | none => some (tile % 288)

/-- Whether a tile stood still in this cycle (R72, R342), or has no physical tile (R10). -/
def State.stood (s : State) (tile : Nat) : Bool :=
  let t := s.tile tile
  (t.freeze.any fun f => decide (f.stands ≤ s.time)) || t.thawed == s.time + 1 || (s.physical tile).isNone

/-- The tile cycle in which something comes to a context from outside its tile: on a tile that stands still, before the one in which it goes
on, so that what dispatches then finds it (R360). -/
def State.landClock (s : State) (tile : Nat) : Nat := if s.stood tile then s.clock tile - 1 else s.clock tile

/-- A partition with a logical tile that has no valid entry is offline (R12). -/
def State.offline (s : State) (part : Nat) : Bool := (List.range 18).any fun k => (s.physical (partTile part k)).isNone

/-- The partition that a COPY packet names. -/
def Packet.copyPart (p : Packet) : Option Nat :=
  if bitsOf (p.words.getD 0 0).toNat 16 8 = 2 then some (bitsOf (p.words.getD 2 0).toNat 16 6) else none

/-- The partitions of a package that a LAUNCH packet names, those of a LOAD and an UNLOAD among them. -/
def Packet.launchParts (p : Packet) (package : Nat) : List Nat :=
  let w3 := (p.words.getD 3 0).toNat
  let first := bitsOf w3 0 14
  if bitsOf (p.words.getD 0 0).toNat 16 8 = 1 && first ≤ package && package ≤ first + bitsOf w3 16 14 then
    (List.range 64).filter (p.words.getD 2 0).toNat.testBit
  else []

/-- Whether a launch, a chain or a packet of a queue holds a partition, or a tile of it is being moved (R424, R491). -/
def State.busyPart (s : State) (part : Nat) : Bool :=
  (s.hub.launches.any fun l => l.2.here.contains part) ||
    (s.hub.packets.any fun p => p.2.copyPart == some part || (p.2.launchParts s.packageId).contains part) ||
    (s.tiles.any fun t => partOf t.1 == part && t.2.channels.any fun c => c.2.running) ||
    s.hub.moving.any fun t => partOf t == part

/-- Whether a launch runs on the package (R425). -/
def State.launching (s : State) : Bool := s.hub.launches.any fun l => l.2.start.isSome

/-- A register as it reads (Table 18.2); offsets not listed read zero (R4). -/
def State.readReg (s : State) (off : Nat) : Word64 :=
  let off := off / 8 * 8
  if off = 0 then BitVec.ofNat 64 (0x1152 + Config.stepping.toNat * 2 ^ 16 + s.hub.microcode.toNat * 2 ^ 32)
  else if off = 0x8 then s.hub.pkgid.setWidth 64
  else if off = 0x10 then s.cycle
  else if 0x300 ≤ off && off < 0x500 then
    let p := (off - 0x300) / 8
    (s.reg off &&& 1) ||| (if s.offline p then 2 else 0) ||| (if s.busyPart p then 4 else 0)
  else s.reg off

/-- What a write of some bytes of a register makes of it. -/
def mergeWrite (old : Word64) (off size : Nat) (v : Word64) : Word64 :=
  if size = 8 then v
  else if off % 8 = 4 then (old &&& 0xFFFFFFFF) ||| (v <<< 32)
  else (old &&& 0xFFFFFFFF00000000) ||| (v &&& 0xFFFFFFFF)

/-- Bits of a register that a plain write changes; none where it is read-only, reserved, or locked while a launch runs (R424,
R425). -/
def State.plainMask (s : State) (reg : Nat) : Word64 :=
  let free (m : Word64) : Word64 := if s.launching then 0 else m
  if reg = 0x8 then free 0x3FFF
  else if reg = 0x18 then BitVec.allOnes 64
  else if reg = 0x28 then 3
  else if reg = 0x30 then BitVec.allOnes 64 <<< 34
  else if 0x100 ≤ reg && reg < 0x300 then BitVec.allOnes 64
  else if reg = 0x500 then BitVec.allOnes 64
  else if reg = 0x508 || reg = 0x510 then BitVec.allOnes 64 <<< 16
  else if reg = 0x600 then 0x3F
  else if reg = 0x800 then free 1
  else if 0x4000 ≤ reg && reg < 0x8000 then free 0x8F8F8F8F8F8F8F8F
  else 0

/-- A plain write to a package register. -/
def State.plainWrite (s : State) (off size : Nat) (v : Word64) : State :=
  let reg := off / 8 * 8
  let m := s.plainMask reg
  if reg = 0x8 then { s with hub := { s.hub with pkgid := (((mergeWrite (s.hub.pkgid.setWidth 64) off size v &&& m) |||
    (s.hub.pkgid.setWidth 64 &&& ~~~m)).setWidth 14) } }
  else s.putReg reg ((s.reg reg &&& ~~~m) ||| (mergeWrite (s.reg reg) off size v &&& m))

/-! ### Queue pages (Table 18.3) -/

/-- A queue of a function. -/
def State.queue (s : State) (fn q : Nat) : HostQueue := s.hub.queues.getD (8 * fn + q) HostQueue.reset

/-- Changes a queue. -/
def State.updQueue (s : State) (fn q : Nat) (f : HostQueue → HostQueue) : State :=
  { s with hub := { s.hub with queues := s.hub.queues.set (8 * fn + q) (f (s.queue fn q)) HostQueue.reset } }

/-- A register of a queue page as it reads. -/
def HostQueue.read (h : HostQueue) (off : Nat) : Word64 :=
  let b (x : Bool) (n : Nat) : Nat := if x then 2 ^ n else 0
  if off = 0x08 then BitVec.ofNat 64 h.base
  else if off = 0x10 then BitVec.ofNat 64 (b h.enabled 0 + b h.stopped 1 + h.priority * 2 ^ 4 + h.log * 2 ^ 8)
  else if off = 0x18 then h.rptr.setWidth 64
  else if off = 0x20 then BitVec.ofNat 64 h.shadow
  else if off = 0x28 then h.err
  else 0

/-- The plain fields of a queue page; those of the ring are locked while the queue is enabled (R428). -/
def HostQueue.plain (h : HostQueue) (off size : Nat) (v : Word64) : HostQueue :=
  let reg := off % 0x1000 / 8 * 8
  let new := (mergeWrite (h.read reg) (off % 8) size v).toNat
  if reg = 0x08 then (if h.enabled then h else { h with base := bitsOf new 12 35 * 2 ^ 12 })
  else if reg = 0x10 then
    let log := bitsOf new 8 5
    { h with priority := bitsOf new 4 2, log := if h.enabled then h.log else if 4 ≤ log && log ≤ 16 then log else 4 }
  else if reg = 0x20 then (if h.enabled then h else { h with shadow := new / 8 * 8 })
  else h

/-! ### Registers with a step of their own -/

/-- R424: the power limit; a value above 2,300 writes 2,300. -/
def State.setPowerLimit (s : State) (v : Word64) : State := s.putReg 0x20 (BitVec.ofNat 64 (min 2300 (bitsOf v.toNat 0 12)))

def execPwrlimitWrite (value : Word64) (s : State) : Host.Outcome State Fault Refusal := .next (s.setPowerLimit value)

/-- R424: a write of 1 clears an EVENT bit, which is also the word of system software that the package waits for (R22, R298). -/
def State.clearEvents (s : State) (v : Word64) : State :=
  State.putReg { s with hub := { s.hub with waits := s.hub.waits &&& ~~~v } } 0x38 (s.reg 0x38 &&& ~~~(v &&& 0x1F))

def execEventWrite (value : Word64) (s : State) : Host.Outcome State Fault Refusal := .next (s.clearEvents value)

/-- Clears the counters of a partition (R475). -/
def State.clearCounters (s : State) (part : Nat) : State :=
  { s with hub := { s.hub with counters := s.hub.counters.filter fun c => c.1 / 256 != part } }

/-- R424, R426: a write for a busy partition is ignored; a change resets the partition's counters. -/
def State.lend (s : State) (partition : Nat) (lent : Bool) : State :=
  let off := 0x300 + 8 * partition
  if 64 ≤ partition || s.busyPart partition || (s.reg off).getLsbD 0 == lent then s
  else (s.setRegBit off 0 lent).clearCounters partition

def execPvfWrite (partition : Nat) (lent : Bool) (s : State) : Host.Outcome State Fault Refusal := .next (s.lend partition lent)

/-- R345, R424, R425: padding and enable; a padding below 3·raw + 46 leaves enable clear. Before training there is no raw latency to
refuse by. -/
def State.setPadding (s : State) (port : Nat) (value : Word64) : State :=
  let off := 0x700 + 8 * port
  let old := s.reg off
  let pad := bitsOf value.toNat 0 16
  let ok := !old.getLsbD 17 || 3 * bitsOf old.toNat 32 16 + 46 ≤ pad
  if 16 ≤ port || s.launching then s
  else s.putReg off ((old &&& ~~~(0x1FFFF : Word64)) ||| BitVec.ofNat 64 (pad + (if value.getLsbD 16 && ok then 2 ^ 16 else 0)))

def execLinkpadWrite (port : Nat) (value : Word64) (s : State) : Host.Outcome State Fault Refusal := .next (s.setPadding port value)

/-- R425: training of an enabled port completes, with the measured latency; a peer that carries this package's id leaves the port down,
and the conflict is reported (R23). The manual names no register for the report, which the model keeps in a list (DESIGN CHOICE,
log 46). -/
def execLinkTrainingDone (port : Nat) (raw : Training) (s : State) : Host.Outcome State Fault Refusal :=
  let off := 0x700 + 8 * port
  let old := s.reg off
  .next (
    if 16 ≤ port || !old.getLsbD 16 then s
    else if raw.peer = s.hub.pkgid then
      State.putReg { s with hub := { s.hub with conflicts := NatSet.insert s.hub.conflicts port } } off (old &&& ~~~(0x60000 : Word64))
    else State.putReg { s with hub := { s.hub with conflicts := NatSet.erase s.hub.conflicts port } } off
      ((old &&& ~~~(0xFFFF00000000 : Word64)) ||| 0x60000 ||| (raw.latency.setWidth 64 <<< 32)))

/-- R21, R425: alignment starts, unless a launch runs; its completion is an event of the links. The manual names only a loss as clearing
DOMCTL.aligned; that a start clears it too is the model's choice (DESIGN CHOICE, log 47). -/
def State.startAlignment (s : State) : State :=
  if s.launching then s else State.setRegBit { s with hub := { s.hub with aligning := true } } 0x800 2 false

def execDomctlStartAlignment (s : State) : Host.Outcome State Fault Refusal := .next s.startAlignment

/-- R20, R21, R425: while alignment is being established the firmware writes the counter, but on the reference package, and the alignment is
complete; at any other time nothing happens. What the reference package counts is a free value (log 3). -/
def execAlignmentComplete (s : State) : Host.Outcome State Fault Refusal :=
  .next (
    if !s.hub.aligning then s
    else
      let s := State.setRegBit { s with hub := { s.hub with aligning := false } } 0x800 2 true
      if (s.reg 0x800).getLsbD 0 then s else { s with cycle := Config.referenceCycle s.time })

/-- R21, R425: the loss clears DOMCTL.aligned and sets EVENT bit 2. -/
def execAlignmentLoss (s : State) : Host.Outcome State Fault Refusal := .next ((s.setRegBit 0x800 2 false).event 2)

/-- Whether the domain count is aligned. -/
def State.aligned (s : State) : Bool := (s.reg 0x800).getLsbD 2

/-- The virtual addresses that an invalidation covers (R329). -/
def State.invalidRange (s : State) (va : Nat) : Bool :=
  (s.reg 0x508).toNat ≤ va && va < (s.reg 0x508).toNat + (s.reg 0x510).toNat

/-- R329: an invalidation starts, unless one is busy: every cache drops the entries of the range. -/
def State.startInvalidation (s : State) : State :=
  if (s.reg 0x518).getLsbD 1 then s
  else
    let lo := (s.reg 0x508).toNat
    let hi := lo + (s.reg 0x510).toNat
    let hits (e : TlbEntry) : Bool := e.root == s.reg 0x500 && e.page * 2 ^ e.bits < hi && lo < (e.page + 1) * 2 ^ e.bits
    let held (e : LevelEntry) : Bool := e.root == s.reg 0x500 && e.prefix_ * 2 ^ e.bits < hi && lo < (e.prefix_ + 1) * 2 ^ e.bits
    let s := { s with
      tiles := s.tiles.map fun (kt : Nat × Tile) => (kt.1, { kt.2 with tlb := kt.2.tlb.filter fun e => !hits e })
      hub := { s.hub with levels := s.hub.levels.filter fun e => !held e } }
    let d := s.drawDelay 64
    (d.2.setRegBit 0x518 1 true).after d.1 .invalidationComplete 60

def execInvctlStart (s : State) : Host.Outcome State Fault Refusal := .next s.startInvalidation

/-- R329: complete once no beat that an old entry may have translated is under way. -/
def execInvalidationComplete (s : State) : Host.Outcome State Fault Refusal :=
  let virtual (o : CopyOp) : Bool := (o.dkind == 2 || o.skind == 2) && (o.hand.isSome || o.reach.isSome || !o.held.isEmpty)
  .next (if s.copies.any fun o => virtual o.2 then s.after 1 .invalidationComplete 60 else s.setRegBit 0x518 1 false)

/-- The contexts on a partition, wherever they are held. -/
def State.ctxsOn (s : State) (part : Nat) : List (Nat × Nat × Ctx) := s.allCtxs.filter fun x => partOf x.1 == part

/-- Ends every context on a partition under R148. -/
def State.killPartition (s : State) (part status : Nat) : State :=
  (s.ctxsOn part).foldl (fun s x => s.killContext x.1 x.2.1 status 0 0) s

/-- R424: KILL with go set. -/
def execKillGo (partition : Nat) (s : State) : Host.Outcome State Fault Refusal := .next (s.killPartition partition 4)

/-! ### Writes by offset -/

/-- An aligned write of 4 or 8 bytes to a package register (R421, R424), which takes the step of its register. -/
def State.writeRegister (s : State) (off size : Nat) (v : Word64) : State :=
  let reg := off / 8 * 8
  let new := mergeWrite (s.readReg reg) off size v
  let ones := mergeWrite 0 off size v
  if reg = 0x20 then s.setPowerLimit new
  else if reg = 0x38 then s.clearEvents ones
  else if 0x300 ≤ reg && reg < 0x500 then s.lend ((reg - 0x300) / 8) (new.getLsbD 0)
  else if reg = 0x518 then (if ones.getLsbD 0 then s.startInvalidation else s)
  else if reg = 0x600 then
    let s := s.plainWrite off size v
    if ones.getLsbD 63 then s.killPartition (bitsOf new.toNat 0 6) 4 else s
  else if 0x700 ≤ reg && reg < 0x780 then s.setPadding ((reg - 0x700) / 8) new
  else if reg = 0x800 then
    let s := s.plainWrite off size v
    if ones.getLsbD 1 then s.startAlignment else s
  else s.plainWrite off size v

/-! ### Queues (R428, R430) -/

/-- R430: a notify index. -/
def State.notify (s : State) (fn q : Nat) (n : Word32) : State :=
  s.updQueue fn q fun h =>
    if n = h.notify then h
    else if 2 ^ h.log < (n - h.rptr).toNat then { h with stopped := true, err := 0x000A }
    else { h with notify := n }

def execQnotify (fn q : Nat) (index : BitVec 32) (s : State) : Host.Outcome State Fault Refusal := .next (s.notify fn q index)

/-- R428: clearing enable stops reading; packets already started run on. -/
def execQueueEnable (fn q : Nat) (on : Bool) (s : State) : Host.Outcome State Fault Refusal :=
  .next (s.updQueue fn q fun h => { h with enabled := on })

/-- R430: resume clears stopped. -/
def execQueueResume (fn q : Nat) (s : State) : Host.Outcome State Fault Refusal :=
  .next (s.updQueue fn q fun h => { h with stopped := false })

/-- A write to a queue page: the plain fields, then resume, then enable. -/
def State.writeQueue (s : State) (fn off size : Nat) (v : Word64) : State :=
  let q := off / 0x1000
  let reg := off % 0x1000 / 8 * 8
  let h := s.queue fn q
  let new := mergeWrite (h.read reg) (off % 8) size v
  if 8 ≤ q then s
  else if reg = 0 then (if off % 8 = 0 then s.notify fn q (new.setWidth 32) else s)
  else if reg = 0x10 then
    s.updQueue fn q fun h =>
      let h := h.plain off size v
      { h with stopped := h.stopped && !(mergeWrite 0 (off % 8) size v).getLsbD 2, enabled := new.getLsbD 0 }
  else s.updQueue fn q fun h => h.plain off size v

/-- R421, R424, R428: an aligned 4- or 8-byte write to a package register (BAR0 of the PF) or a queue page (BAR2 of the PF, BAR0 of
a VF). Any other access changes nothing and completes with Unsupported Request. A host read of a register finds what State.readReg and
HostQueue.read give; the table has no row for it. -/
def execRegisterWrite (fn bar offset size : Nat) (value : Word64) (s : State) : Host.Outcome State Fault Refusal :=
  .next (
    if s.hub.recovery then s
    else if !((size == 4 || size == 8) && offset % size == 0 && offset < 0x10000) then s.answers 1 []
    else if fn = 0 && bar = 0 then s.writeRegister offset size value
    else if (fn = 0 && bar = 2) || (fn ≠ 0 && bar = 0) then s.writeQueue fn offset size value
    else s.answers 1 [])

end Sys2Proof.Machine
end

