-- ==== Sys2Proof/Machine/Translate.lean ====
section
/-! DEFINITION. Addresses of copies (04_memory R86, R91; 13_copy R308, R325-R329): homes, the walk of the translation tables, the
tiles' translation caches and the page-walk service. -/

namespace Sys2Proof.Machine

/-! ### Homes (R86) -/

/-- The rules of Table 4.2 for some bytes from an address up, as the detail of the first that fails. -/
def State.badHome (s : State) (h : Home) (n : Nat) : Option Nat :=
  if !s.inDomain h.pkg then some 0x0004
  else if 4 ≤ h.space then some 0x0005
  else if h.space = 3 then none
  else if (if h.space = 2 then decide (h.tile ≠ 0) else decide (1152 ≤ h.tile)) then some 0x0003
  else if (if h.space = 0 then 2 ^ 29 else if h.space = 1 then Config.windowBase else 0x10000) < h.off + n then some 0x0006
  else none

/-- The key of a home's bytes in State.mem; those of other packages lie above (log 3). -/
def State.keyOf (s : State) (h : Home) : Nat :=
  (if s.isHere h then 0 else (1 + h.pkg) * 2 ^ 50) + h.space * 2 ^ 47 + h.tile * 2 ^ 36 + h.off

/-- A global address in this package. -/
def State.globalOf (s : State) (space tile off : Nat) : Word64 :=
  BitVec.ofNat 64 (s.packageId * 2 ^ 50 + space * 2 ^ 47 + tile * 2 ^ 36 + off)

/-! ### The walk (R325-R327) -/

/-- The offset bits of a leaf at each level. -/
def levelBits : List Nat := [48, 40, 32, 24, 16]

/-- Why a leaf is bad (R326). -/
def badLeaf (bits : Nat) (e : Nat) : Bool :=
  bits == 48 || bits == 40 || bitsOf e 8 8 != 0 || 6 ≤ bitsOf e 5 3 ||
    (bits == 32 && bitsOf e 16 16 != 0) || (bits == 24 && bitsOf e 16 8 != 0)

/-- The entry of a table that a walk takes at a level: one that the service holds of levels 0-2 (R328, log 45), or the one in memory, or none
where its address is bad or its read fails; a host abort is a free value (R327, log 4). -/
def State.tableEntry (s : State) (root : Word64) (va bits : Nat) (table : Word64) : Except (Nat × Nat) Nat :=
  let h := homeOf (table + BitVec.ofNat 64 (8 * bitsOf va bits 8))
  match s.hub.levels.find? fun e => e.root == root && e.bits == bits && e.prefix_ == va / 2 ^ bits with
  | some e => .ok e.entry
  | none =>
    if h.space ≠ 0 && h.space ≠ 3 || (s.badHome h 8).isSome then .error (causeTranslationFault, 0x0D02)
    else if s.poisoned (s.keyOf h) 8 || (h.space == 3 && Config.hostAborts s.free) then .error (causeTranslationFault, 0x0D0A)
    else .ok (leNat (s.read (s.keyOf h) 8))

/-- The walk of the tables for a virtual address: offset bits and leaf, or cause and detail; and the entries that the service then
holds. -/
def State.walkFrom (s : State) (root : Word64) (va : Nat) : List Nat → Word64 → List LevelEntry → Except (Nat × Nat) (Nat × Word64) × List LevelEntry
  | [], _, held => (.error (causeTranslationFault, 0x0D01), held)
  | bits :: rest, table, held =>
    match s.tableEntry root va bits table with
    | .error x => (.error x, held)
    | .ok e =>
      let mine (x : LevelEntry) : Bool := x.root == root && x.bits == bits && x.prefix_ == va / 2 ^ bits
      let held := if 32 ≤ bits && !held.any mine then ⟨root, bits, va / 2 ^ bits, e⟩ :: held else held
      if !e.testBit 0 then (.error (causeTranslationFault, 0x0D00), held)
      else if e.testBit 1 then
        ((if badLeaf bits e then .error (causeTranslationFault, 0x0D01) else .ok (bits, BitVec.ofNat 64 e)), held)
      else if bits = 16 || bitsOf e 2 9 ≠ 0 then (.error (causeTranslationFault, 0x0D01), held)
      else s.walkFrom root va rest (BitVec.ofNat 64 (e / 2 ^ 11 * 2 ^ 11)) held

/-- A walk from a root, with the entries that the service holds after it. -/
def State.walkVa (s : State) (root : Word64) (va : Nat) : Except (Nat × Nat) (Nat × Word64) × List LevelEntry :=
  s.walkFrom root va levelBits root s.hub.levels

/-! ### Translation of an operand (R308, R325-R328) -/

/-- What a copy does to a page. -/
inductive Touch where
  | read | write | modify
  deriving DecidableEq, Repr

/-- An operand translated: a global address, a page to walk for, or a failure. -/
inductive Found where
  | at (g : Word64)
  | miss (root : Word64) (page : Nat)
  | fails (cause detail : Nat)

/-- The translation root of a tile's partition. -/
def State.rootOf (s : State) (tile : Nat) : Word64 := s.reg (0x100 + 8 * partOf tile)

/-- A context of an object loaded as trusted. -/
def State.trustedWho (s : State) (w : Who) : Bool := (s.hub.launches.find? w.launch).any (·.trusted)

/-- The function of the queue whose packet an operation serves. -/
def CopyOp.function (s : State) (o : CopyOp) : Nat := ((s.hub.packets.find? o.packet).map (·.fn)).getD 0

/-- An access of another package's copy engine, whose tile lies above this package's (log 3). -/
def CopyOp.foreign (o : CopyOp) : Bool := decide (Config.tiles ≤ o.tile)

/-- Whether an operation may name global addresses (R308, R434). -/
def State.physicalAllowed (s : State) (o : CopyOp) (g : Word64) : Bool :=
  match o.owner with
  | some w => s.trustedWho w
  | none =>
    let h := homeOf g
    o.function s == 0 || h.space == 3 || (s.isHere h && h.space < 2 && partOf h.tile + 1 == o.function s)

/-- The failures of a page's attributes, in the order of Table 13.8. -/
def State.badAccess (s : State) (tile : Nat) (leaf : Word64) (t : Touch) (g : Word64) : Option Nat :=
  if t ≠ .read && !leaf.getLsbD 2 then some 0x0D03
  else if t = .modify && !leaf.getLsbD 3 then some 0x0D04
  else if t = .modify && (homeOf g).space = 3 && !leaf.getLsbD 4 then some 0x0D05
  else if !s.covers (bitsOf leaf.toNat 5 3) tile (homeOf g) then some 0x0D06
  else none

/-- The global address of an operand of a kind. -/
def State.translate (s : State) (o : CopyOp) (kind : Nat) (a : Word64) (t : Touch) : Found :=
  match kind with
  | 0 => if a.toNat < 2 ^ 36 then .at (s.globalOf 1 o.tile a.toNat) else .fails causeTranslationFault 0x0006
  | 1 => if a.toNat < 2 ^ 36 then .at (s.globalOf 0 o.tile a.toNat) else .fails causeTranslationFault 0x0006
  | 2 =>
    let root := s.rootOf o.tile
    let page := a.toNat / 2 ^ 16
    if 2 ^ 56 ≤ a.toNat || root = 0 then .fails causeTranslationFault 0x0D00
    else
      match (s.tile o.tile).tlb.find? fun e => e.root == root && e.page == a.toNat / 2 ^ e.bits with
      | some e =>
        let low := BitVec.ofNat 64 (2 ^ e.bits - 1)
        let g := (e.leaf &&& ~~~low) ||| (a &&& low)
        (match s.badAccess o.tile e.leaf t g with
        | some d => .fails causePermission d
        | none => .at g)
      | none =>
        match o.fault with
        | some (p, cause, detail) => if p = page then .fails cause detail else .miss root page
        | none => .miss root page
  | _ => if o.foreign || s.physicalAllowed o a then .at a else .fails causePermission 0x0D07

/-! ### Caches and walks (R328) -/

/-- The miss slots that a tile uses. -/
def State.missSlots (s : State) (tile : Nat) : Nat := (s.hub.walks.filter fun w => w.tiles.contains tile).length

/-- Adds an entry to a cache of 512; the oldest goes where it is full (log 23). -/
def cacheInsert (l : List TlbEntry) (e : TlbEntry) : List TlbEntry := (e :: l).take 512

end Sys2Proof.Machine
end

