-- ==== Sys2Proof/Machine/Copy.lean ====
section
/-! DEFINITION. The copy engine (13_copy): operations one after the other for each context and channel (log 7), the beats they read
and write at their homes, accumulate-on-write and compare-and-swap, and chains. -/

namespace Sys2Proof.Machine

/-! ### Geometry of an operation (R311, R312) -/

/-- The destination operand of the next beat. -/
def CopyOp.dstAt (o : CopyOp) : Word64 := o.dst + BitVec.ofNat 64 (rowOffset o.extents o.dstrides (o.pos / o.row) + o.pos % o.row)

/-- The source operand of the next beat. -/
def CopyOp.srcAt (o : CopyOp) : Word64 := o.src + BitVec.ofNat 64 (rowOffset o.extents o.sstrides (o.pos / o.row) + o.pos % o.row)

/-- Bytes of the next beat: at most one line of the destination, or one aligned unit of 8 bytes of it where a beat has failed. -/
def CopyOp.beat (o : CopyOp) : Nat :=
  let w := if o.fine then 8 else 128
  min (o.row - o.pos % o.row) (w - o.dstAt.toNat % w)

/-- Bytes of the beat already read. -/
def CopyOp.got (o : CopyOp) : Nat := (o.hand.map (·.1.length)).getD 0

/-- Bytes of the next source access: at most one line of the source. -/
def CopyOp.piece (o : CopyOp) : Nat := min (o.beat - o.got) (128 - (o.srcAt.toNat + o.got) % 128)

/-- Whether an operation has a source. -/
def CopyOp.reads (o : CopyOp) : Bool := match o.mode with | .move | .fetch => true | _ => false

/-- How an operation touches its destination page. -/
def CopyOp.touch (o : CopyOp) : Touch := match o.mode with | .accw _ _ _ | .casw _ _ _ _ => .modify | _ => .write

/-! ### Operations -/

/-- Changes an operation. -/
def State.putCopy (s : State) (id : Nat) (o : CopyOp) : State := { s with copies := s.copies.put id o }

/-- A context back at its place, with the number that its new operation took. -/
def State.issued (s : State) (e : Issued) (c : Ctx) : State := { s.putCtx e.tile e.place c with ids := s.ids + 1 }

/-- Operations of one context, or of one channel, run in issue order (log 7). -/
def sameLine (a b : CopyOp) : Bool := a.tile == b.tile && a.owner == b.owner && a.chain == b.chain

/-- The link by which a beat of a tile reaches a home port, in the order of R319: local engine, north, east, south, west, die bridge,
hub. A beat of the dimension-order route comes in from the side of its last hop (R337). -/
def linkInto (source home : Nat) : Nat :=
  if source = home then 0
  else if dieOf source ≠ dieOf home then (if apart (dieOf source) (dieOf home) = 1 then 5 else 6)
  else if rowOf source < rowOf home then 1
  else if rowOf home < rowOf source then 3
  else if colOf source < colOf home then 4 else 2

/-- The link by which an operation's beats reach their home's port. -/
def State.portLink (s : State) (o : CopyOp) : Nat :=
  if o.foreign || (o.owner.isNone && o.chain.isNone) then 6
  else ((s.operandHome o.tile o.dkind o.dstAt).map fun h => linkInto o.tile h.tile).getD 0

/-- The first step of an operation, or its next; beats that reach a port in one cycle come in the order of their links (R319). -/
def State.copyGo (s : State) (id : Nat) (o : CopyOp) : State :=
  let d := s.drawDelay 4
  if o.reads && o.got < o.beat then d.2.after d.1 (.copySourceRead id) 60 else d.2.after d.1 (.copyBeatArrival id) (60 + s.portLink o)

/-- Changes the context of an operation, wherever it is held. -/
def State.updWho (s : State) (w : Who) (f : Nat → Ctx → Ctx) : State :=
  match s.findWho w with
  | some (t, p, c) => s.putCtx t p (f (s.landClock t) c)
  | none => s

/-- Changes the owner of an operation. -/
def State.updOwner (s : State) (o : CopyOp) (f : Nat → Ctx → Ctx) : State :=
  match o.owner with
  | some w => s.updWho w f
  | none => s

/-- Changes a channel. -/
def State.updChannel (s : State) (tile ch : Nat) (f : Channel → Channel) : State :=
  s.updTile tile fun t => { t with channels := t.channels.put ch (f (t.channels.getD ch Channel.stopped)) }

/-- Takes performed bytes off the operation's token. -/
def State.copyProgress (s : State) (o : CopyOp) (n : Nat) : State :=
  match o.token with
  | some t => s.updOwner o fun clock c => c.progress clock t n
  | none => s

/-- The operation has ended: the next of its line starts, unless it still waits for the page that its issue missed, and its chain goes on
(R317). -/
def State.copyDone (s : State) (id : Nat) (o : CopyOp) : State :=
  let s := { s with copies := s.copies.erase id }
  let s := s.updOwner o fun _ c => { c with pending := c.pending.filter fun p => p.id != id }
  let s := match List.find? (fun (x : Nat × CopyOp) => sameLine x.2 o) s.copies with
    | some x => if x.2.walk.isNone then s.copyGo x.1 x.2 else s
    | none => s
  match o.chain with
  | some ch => s.after 1 (.chainRecordStep o.tile ch) 60
  | none => s

/-- The beat is over: the next one, or the end. -/
def State.copyNext (s : State) (id : Nat) (o : CopyOp) (n : Nat) : State :=
  let pos := o.pos + n
  let fresh := pos % o.row = 0
  let o := { o with
    pos := pos, hand := none, fault := none, reach := none, column := 0, passed := 0
    saved := if fresh then [] else o.saved, savedPoison := if fresh then [] else o.savedPoison }
  if pos < o.total then (s.putCopy id o).copyGo id o
  else if o.held.isEmpty then s.copyDone id o
  else s.putCopy id { o with order := o.order.map fun x => (x.1, s.cycle) }

/-- The channel that an operation serves. -/
def State.chainOfOp (s : State) (o : CopyOp) : Option ChainRun :=
  o.chain.bind fun ch => ((s.tile o.tile).channels.getD ch Channel.stopped).run

/-- Bytes that fail: the token's error, and the bytes taken off as if performed (R321). A failing record of a chain keeps the first
cause; its status store posts nothing, and its failure is the token's all the same (R317). A beat of several units fails unit by unit
(R311). -/
def State.copyFail (s : State) (id : Nat) (o : CopyOp) (n cause detail : Nat) (addr : Word64) : State :=
  if o.mode == .move && !o.fine && ({ o with fine := true }).beat < n then
    (s.putCopy id { o with fine := true, hand := none, reach := none, column := 0 }).copyGo id { o with fine := true, hand := none }
  else
    let s := match o.token with
      | some t => s.updOwner o fun clock c => (c.failToken clock t cause detail addr).progress clock t n
      | none => match o.mode, (s.chainOfOp o).bind (·.token) with
        | .store _, some t => s.updOwner o fun clock c => c.failToken clock t cause detail addr
        | _, _ => s
    let s := match o.chain with
      | some ch => s.updChannel o.tile ch fun h => { h with run := h.run.map fun (r : ChainRun) =>
          if r.cause = 0 then { r with cause := cause, detail := detail } else r }
      | none => s
    s.copyNext id o n

/-! ### Holds and promises -/

/-- Whether an access of an operation, to a home, waits for an operation that the context issued before it in another line (R89, R318, R319):
until that one's beats have all been injected, and as long as it has a write left to the home. What a chain does is issued with its CPYCH. -/
def State.lineHeld (s : State) (id : Nat) (o : CopyOp) (home : Option Home) : Bool :=
  s.copies.any fun (x : Nat × CopyOp) =>
    (decide (x.2.q.seq < o.q.seq) || (x.2.q.seq == o.q.seq && decide (x.1 < id))) && x.2.owner == o.owner && x.2.tile == o.tile && x.2.chain != o.chain &&
      (x.2.order.isNone || (s.writesLeft x.2).any fun h => sameHome h home)

/-- What an access of an operation that has left its queue still waits for: older operations of other lines (R318), an acquire whose scope
holds its home (R94), and its own release (R93): at sys where it writes to host memory (R97). -/
def State.copyHeld (s : State) (id : Nat) (o : CopyOp) (home : Option Home) (write : Bool) : Bool :=
  match o.owner.bind s.findWho with
  | none => false
  | some (tile, _, c) =>
    let release := write && (match o.mode with
      | .store _ => true
      | _ => match decode o.q.slot o.q.lend o.q.word with
        | .ok i => isRelease i
        | .error _ => false)
    let scope := if home.all fun h => h.space != 3 then o.q.scope.toNat else 5
    s.lineHeld id o home || ((c.acquires o.q).any fun a => home.all (s.covers a.scope.toNat tile)) ||
      (release && s.unpublished tile c o.q.seq scope)

/-- The token on which an operation reports what it waits for: its own, or that of the chain it serves (R324). -/
def State.opToken (s : State) (o : CopyOp) : Option Nat := o.token.or ((s.chainOfOp o).bind (·.token))

/-- A part of open latency (R324): the budgets of an operation add up, and the token takes the later promise. -/
def State.promisePart (s : State) (id : Nat) (o : CopyOp) (found : Word64) (field part : Nat) : State × CopyOp :=
  match o.owner.bind s.findWho, s.opToken o with
  | some (tile, place, c), some t =>
    let budget := o.budget + bitsOf (c.csrLast 0x69).toNat (16 * field) 16
    let since := if o.since < found then found else o.since
    let p := since + BitVec.ofNat 64 (budget + ceilDiv o.total 128)
    let o := { o with budget := budget, since := since, parts := o.parts ||| part }
    ((s.putCtx tile place (c.updToken t fun k => { k with promise := if k.promise < p then p else k.promise })).putCopy id o, o)
  | _, _ => (s, o)

/-- The host and remote parts of a home, once each for the source and the destination. -/
def State.promiseHome (s : State) (id : Nat) (o : CopyOp) (h : Home) (source : Bool) : State × CopyOp :=
  let part := (if h.space = 3 then 1 else if s.isHere h then 0 else 4) * (if source then 2 else 1)
  if part = 0 || o.parts &&& part ≠ 0 then (s, o)
  else s.promisePart id o o.issued (if h.space = 3 then 1 else 2) part

/-- Starts a walk for a page, or joins the one under way; the service runs at most 1,024 at once, in the order of their misses (R328). A
tile takes one of its 16 slots, or none where it has one for the page; where all are taken the miss waits inside the engine. -/
def State.startWalk (s : State) (tile : Nat) (root : Word64) (page : Nat) : State :=
  let same (w : Walk) : Bool := w.root == root && w.page == page
  let put (s : State) (l : List Walk) : State := { s with hub := { s.hub with walks := l } }
  match s.hub.walks.find? same with
  | some w =>
    if w.tiles.contains tile || 16 ≤ s.missSlots tile then s
    else put s (s.hub.walks.map fun w => if same w then { w with tiles := w.tiles ++ [tile] } else w)
  | none =>
    if 16 ≤ s.missSlots tile then s
    else
      let s1 := put s (s.hub.walks ++ [⟨root, page, [tile]⟩])
      if s.hub.walks.length < 1024 then { s1 with free := s1.free + 1 }.after (1 + Config.delay s1.free) (.walkComplete root page) 60 else s1

/-- A miss of the translation cache: its promise (R324), the token's outstanding miss, and its walk. -/
def State.copyMiss (s : State) (id : Nat) (o : CopyOp) (root : Word64) (page : Nat) : State :=
  let x := s.promisePart id o s.cycle 0 0
  let s := x.1.putCopy id { x.2 with walk := some (root, page) }
  let s := match s.opToken o with
    | some t => s.updOwner o fun _ c => c.updToken t fun k => { k with misses := k.misses + 1 }
    | none => s
  s.startWalk o.tile root page

/-- What the engine finds at the issue of an operation: the unbounded parts that its first addresses show, with their promises, and its first
miss (R324). -/
def State.copyProbe (s : State) (id : Nat) (o : CopyOp) : State :=
  let look (x : State × CopyOp) (kind : Nat) (a : Word64) (source : Bool) : State × CopyOp :=
    let s := x.1
    let o := x.2
    match s.translate o kind a (if source then .read else o.touch) with
    | .at g => s.promiseHome id o (homeOf g) source
    | .miss root page =>
      if o.walk.isSome then x
      else
        let s := s.copyMiss id o root page
        (s, (s.copies.find? id).getD o)
    | .fails _ _ => x
  let x := look (s, o) o.dkind o.dst false
  (if o.reads then look x o.skind o.src true else x).1

/-- Whether an operation is the first of its line, and so may run. -/
def State.runs (s : State) (id : Nat) (o : CopyOp) : Bool :=
  ((List.find? (fun (x : Nat × CopyOp) => sameLine x.2 o) s.copies).map (·.1)) == some id

/-- Puts an operation into its engine. -/
def State.addCopy (s : State) (o : CopyOp) : State :=
  let id := s.ids
  let alone := !s.copies.any fun x => sameLine x.2 o
  let s := { s.putCopy id o with ids := id + 1 }
  let s := match o.owner, o.chain with
    | some w, none => (match s.findWho w with
        | some (t, p, c) => s.putCtx t p { c with pending := c.pending ++ [(⟨id, o.q.seq, 3⟩ : Pending)] }
        | none => s)
    | _, _ => s
  let s := s.copyProbe id o
  match s.copies.find? id with
  | some o => if alone && o.walk.isNone then s.copyGo id o else s
  | none => s

/-- R328: the walk fills the caches of the tiles that wait for it, or fails the operations that do (R327); the service starts the next
walk, and misses that waited for a slot take theirs. A host abort of a table read is a free value (log 4). -/
def execWalkComplete (root : Word64) (va : Nat) (s : State) : Host.Outcome State Fault Refusal :=
  .next (
    let same (w : Walk) : Bool := w.root == root && w.page == va
    match s.hub.walks.find? same with
    | none => s
    | some w =>
      let x : Except (Nat × Nat) (Nat × Word64) × List LevelEntry := s.walkVa root (va * 2 ^ 16)
      let result := x.1
      let rest := s.hub.walks.filter fun w => !same w
      let s := { s with free := s.free + 1, hub := { s.hub with walks := rest, levels := x.2 } }
      let s := match rest[1023]? with
        | some n => { s with free := s.free + 1 }.after (1 + Config.delay s.free) (.walkComplete n.root n.page) 60
        | none => s
      let s := match result with
        | .ok (bits, leaf) => w.tiles.foldl (fun (s : State) t => s.updTile t fun x =>
            { x with tlb := cacheInsert x.tlb ⟨root, va * 2 ^ 16 / 2 ^ bits, bits, leaf⟩ }) s
        | .error _ => s
      let fault : Option (Nat × Nat × Nat) := match result with
        | .ok _ => none
        | .error (cause, detail) => some (va, cause, detail)
      let s := (s.copies.filter fun (o : Nat × CopyOp) => o.2.walk == some (root, va) && w.tiles.contains o.2.tile).foldl
        (fun (s : State) (x : Nat × CopyOp) =>
          let o := { x.2 with walk := none, fault := fault }
          let s := match s.opToken o with
            | some t => s.updOwner o fun _ c => c.updToken t fun k => { k with misses := k.misses - 1 }
            | none => s
          let s := s.putCopy x.1 o
          if s.runs x.1 o then s.copyGo x.1 o else s) s
      s.copies.foldl (fun (s : State) (x : Nat × CopyOp) => match x.2.walk with
        | some (r, p) => s.startWalk x.2.tile r p
        | none => s) s)

/-! ### The home (R105, R143, R320) -/

/-- Whether a launch admits an access through the CP entries of one of its contexts on a tile, at each granule. -/
def State.admits (s : State) (tile launch : Nat) (rd wr sync vault : Bool) (a n : Nat) : Bool :=
  match (s.hub.launches.find? launch).bind (·.sets) with
  | none => true
  | some sets =>
    let active := s.groupsOn tile launch
    (granules a n).all fun k =>
      (active.any fun x => (!rd || currentEntry sets x.1 x.2 3 false vault k) && (!wr || currentEntry sets x.1 x.2 3 true vault k)) &&
        (sync || !syncRegion sets active vault k)

/-- The launches that run on a tile: those with a context there that is active or parked. Whether one whose contexts there are all saved or
halted still counts is left open (DESIGN CHOICE, log 52). -/
def State.launchesOn (s : State) (tile : Nat) : List Nat :=
  (((s.tileCtxs tile).filter fun x => x.1 < 6).map fun x => x.2.launch).eraseDups

/-- R105: the check of an access at its home, for the launch it comes from. -/
def State.homeRefuses (s : State) (launch : Option Nat) (h : Home) (n : Nat) (rd wr sync : Bool) : Bool :=
  let on := s.launchesOn h.tile
  let asked := match launch with
    | some l => if on.contains l then [l] else on
    | none => on
  s.isHere h && h.space < 2 && !asked.all fun l => s.admits h.tile l rd wr sync (h.space == 0) h.off n

/-- The save area of a vault (R143). -/
def inSaveArea (h : Home) (n : Nat) : Bool := h.space == 0 && 0x1FFE0000 < h.off + n

/-- The failures of an access at its home, with the cause and detail of each. -/
def State.homeFault (s : State) (o : CopyOp) (h : Home) (n : Nat) (rd wr sync : Bool) : Option (Nat × Nat) :=
  match s.badHome h n with
  | some d => some (causeTranslationFault, d)
  | none =>
    if inSaveArea h n then some (causePermission, 0x000C)
    else if wr && h.space = 2 && !((o.owner.map s.trustedWho).getD (o.function s == 0)) then some (causePermission, 0x1200)
    else if s.homeRefuses (o.owner.map (·.launch)) h n rd wr sync then some (causeSetOverlap, 0x0009)
    else none

/-- The bytes at a home; a package register reads by its bytes. -/
def State.bytesAt (s : State) (h : Home) (n : Nat) : List Byte :=
  if h.space = 2 && s.isHere h then (List.range n).map fun k => BitVec.ofNat 8 ((s.readReg (h.off + k)).toNat / 2 ^ (8 * ((h.off + k) % 8)))
  else s.read (s.keyOf h) n

/-- A copy write to package registers: its whole aligned words of 8 bytes, and else of 4 (log 24). -/
def State.writeRegs (s : State) (off : Nat) : Nat → List Byte → State
  | 0, _ => s
  | fuel + 1, bs =>
    if off % 8 = 0 && 8 ≤ bs.length then (s.writeRegister off 8 (BitVec.ofNat 64 (leNat (bs.take 8)))).writeRegs (off + 8) fuel (bs.drop 8)
    else if off % 4 = 0 && 4 ≤ bs.length then
      (s.writeRegister off 4 (BitVec.ofNat 64 (leNat (bs.take 4)))).writeRegs (off + 4) fuel (bs.drop 4)
    else if bs.isEmpty then s
    else s.writeRegs (off + 1) fuel (bs.drop 1)

/-- A write by one beat at a home, with the offsets of its poisoned bytes. -/
def State.writeHome (s : State) (h : Home) (bytes : List Byte) (bad : List Nat) : State :=
  if h.space = 2 && s.isHere h then s.writeRegs h.off bytes.length bytes
  else s.writeMixed (s.keyOf h) bytes (if h.space = 3 then [] else bad)

/-- What a copy overwrites in the data SRAM of its own tile is kept for the reads of its bundle that its writes are hidden from (R90, R303). -/
def State.keepCopied (s : State) (o : CopyOp) (h : Home) (bs : List Byte) : State :=
  if h.space = 1 && h.tile = o.tile && s.isHere h then
    s.updOwner o fun _ c => { c with undo := c.undo ++ s.kept o.tile o.q.seq 3 (cellsFrom h.off bs) }
  else s

/-- A write of an operation at its home, which keeps what it overwrites. -/
def State.copyWrite (s : State) (o : CopyOp) (h : Home) (bs : List Byte) (bad : List Nat) : State := (s.keepCopied o h bs).writeHome h bs bad

/-- Whether an access on path CP takes its bank of a data SRAM in this cycle: not while a program access or another of that path has it;
passed over 32 times it takes the bank of the next cycle (R320). -/
def State.cpBank (s : State) (tile addr n passed : Nat) : Except State State :=
  let lines := rowLines [addr, addr + n - 1]
  let taken := (s.tile tile).lines
  if lines.any fun l => taken.any fun k => k % 16 == l % 16 then
    .error (if 31 ≤ passed then s.updTile tile fun t => { t with starved := (t.starved ++ lines).eraseDups } else s)
  else .ok ((s.claim tile lines).updTile tile fun t => { t with starved := t.starved.filter fun l => !lines.contains l })

/-- The same for a beat of a copy, which counts the cycles in which it is passed over. -/
def State.copyBank (s : State) (id : Nat) (o : CopyOp) (h : Home) (n : Nat) : Except State State :=
  match s.cpBank h.tile h.off n o.passed with
  | .error s => .error (s.putCopy id { o with passed := o.passed + 1 })
  | .ok s => .ok s

/-! ### Links of a deterministic launch (R339) -/

/-- The parts of a route between a tile and a home that lie within dies: by way of the bridges where they are not in one. -/
def State.copyLegs (s : State) (tile : Nat) (h : Home) : List (Nat × Nat) :=
  if Config.tiles ≤ tile then (if h.space < 2 then [(bridgeTile h.tile, h.tile)] else [])
  else if s.isHere h && h.space < 2 then
    if dieOf tile = dieOf h.tile then [(tile, h.tile)] else [(tile, bridgeTile tile), (bridgeTile h.tile, h.tile)]
  else [(tile, bridgeTile tile)]

/-- Whether the route of a beat between an operation's tile and a home crosses links of another launch that is deterministic, in the
dimension order or, turned, in the other one. -/
def State.copyCrosses (s : State) (o : CopyOp) (h : Home) (turned : Bool) : Bool :=
  s.crosses (o.owner.map (·.launch)) turned (s.copyLegs o.tile h)

/-- Whether the beat waits at its source: both routes cross such links. -/
def State.barred (s : State) (o : CopyOp) (h : Home) : Bool := s.copyCrosses o h false && s.copyCrosses o h true

/-- Where an operation's beats enter and leave the mesh: its own tile, or the hub for the command processor and other packages. -/
def CopyOp.seat (o : CopyOp) : Option Nat := if o.foreign || (o.owner.isNone && o.chain.isNone) then none else some o.tile

/-- Where a home's beats do. -/
def State.homeSeat (s : State) (h : Home) : Option Nat := if s.isHere h && h.space < 2 then some h.tile else none

/-- The segments that a beat takes from an operation's tile to a home, or back. -/
def State.copySegments (s : State) (o : CopyOp) (h : Home) (back : Bool) : List (Nat × Nat × Nat) :=
  let turned := s.copyCrosses o h false
  if back then beatSegments turned (s.homeSeat h) o.seat else beatSegments turned o.seat (s.homeSeat h)

/-- Sends a beat on its way in this cycle, if every slot that it needs is free: the cycles that it travels. -/
def State.copySend (s : State) (o : CopyOp) (h : Home) (back : Bool) : Option (Nat × State) :=
  let segments := s.copySegments o h back
  if s.slotsFree s.flowSlots segments 0 then some (travel segments, s.takeSlots segments 0) else none

/-! ### Reading the source (R311) -/

/-- The bytes of a source access, as they stood before the row was written. -/
def State.sourceBytes (s : State) (o : CopyOp) (h : Home) (n : Nat) : List Byte × List Nat :=
  let key := s.keyOf h
  let now := s.bytesAt h n
  (now.mapIdx fun k b => ((o.saved.find? fun x => x.1 == key + k).map (·.2)).getD b,
   if h.space < 2 then (List.range n).filter fun k => s.poison.contains ((key + k) / 64) || o.savedPoison.contains ((key + k) / 64) else [])

/-- Source bytes in hand: the rest of the beat is read next, or the beat goes to its home; a record goes to its channel, and what another
package reads leaves by its link. -/
def State.copyHand (s : State) (id : Nat) (o : CopyOp) (b : List Byte × List Nat) : State :=
  let hand := ((o.hand.map (·.1)).getD [] ++ b.1, (o.hand.map (·.2)).getD [] ++ b.2.map (o.got + ·))
  let o := { o with hand := some hand, reach := none, column := 0, passed := 0 }
  let s := s.putCopy id o
  if o.got < o.beat then s.copyGo id o
  else if o.foreign && o.mode == .fetch then s.copyDone id o
  else
    match o.mode, o.chain with
    | .fetch, some ch =>
      let words := (List.range 8).map fun k => BitVec.ofNat 64 (leNat ((hand.1.drop (8 * k)).take 8))
      let s := if !hand.2.isEmpty then s.updChannel o.tile ch fun c => { c with run := c.run.map fun (r : ChainRun) => { r with cause := causePoison, detail := 0x22 } }
        else s.updChannel o.tile ch fun c => { c with run := c.run.map fun (r : ChainRun) => { r with words := words } }
      s.copyDone id o
    | _, _ => s.copyGo id o

/-- The bytes of a source access in hand. -/
def State.copyTake (s : State) (id : Nat) (o : CopyOp) (h : Home) (n : Nat) : State := s.copyHand id o (s.sourceBytes o h n)

/-- R105, R311: the source bytes of the next access are read at their home. -/
def execCopySourceRead (op : Nat) (s : State) : Host.Outcome State Fault Refusal :=
  .next (match s.copies.find? op with
    | none => s
    | some o =>
      if o.walk.isSome || o.beat ≤ o.got then s
      else
        let a := o.srcAt + BitVec.ofNat 64 o.got
        let n := o.piece
        if s.copyHeld op o (s.operandHome o.tile o.skind a) false then s.after 1 (.copySourceRead op) 60
        else
        match s.translate o o.skind a .read with
        | .fails cause detail => s.copyFail op o o.beat cause detail a
        | .miss root page => s.copyMiss op o root page
        | .at g =>
          let h := homeOf g
          match s.homeFault o h n true false false with
          | some (cause, detail) => s.copyFail op o o.beat cause detail g
          | none =>
            let x := s.promiseHome op o h true
            let s := x.1
            let o := x.2
            if s.barred o h then s.after 1 (.copySourceRead op) 60
            else match s.copySend o h true with
            | none => s.after 1 (.copySourceRead op) 60
            | some (_, s) =>
            if !s.isHere h then s.putCopy op { o with reach := some g }
            else if h.space = 3 then
              ({ s with free := s.free + 1 }.putCopy op { o with reach := some g }).after (1 + Config.delay s.free) (.hostReadCompletion op) 60
            else if h.space = 0 then (s.putCopy op { o with reach := some g }).now (.copyService h.tile op)
            else if h.space = 1 then
              (match s.copyBank op o h n with
              | .error s => s.after 1 (.copySourceRead op) 60
              | .ok s => s.copyTake op o h n)
            else s.copyTake op o h n)

/-! ### Accumulate-on-write (R313) -/

/-- The result of an accumulate on an old word. -/
def accResult (op ty : Nat) (old v : Nat) : Nat :=
  let w := 8 * accBytes ty
  let float : Option FloatFmt := if ty = 2 then some fp32 else if ty = 3 then some bf16 else none
  match float with
  | some f =>
    let x := f.value old
    let y := f.value v
    (match op with
    | 0 => (satFloat f 0 0 true (x.add 0 y)).1
    | 1 => (satFloat f 0 0 true (x.min y)).1
    | 2 => (satFloat f 0 0 true (x.max y)).1
    | _ => v)
  | none =>
    let less (x y : Nat) : Bool := if 4 ≤ ty then decide (x < y) else decide (signed w x < signed w y)
    (match op with
    | 0 => (old + v) % 2 ^ w
    | 1 => if less v old then v else old
    | 2 => if less old v then v else old
    | 3 => old &&& v
    | 4 => old ||| v
    | 5 => old ^^^ v
    | _ => v)

/-- Accumulates that commute, which no order holds (R340). -/
def commutes (op ty : Nat) : Bool := op < 6 && ty != 2 && ty != 3

/-- Bytes that an operation touches at its home in its next beat. -/
def CopyOp.span (o : CopyOp) : Nat :=
  match o.mode with
  | .move | .fetch => o.beat
  | .accw _ ty _ => accBytes ty
  | .casw ty _ _ _ => if ty = 0 then 4 else 8
  | .store _ => 8

/-- Why a read-modify-write of host memory is not sent (R330). -/
def State.hostAtomic (s : State) (o : CopyOp) : Option Nat :=
  let cap (n : Nat) : Option Nat := if (s.reg 0x28).getLsbD (if n = 8 then 1 else 0) then none else some 0x0D09
  match o.mode with
  | .accw op ty _ =>
    if (op = 0 && (ty < 2 || 4 ≤ ty)) || (op = 6 && ty != 3) then cap (accBytes ty) else some 0x0D08
  | .casw ty _ _ _ => cap (if ty = 0 then 4 else 8)
  | _ => none

/-! ### Performing at the home (R88, R311-R315) -/

/-- Performs the beat, or the read-modify-write, at its home. -/
def State.perform (s : State) (id : Nat) (o : CopyOp) (h : Home) (g : Word64) : State :=
  let key := s.keyOf h
  let n := o.span
  let poisoned := h.space < 2 && s.poisoned key n
  match o.mode with
  | .move | .fetch =>
    let b := o.hand.getD ([], [])
    if !b.2.isEmpty && h.space = 3 then s.copyFail id o n causePoison 0x22 g
    else
      let log := (b.1.mapIdx fun k _ => (key + k, s.mem.read (key + k))).filter fun x => !o.saved.any fun y => y.1 == x.1
      let o := { o with saved := o.saved ++ log, savedPoison := o.savedPoison ++ (granules key n).filter s.poison.contains }
      ((s.copyWrite o h b.1 b.2).copyProgress o n).copyNext id o n
  | .store v => ((s.copyWrite o h (leBytes 8 v.toNat) []).copyProgress o 8).copyNext id o 8
  | .accw op ty v =>
    if poisoned then s.copyFail id o n causePoison 0x22 g
    else
      let old := leNat (s.bytesAt h n)
      ((s.copyWrite o h (leBytes n (accResult op ty old (v.toNat % 2 ^ (8 * n)))) []).copyProgress o n).copyNext id o n
  | .casw _ compare new _ =>
    if poisoned then s.copyFail id o 8 causePoison 0x22 g
    else
      let old := leNat (s.bytesAt h n)
      let s := if old = compare.toNat % 2 ^ (8 * n) then s.copyWrite o h (leBytes n new.toNat) [] else s
      if o.foreign then s.copyNext id o 8
      else (s.putCopy id { o with old := BitVec.ofNat 64 old, reach := none, column := 0, passed := 0 }).after 1 (.caswReturnWrite id) 60

/-- The deterministic launch in whose order a write waits at its home (R340). -/
def State.orderOf (s : State) (o : CopyOp) (h : Home) : Option Nat :=
  match o.owner with
  | none => none
  | some w =>
    match s.hub.launches.find? w.launch with
    | none => none
    | some l =>
      let held := match o.mode with | .accw op ty _ => !commutes op ty | _ => true
      if l.deterministic && held && s.isHere h && h.space < 2 && (l.tileIndex h.tile).isSome then some w.launch else none

/-- The beats that a home's port has taken and not yet applied, in the order of their arrival (R319). -/
def State.arrivedAt (s : State) (h : Home) : List Nat :=
  (s.tile h.tile).arrived.filter fun id => (s.copies.find? id).any fun o => o.reach.any fun g => (homeOf g).space == h.space

/-- A home port takes a beat by its link, in a cycle in which it has taken none by that link (R319). -/
def State.takePort (s : State) (h : Home) (id link : Nat) : State :=
  s.updTile h.tile fun t =>
    { t with ports := link :: t.ports, arrived := (t.arrived.filter fun i => (s.copies.find? i).isSome) ++ [id] }

/-- A beat that is applied, or held, no longer stands before others. -/
def State.leavePort (s : State) (h : Home) (id : Nat) : State := s.updTile h.tile fun t => { t with arrived := t.arrived.erase id }

/-- A beat that a home port of this package has taken is applied once those that it took before it are (R319), where it gets its bank. -/
def State.portApply (s : State) (id : Nat) (o : CopyOp) (g : Word64) : State :=
  let h := homeOf g
  if (s.arrivedAt h).head? != some id then s.after 1 (.copyBeatArrival id) 59
  else if h.space = 0 then s.now (.copyService h.tile id)
  else
    match s.copyBank id o h o.span with
    | .error s => s.after 1 (.copyBeatArrival id) 59
    | .ok s => (s.leavePort h id).perform id o h g

/-- Bytes that fail where a beat does. -/
def CopyOp.whole (o : CopyOp) : Nat := match o.mode with | .casw _ _ _ _ => 8 | _ => o.span

/-- A beat at its home: it is checked there, and applied, held for the order of R340, or sent on to the host. -/
def State.beatAtHome (s : State) (id : Nat) (o : CopyOp) (g : Word64) : State :=
  let rmw := o.touch == .modify
  let h := homeOf g
  let link := s.portLink o
  let port := s.isHere h && h.space < 2
  if port && (s.tile h.tile).ports.contains link then s.after 1 (.copyBeatArrival id) (60 + link)
  else
    match s.homeFault o h o.span rmw true rmw with
    | some (cause, detail) => s.copyFail id o o.whole cause detail g
    | none =>
      match (if h.space = 3 then s.hostAtomic o else none), s.orderOf o h with
      | some d, _ => s.copyFail id o o.whole causeHostAtomic d g
      | none, some l =>
        let s := (s.takePort h id link).leavePort h id
        if o.reads then
          let b := o.hand.getD ([], [])
          s.copyNext id { o with held := o.held ++ [⟨s.keyOf h, b.1, b.2⟩], order := some (l, s.cycle) } o.span
        else s.putCopy id { o with order := some (l, s.cycle) }
      | none, none =>
        if port then (s.takePort h id link).portApply id o g
        else if h.space = 3 && (match o.mode with | .casw _ _ _ _ => true | _ => false) then
          { s with free := s.free + 1 }.after (1 + Config.delay s.free) (.hostReadCompletion id) 60
        else s.perform id o h g

/-- R319, R339: a beat leaves for its home once nothing holds it and the slots on its way are free; where it goes within the tile, or once it
has come, it is at its home. -/
def execCopyBeatArrival (op : Nat) (s : State) : Host.Outcome State Fault Refusal :=
  .next (match s.copies.find? op with
    | none => s
    | some o =>
      if o.walk.isSome || (match o.order with | some _ => o.total ≤ o.pos || !o.reads | none => false) then s
      else
        match o.reach with
        | some g => if (s.tile (homeOf g).tile).arrived.contains op then s.portApply op o g else s.beatAtHome op o g
        | none =>
          let retry (s : State) : State := s.after 1 (.copyBeatArrival op) (60 + s.portLink o)
          if s.copyHeld op o (s.operandHome o.tile o.dkind o.dstAt) true then retry s
          else if o.touch == .modify && o.dst.toNat % o.span ≠ 0 then s.copyFail op o o.whole causeTranslationFault 0x0D0B o.dst
          else
            match s.translate o o.dkind o.dstAt o.touch with
            | .fails cause detail => s.copyFail op o o.whole cause detail o.dstAt
            | .miss root page => s.copyMiss op o root page
            | .at g =>
              let h := homeOf g
              let x := s.promiseHome op o h false
              let o := { x.2 with reach := some g }
              match s.badHome h o.span with
              | some detail => x.1.copyFail op o o.whole causeTranslationFault detail g
              | none =>
                if x.1.barred o h then retry x.1
                else
                  match x.1.copySend o h false with
                  | none => retry x.1
                  | some (n, s) =>
                    let s := s.putCopy op o
                    if !s.isHere h then s
                    else if n = 0 then s.beatAtHome op o g
                    else s.after n (.copyBeatArrival op) (60 + s.portLink o))

/-- R330, R423: the completion of a host read brings source bytes; that of a CAS the old value. -/
def execHostReadCompletion (op : Nat) (s : State) : Host.Outcome State Fault Refusal :=
  .next (match s.copies.find? op with
    | none => s
    | some o =>
      match o.reach with
      | none => s
      | some g => if o.reads then s.copyTake op o (homeOf g) o.piece else s.perform op o (homeOf g) g)

/-- R314: the old value is written to the return word, which completes the token. -/
def execCaswReturnWrite (op : Nat) (s : State) : Host.Outcome State Fault Refusal :=
  .next (match s.copies.find? op with
    | none => s
    | some o =>
      match o.mode with
      | .casw _ _ _ ret =>
        let h : Home := ⟨s.packageId, 1, o.tile, ret⟩
        (match s.copyBank op o h 8 with
        | .error s => s.after 1 (.caswReturnWrite op) 60
        | .ok s => ((s.copyWrite o h (leBytes 8 o.old.toNat) []).copyProgress o 8).copyNext op o 8)
      | _ => s)

/-- A held read-modify-write is performed, or one beat of a held copy (R340). -/
def State.applyBeat (s : State) (id : Nat) (o : CopyOp) (g : Word64) : State :=
  match o.held with
  | [] => s.perform id { o with order := none, applying := false } (homeOf g) g
  | b :: r =>
    let o := { o with held := r, reach := none, column := 0, passed := 0, applying := false }
    let s := ((s.copyWrite o (homeOf g) b.bytes b.poisoned).copyProgress o b.bytes.length).putCopy id o
    if r.isEmpty then s.copyDone id o else s

/-- Whether an access of an operation that a service lets through is a read. -/
def CopyOp.reading (o : CopyOp) : Bool := !o.applying && o.reads && decide (o.got < o.beat)

/-- The access of an operation that the vault's service lets through. -/
def State.copyAccess (s : State) (op : Nat) (o : CopyOp) (g : Word64) : State :=
  let s := s.leavePort (homeOf g) op
  if o.applying then s.applyBeat op o g
  else if o.reading then s.copyTake op o (homeOf g) o.piece
  else s.perform op o (homeOf g) g

/-- The bank of a vault that an operation reaches. -/
def CopyOp.vaultBank (o : CopyOp) : Nat × Nat :=
  let h := homeOf (o.reach.getD 0)
  (h.tile, h.off / 2 ^ 24)

/-- A command of the vault engine's own: in a cycle without another command on the bus, once every minimum is met (R286, R290), and outside
a transfer of the save area (R144). -/
def State.engineMay (s : State) (tile : Nat) (cmd : Command) (bank : Nat) : Bool :=
  let v := s.vault tile
  v.forced.isNone && s.transferEnd tile ≤ s.time && v.bus.all (fun b => b.time != s.time) && (brokenRows (busOf v.bus) s.time cmd bank).isEmpty

/-- Whether a copy or a debug access has yet to use the row that the engine opened for it. -/
def State.copyInBank (s : State) (tile bank : Nat) : Bool :=
  (s.copies.any fun (x : Nat × CopyOp) => x.2.column != 0 && x.2.vaultBank == (tile, bank)) ||
    s.hub.probe.any fun p => p.bank == some (tile, bank)

/-- At the end of a cycle the engine precharges a bank that a copy has done with (R286), or else issues a REFPB of its own (R295), and the
grace window closes where its condition has come to hold (R299). -/
def State.vaultEngine (s : State) (tile : Nat) : State :=
  let v := s.vault tile
  let s := match v.closing.find? fun b => !s.copyInBank tile b && s.engineMay tile .pre b with
    | some b => s.updVault tile fun v => { v.drive s.time .pre b none with closing := v.closing.erase b, busy := v.busy.put b (s.time + 27) }
    | none =>
      match v.refreshing.find? fun b => (Table.find? v.opened b).isNone && !v.closing.contains b && s.engineMay tile .refpb b with
      | some b => s.updVault tile fun v => { v.drive s.time .refpb b none with refreshing := v.refreshing.erase b }
      | none => s
  s.checkWindow tile

/-- Every vault that has something of the kind to do. -/
def State.vaultEngines (s : State) : State :=
  (s.tiles.filter fun (kt : Nat × Tile) => !kt.2.vault.closing.isEmpty || !kt.2.vault.refreshing.isEmpty || kt.2.vault.window.isSome).foldl
    (fun (s : State) kt => s.vaultEngine kt.1) s

/-- What the vault engine does in this cycle for an access on path CP (R286): column commands in the open row, its own activate, columns and
precharge in a closed bank; a bank that no context owns it closes itself. A parked or saved context still owns its banks (R285; log 55).
Answers none once the access is served, else the cycles to wait and the time of the column in the row that it has opened. -/
def State.serveBank (s : State) (tile : Nat) (cmd : Command) (bank row column : Nat) : State × Option (Nat × Nat) :=
  let v := s.vault tile
  let go : State × Option (Nat × Nat) :=
    if s.engineMay tile cmd bank then (s.updVault tile fun v => v.drive s.time cmd bank none, none) else (s, some (1, column))
  if column != 0 && v.closing.contains bank then go
  else if v.closing.contains bank || s.time < v.busy.getD bank 0 then (s, some (1, column))
  else
    match v.opened.find? bank with
    | some r =>
      if r = row then go
      else if (s.bankOwner tile bank).isNone && s.engineMay tile .pre bank then
        (s.updVault tile fun v => { v.drive s.time .pre bank none with opened := v.opened.erase bank }, some (1, column))
      else (s, some (1, column))
    | none =>
      if s.engineMay tile .act bank then
        (s.updVault tile fun v => { v.drive s.time .act bank none with closing := bank :: v.closing }, some (27, s.time + 27))
      else (s, some (1, column))

/-- R286: the vault engine serves a copy. -/
def execCopyService (tile op : Nat) (s : State) : Host.Outcome State Fault Refusal :=
  .next (match s.copies.find? op with
    | none => s
    | some o =>
      match o.reach with
      | none => s
      | some g =>
        let off := (homeOf g).off
        let bank := off / 2 ^ 24
        let row := off / 2 ^ 11 % 2 ^ 13
        match s.serveBank tile (if o.reading then .rd else .wr) bank row o.column with
        | (s, none) => s.copyAccess op { o with column := 0 } g
        | (s, some (n, column)) => (s.putCopy op { o with column := column }).after n (.copyService tile op) 60)

/-! ### The order of R340 -/

/-- The key of a held write: stamp, launch tile, context, issue order. -/
def State.orderKey (s : State) (id : Nat) (o : CopyOp) : List Nat :=
  match o.owner.bind s.findWho with
  | some (_, _, c) => [o.q.stamp, c.home, c.num, id]
  | none => [o.q.stamp, o.tile - Config.tiles, (o.owner.map (·.num)).getD 0, id]

/-- Lexicographic order of keys. -/
def keyBefore : List Nat → List Nat → Bool
  | a :: r, b :: t => a < b || (a == b && keyBefore r t)
  | _, _ => false

/-- Operations that have arrived whole and wait for the horizon of a launch. -/
def State.heldFor (s : State) (launch : Nat) : List (Nat × CopyOp) :=
  s.copies.filter fun (x : Nat × CopyOp) => (x.2.order.map (·.1)) == some launch && (!x.2.reads || x.2.total ≤ x.2.pos)

/-- The least of held operations. -/
def State.leastHeld (s : State) (l : List (Nat × CopyOp)) : Option (Nat × CopyOp) :=
  l.foldl (fun b x => match b with
    | none => some x
    | some y => if keyBefore (s.orderKey x.1 x.2) (s.orderKey y.1 y.2) then some x else b) none

/-- Where the next held access of an operation goes, and its bytes. -/
def State.heldAt (s : State) (o : CopyOp) : Word64 × Nat :=
  match o.held with
  | b :: _ => (BitVec.ofNat 64 (s.packageId * 2 ^ 50 + b.addr % 2 ^ 50), b.bytes.length)
  | [] => (o.reach.getD 0, o.span)

/-- Applies the next access of a held operation, with ORDER_LATE for one that waited more than 4,096 cycles: in a data SRAM if it gets its
bank (R320), in a vault by way of its service (R286). Answers whether it was applied. -/
def State.applyHeld (s : State) (id : Nat) (o : CopyOp) : State × Bool :=
  let late := match o.order with | some (_, since) => decide ((4096 : Word64) < s.cycle - since) | none => false
  let x := s.heldAt o
  let h := homeOf x.1
  if o.applying then (s, false)
  else if h.space = 0 then ((s.putCopy id { o with applying := true, reach := some x.1 }).now (.copyService h.tile id), false)
  else
    match s.copyBank id o h x.2 with
    | .error s => (s, false)
    | .ok s => ((if late then s.updOwner o fun clock c => c.orCsr clock 0x70 0x400 else s).applyBeat id o x.1, true)

/-- Applies the accesses of one held operation, as long as each can be. -/
def State.applyWhole (launch id : Nat) : Nat → State → State
  | 0, s => s
  | fuel + 1, s =>
    match Table.find? (s.heldFor launch) id with
    | some o =>
      let x := s.applyHeld id o
      if x.2 then State.applyWhole launch id fuel x.1 else x.1
    | none => s

/-- Applies the held writes below a horizon, in the order of their keys: none passes one that still waits for its bank or its vault. -/
def State.applyBelow (launch horizon : Nat) : Nat → State → State
  | 0, s => s
  | fuel + 1, s =>
    match s.leastHeld (s.heldFor launch) with
    | some x =>
      if x.2.q.stamp < horizon then
        let s := State.applyWhole launch x.1 (x.2.held.length + 1) s
        if (s.heldFor launch).any fun y => y.1 == x.1 then s else State.applyBelow launch horizon fuel s
      else s
    | none => s

/-- The contexts of a launch that have not halted. -/
def State.liveCtxs (s : State) (launch : Nat) : List (Nat × Nat × Ctx) := s.allCtxs.filter fun x => x.2.2.launch == launch

/-- The writes of a launch that have been issued and have not arrived. One that only waits behind a held one counts for the horizon,
not as under way. -/
def State.notArrived (s : State) (launch : Nat) : List (Nat × CopyOp) :=
  s.copies.filter fun (x : Nat × CopyOp) => (x.2.owner.map (·.launch)) == some launch && !((s.heldFor launch).any fun y => y.1 == x.1)

/-- The syllables of a context, still queued, that write on path CP. -/
def Ctx.copiesQueued (c : Ctx) : List Queued :=
  (c.queue 6).filter fun q => match decode q.slot q.lend q.word with
    | .ok (.cpy _ _ _ _ _ _) | .ok (.cpyb _ _ _) | .ok (.accw _ _ _ _ _ _ _) | .ok (.casw _ _ _ _ _ _) | .ok (.cpych _ _ _ _) => true
    | _ => false

/-- The stamps of the chains of a launch that run, but for those of which a write is held: what such a chain issues after it comes later. -/
def State.chainStamps (s : State) (launch : Nat) : List Nat :=
  s.tiles.flatMap fun (kt : Nat × Tile) => kt.2.channels.filterMap fun (x : Nat × Channel) => match x.2.run with
    | some r =>
      if r.owner.map (·.launch) != some launch || (s.heldFor launch).any fun y => y.2.tile == kt.1 && y.2.chain == some x.1 then none
      else some r.q.stamp
    | none => none

/-- The horizon of a launch, its other packages' included: a value beyond every stamp where nothing bounds it. -/
def State.horizonOf (s : State) (launch : Nat) : Nat :=
  let far := match s.hub.launches.find? launch with
    | some l => if l.packages = 1 then [] else [l.far.horizon]
    | none => []
  let live := s.liveCtxs launch
  let counts := (live.map fun x => x.2.2.nextStamp) ++ (live.flatMap fun x => (x.2.2.copiesQueued).map (·.stamp)) ++
    ((s.notArrived launch).map fun x => x.2.q.stamp) ++ s.chainStamps launch ++ far
  match counts with
  | [] => ((s.copies.map fun x => x.2.q.stamp).foldl max 0) + 1
  | a :: r => r.foldl min a

/-- R340: a horizon reaches the launch tiles, and the held writes below it are applied. -/
def execHorizonUpdate (launch : Nat) (s : State) : Host.Outcome State Fault Refusal :=
  .next (
    let h := s.horizonOf launch
    let s := State.applyBelow launch h s.copies.length s
    let waits := (s.heldFor launch).any fun x => decide (x.2.q.stamp < h)
    let s := s.updLaunch launch fun l => { l with horizon := h, delivering := waits }
    if waits then s.after 1 (.horizonUpdate launch) 60 else s)

/-- Whether a blocked context can move on by itself (R340). -/
def Ctx.selfMoving (c : Ctx) : Bool :=
  match c.wait with
  | some (.until _ _ _ _) => true
  | some (.barrier _ _ _ _ left _) => left.isSome
  | _ => false

/-- R340: every live context is blocked, none can move by itself, and nothing of the launch is under way. -/
def State.quiescent (s : State) (launch : Nat) : Bool :=
  let held := s.heldFor launch
  ((s.liveCtxs launch).all fun x =>
    !x.2.2.selfMoving && x.2.2.sf.isNone && x.2.2.stopping.isNone &&
      (if x.2.1 < 4 then (match s.head x.1 x.2.1 with
        | .blocked _ => true
        | .absent => (match x.2.2.wait with | some (.halt _ _ _) => !x.2.2.mayRetire | _ => false)
        | _ => false) else x.2.2.wait.isSome)) &&
    ((s.notArrived launch).all fun x => held.any fun y => sameLine y.2 x.2) &&
    (s.unsent.all fun u => u.msg.who.launch != launch) && (s.abroad.all fun x => x.2 || x.1.who.launch != launch) &&
    ((s.hub.launches.find? launch).all fun l => l.packages == 1 || l.far.quiet) && (s.replies.all fun r => r.msg.who.launch != launch) &&
    (s.sfReplies.all fun r => r.cmd.who.launch != launch) &&
    (s.hub.chains.all fun k => (k.2.waiting.all fun m => m.who.launch != launch) && (k.2.sweep.all fun w => w.cmd.who.launch != launch)) &&
    (s.tiles.all fun t => (t.2.messages.all fun m => m.who.launch != launch) && (t.2.casts.all fun k => k.who.launch != launch) &&
      (t.2.castBeats.all fun k => k.sub.who.launch != launch))

/-- R340: in a quiescent cycle the held write with the least key among all launch tiles is applied. -/
def execQuiescentApply (launch : Nat) (s : State) : Host.Outcome State Fault Refusal :=
  let far := ((s.hub.launches.find? launch).map (·.far.least)).getD []
  .next (if s.quiescent launch then (match s.leastHeld (s.heldFor launch) with
    | some x => if far.isEmpty || keyBefore (s.orderKey x.1 x.2) far then State.applyWhole launch x.1 (x.2.held.length + 1) s else s
    | none => s) else s)

/-! ### Homes in other packages, and their accesses here (log 3) -/

/-- What a home in another package made of an operation's access (R88, R105). -/
def State.farOutcome (s : State) (id : Nat) (r : FarResult) : State :=
  match s.copies.find? id with
  | none => s
  | some o =>
    match o.reach with
    | none => s
    | some g =>
      let reading := o.reads && o.got < o.beat
      let whole := if reading then o.beat else match o.mode with | .casw _ _ _ _ => 8 | _ => o.span
      if s.isHere (homeOf g) then s
      else match r, o.mode with
        | .fails cause detail, _ => s.copyFail id o whole cause detail g
        | .data bytes bad, _ =>
          if reading then s.copyHand id o ((bytes ++ List.replicate o.piece 0).take o.piece, bad.filter (· < o.piece)) else s
        | .old v, .casw _ _ _ _ =>
          (s.putCopy id { o with old := v, reach := none, column := 0, passed := 0 }).after 1 (.caswReturnWrite id) 60
        | .done, .casw _ _ _ _ => s
        | .done, _ => if reading then s else (s.copyProgress o o.span).copyNext id o o.span
        | .old _, _ => s

/-- An access of another package's copy engine to a home here: a beat at most to the end of its line, which comes in by the hub. -/
def farOp (launch launchTile ctx stamp : Nat) (cycle : Word64) (addr : Word64) (a : FarAccess) : CopyOp :=
  let room := 128 - addr.toNat % 128
  let e : Issued := ⟨0, 0, { Queued.none_ with stamp := stamp }⟩
  let who : Who := ⟨Config.tiles + launchTile, launch, ctx⟩
  let make (mode : CopyMode) (n : Nat) (dst src : Word64) (hand : Option (List Byte × List Nat)) : CopyOp :=
    { tile := who.tile, owner := some who, chain := none, packet := 0, q := e.q, mode := mode, token := none, dkind := 3, skind := 3
      dst := dst, src := src, row := n, extents := [], dstrides := [], sstrides := [], total := n, pos := 0, saved := [], savedPoison := []
      hand := hand, fine := false, issued := cycle, since := cycle, budget := 0, parts := 0, reach := none, column := 0, walk := none
      fault := none, passed := 0, old := 0, held := [], order := none }
  match a with
  | .write data bad => make .move (min room data.length) addr 0 (some (data.take room, bad.filter (· < min room data.length)))
  | .read n => make .fetch (min room n) 0 addr none
  | .accumulate op ty v => make (.accw op ty v) (accBytes ty) addr 0 none
  | .compareSwap ty compare new => make (.casw ty compare new 0) 8 addr 0 none

/-- The access arrives. -/
def State.farAccess (s : State) (o : CopyOp) : State := if o.total = 0 then s else s.addCopy o

/-- The other packages of a launch have come so far; the last of them to halt may complete it. -/
def State.farAdvance (s : State) (launch : Nat) (p : FarProgress) : State :=
  let before := (s.hub.launches.find? launch).any fun l => l.far.halted
  let s := s.updLaunch launch fun l => { l with far := p }
  if p.halted && !before then s.haltTree launch else s

/-! ### Issue (R310-R314) -/

/-- An operation of one row, with nothing done. -/
def CopyOp.make (e : Issued) (c : Ctx) (cycle : Word64) (mode : CopyMode) (token total : Nat) (dst : Word64) (dkind : Nat) (src : Word64)
    (skind : Nat) : CopyOp :=
  { tile := e.tile, owner := some ⟨e.tile, c.launch, c.num⟩, chain := none, packet := 0, q := e.q, mode := mode, token := some token
    dkind := dkind, skind := skind, dst := dst, src := src, row := total, extents := [], dstrides := [], sstrides := [], total := total
    pos := 0, saved := [], savedPoison := [], hand := none, fine := false, issued := cycle, since := cycle, budget := 0, parts := 0, reach := none, column := 0
    walk := none, fault := none, passed := 0, old := 0, held := [], order := none }

/-- Posts an operation's bytes and hands it to the engine. -/
def State.issueCopy (s : State) (e : Issued) (c : Ctx) (t : BitVec 3) (o : CopyOp) : State :=
  (s.putCtx e.tile e.place (c.postToken t.toNat o.total)).addCopy o

/-- R311. -/
def execCpy (ga gb : BitVec 6) (dkind skind : BitVec 2) (t : BitVec 3) (len : BitVec 6) (s : State) : Host.Outcome State Fault Refusal :=
  onSyllable s fun e c =>
    match (do let d ← c.g e.q ga; let a ← c.g e.q gb; let n ← c.g e.q len; pure (d, a, n) : Except Trap (Word64 × Word64 × Word64)) with
    | .error t => .trap s t
    | .ok (d, a, n) =>
      let total := bitsOf n.toNat 0 32
      .done (if total = 0 then s
        else s.issueCopy e c t (CopyOp.make e c s.cycle .move t.toNat total d dkind.toNat a skind.toNat))

/-- The refusals of CPYB on its handles (R312). -/
def badBox (d s : Handle) : Bool :=
  let one (h : Handle) : Bool := h.valid && h.space != 3 && [0, 2, 3].contains h.layout && h.gcount == 0 && h.grows == 0 &&
    h.gcols == 0 && !h.transpose && !h.repeats && h.base % 64 == 0 && (List.range 3).all fun k => h.stride (k + 1) % 64 == 0
  !(one d && one s && typeBits d.type == typeBits s.type && typeBits d.type != 0 && d.dims == s.dims &&
    (List.range 4).all fun k => d.extent k == s.extent k)

/-- R312. -/
def execCpyb (hd hs : BitVec 4) (t : BitVec 3) (s : State) : Host.Outcome State Fault Refusal :=
  onSyllable s fun e c =>
    match (do let d ← c.h e.q hd; let a ← c.h e.q hs; pure (d, a) : Except Trap (Handle × Handle)) with
    | .error t => .trap s t
    | .ok (d, a) =>
      let row := (d.extent 0 * typeBits d.type + 7) / 8
      let total := boxBytes d
      if badBox d a then .trap s (streamFault 0x0D0D)
      else if 2 ^ 40 < total then .trap s (streamFault 0x0D0C)
      else if total = 0 then .done s
      else
        let o := CopyOp.make e c s.cycle .move t.toNat total (BitVec.ofNat 64 d.base) d.space (BitVec.ofNat 64 a.base) a.space
        .done (s.issueCopy e c t { o with
          row := row, extents := [d.extent 1, d.extent 2, d.extent 3]
          dstrides := [d.stride 1, d.stride 2, d.stride 3], sstrides := [a.stride 1, a.stride 2, a.stride 3] })

/-- R313. A poisoned address or value register raises POISON here, as R310 says; a poisoned old word is the token's error (Table 6.5; log
53). -/
def execAccw (ga gb : BitVec 6) (op : BitVec 4) (t ty : BitVec 3) (kind : BitVec 2) (_rel : Bool) (s : State) :
    Host.Outcome State Fault Refusal :=
  onSyllable s fun e c =>
    match (do let d ← c.g e.q ga; let v ← c.g e.q gb; pure (d, v) : Except Trap (Word64 × Word64)) with
    | .error t => .trap s t
    | .ok (d, v) =>
      .done (s.issueCopy e c t (CopyOp.make e c s.cycle (.accw op.toNat ty.toNat v) t.toNat (accBytes ty.toNat) d kind.toNat 0 0))

/-- R314: the return word is checked at the syllable. Poisoned registers raise POISON here (R310; log 53). -/
def execCasw (ga gb : BitVec 6) (t ty : BitVec 3) (kind : BitVec 2) (_rel : Bool) (s : State) : Host.Outcome State Fault Refusal :=
  onSyllable s fun e c =>
    let ret := (c.gRaw e.q (ga + 1)).toNat
    match firstTrap [sramRange ret 8 0x0800 0x0801 8, s.setCheck e.tile c e.q.group 3 false true true false ret 8] with
    | some t => .trap s t
    | none =>
      match (do let d ← c.g e.q ga; let r ← c.g e.q (ga + 1); let x ← c.g e.q gb; let y ← c.g e.q (gb + 1); pure (d, r, x, y) :
          Except Trap (Word64 × Word64 × Word64 × Word64)) with
      | .error t => .trap s t
      | .ok (d, r, x, y) =>
        .done (s.issueCopy e c t (CopyOp.make e c s.cycle (.casw ty.toNat x y r.toNat) t.toNat 8 d kind.toNat 0 0))

/-! ### Chains (R316, R317) -/

/-- An operation for the record that a channel is at. -/
def ChainRun.op (r : ChainRun) (tile ch : Nat) (cycle : Word64) (mode : CopyMode) (token : Option Nat) (total : Nat) (dst : Word64)
    (dkind : Nat) (src : Word64) (skind : Nat) : CopyOp :=
  { tile := tile, owner := r.owner, chain := some ch, packet := r.packet, q := r.q, mode := mode, token := token, dkind := dkind
    skind := skind, dst := dst, src := src, row := total, extents := [], dstrides := [], sstrides := [], total := total, pos := 0
    saved := [], savedPoison := [], hand := none, fine := false, issued := cycle, since := cycle, budget := 0, parts := 0, reach := none, column := 0, walk := none
    fault := none, passed := 0, old := 0, held := [], order := none }

/-- A qword of the record. -/
def ChainRun.word (r : ChainRun) (k : Nat) : Word64 := r.words.getD k 0

/-- Whether a record breaks Table 13.4. -/
def ChainRun.bad (r : ChainRun) : Bool :=
  let w := (r.word 3).toNat
  bitsOf w 56 3 != 0 || r.word 6 != 0 || r.word 7 != 0 || 6 ≤ bitsOf w 59 3 || bitsOf w 50 2 == 1 || bitsOf w 48 2 == 1 ||
    (r.word 0).toNat % 64 != 0 || (r.word 4).toNat % 8 != 0

/-- The channel stops: the sentinel goes, and its token or its packet learns of it (R317, R434). -/
def State.chainStop (s : State) (tile ch : Nat) (r : ChainRun) (resume : Option (Word64 × Nat)) (status : Nat) : State :=
  let s := s.updChannel tile ch fun c => { c with run := none, resume := resume, failed := r.cause != 0 }
  let s := match r.owner with
    | some w => s.updWho w fun clock c =>
        { (match r.token with
          | some t => c.progress clock t 1
          | none => c) with pending := c.pending.filter fun p => p.id != r.pending }
    | none => s
  match (if r.owner.isNone then s.hub.packets.find? r.packet else none) with
  | some p =>
    let d := s.drawDelay 64
    let p := { p with status := { p.status with status := status, cause := r.cause, detail := r.detail, cycle := s.cycle } }
    { d.2 with hub := { d.2.hub with packets := d.2.hub.packets.put r.packet p } }.after d.1 (.packetCompletion r.packet) 60
  | none => s

/-- Fails a record without a copy (R317). -/
def State.chainFail (s : State) (r : ChainRun) (cause detail : Nat) (addr : Word64) : State :=
  match r.owner, r.token with
  | some w, some t => s.updWho w fun clock c => c.failToken clock t cause detail addr
  | _, _ => s

/-- Goes on at a stage once an operation of the channel has ended. -/
def State.chainAt (s : State) (tile ch : Nat) (r : ChainRun) : State := s.updChannel tile ch fun c => { c with run := some r }

/-- Whether a chain of a context has yet to start: an operation that the context issued before its CPYCH has not (R318). -/
def State.chainWaits (s : State) (r : ChainRun) : Bool :=
  r.owner.isSome && s.copies.any fun (x : Nat × CopyOp) =>
    x.2.owner == r.owner && x.2.chain.isNone && decide (x.1 < r.pending) && !s.runs x.1 x.2

/-- R317: a channel reads its next record, or goes on with the record it is at. -/
def execChainRecordStep (tile ch : Nat) (s : State) : Host.Outcome State Fault Refusal :=
  .next (match ((s.tile tile).channels.getD ch Channel.stopped).run with
    | none => s
    | some r =>
      let w3 := (r.word 3).toNat
      let resumeNext : Option (Word64 × Nat) := if r.word 0 = 0 then none else some (r.word 0, bitsOf w3 50 2)
      let release (r : ChainRun) : ChainRun := { r with q := { r.q with scope := BitVec.ofNat 3 (bitsOf w3 59 3) } }
      let finish (s : State) (r : ChainRun) : State :=
        let r := { r with stage := 4 }
        let v : Word64 := (r.word 3 &&& 0x7FFF0000FFFFFFFF) ||| BitVec.ofNat 64 (r.cause % 2 ^ 16 * 2 ^ 32)
        (s.chainAt tile ch r).addCopy ((release r).op tile ch s.cycle (.store v) none 8 (r.record + 24) r.kind 0 0)
      match r.stage with
      | 0 =>
        let dead := match r.owner with | some w => (s.findWho w).isNone | none => (s.hub.packets.find? r.packet).isNone
        if dead then s.chainStop tile ch r (some (r.record, r.kind)) 8
        else if s.chainWaits r then s.after 1 (.chainRecordStep tile ch) 60
        else (s.chainAt tile ch { r with stage := 1, words := [], cause := 0, detail := 0 }).addCopy
          (r.op tile ch s.cycle .fetch none 64 0 0 r.record r.kind)
      | 1 =>
        if r.cause ≠ 0 then (s.chainFail r r.cause r.detail r.record).chainStop tile ch r (some (r.record, r.kind)) 8
        else if !(r.word 3).getLsbD 63 then s.chainStop tile ch r (some (r.record, r.kind)) 9
        else if r.bad then
          let r := { r with cause := causeIllegalEncoding, detail := 0x0D0E }
          finish (s.chainFail r r.cause r.detail r.record) r
        else
          let n := bitsOf w3 0 32
          let sig := if (r.word 3).getLsbD 62 then 8 else 0
          let room := (r.owner.bind s.findWho).all fun x => (r.token.map fun t => (x.2.2.token t).remaining.toNat + n + sig).all (· < 2 ^ 48)
          if !room then s.after 1 (.chainRecordStep tile ch) 60
          else
          let s := match r.owner, r.token with
            | some w, some t => s.updWho w fun _ c => c.postToken t (n + sig)
            | _, _ => s
          let r := { r with stage := 2 }
          if n = 0 then (s.chainAt tile ch r).after 1 (.chainRecordStep tile ch) 60
          else (s.chainAt tile ch r).addCopy (r.op tile ch s.cycle .move r.token n (r.word 1) (bitsOf w3 54 2) (r.word 2) (bitsOf w3 52 2))
      | 2 =>
        if (r.word 3).getLsbD 62 then
          if r.cause = 0 then
            let r := { r with stage := 3 }
            (s.chainAt tile ch r).addCopy ((release r).op tile ch s.cycle (.store (r.word 5)) r.token 8 (r.word 4) (bitsOf w3 48 2) 0 0)
          else
            let s := match r.owner, r.token with
              | some w, some t => s.updWho w fun clock c => c.progress clock t 8
              | _, _ => s
            finish s r
        else finish s r
      | 3 => finish s r
      | _ =>
        if r.cause ≠ 0 then s.chainStop tile ch r resumeNext 8
        else if r.word 0 = 0 then s.chainStop tile ch r none 0
        else (s.chainAt tile ch { r with stage := 0, record := r.word 0, kind := bitsOf w3 50 2 }).after 1 (.chainRecordStep tile ch) 60)

/-- Starts a channel at a record (R317, R434). -/
def State.startChain (s : State) (tile ch : Nat) (r : ChainRun) (starter : Nat) : State :=
  (s.updChannel tile ch fun c => { c with run := some r, starter := starter }).after 1 (.chainRecordStep tile ch) 60

/-- CPYCH: a resume without a resume point does nothing. -/
def execCpych (ga : BitVec 6) (ch : BitVec 2) (t : BitVec 3) (kind : BitVec 2) (s : State) : Host.Outcome State Fault Refusal :=
  onSyllable s fun e c =>
    match c.g e.q ga with
    | .error t => .trap s t
    | .ok v =>
      let h := (s.tile e.tile).channels.getD ch.toNat Channel.stopped
      let head : Option (Word64 × Nat) := if ga = 0 then h.resume else some (v, kind.toNat)
      match head with
      | none => .done s
      | some (a, k) =>
        let id := s.ids
        let c := { c.postToken t.toNat 1 with pending := c.pending ++ [⟨id, e.q.seq, 3⟩] }
        let r : ChainRun :=
          { record := a, kind := k, token := some t.toNat, packet := 0, owner := some ⟨e.tile, c.launch, c.num⟩, q := e.q
            pending := id, stage := 0, words := [], cause := 0, detail := 0 }
        .done (({ s with ids := id + 1 }.putCtx e.tile e.place c).startChain e.tile ch.toNat r c.num)

/-! ### Tokens (R322, R323) -/

/-- Table 13.3, TOKQ. -/
def tokqValue (k : Token) (sel : Nat) : Word64 :=
  let b (x : Bool) (n : Nat) : Nat := if x then 2 ^ n else 0
  match sel with
  | 0 => k.remaining
  | 1 => k.expected
  | 2 => k.promise
  | _ => BitVec.ofNat 64 (b k.error 0 + b k.reported 1 + k.cause.toNat * 2 ^ 16 + k.detail.toNat * 2 ^ 32)

def execTokq (ga : BitVec 6) (t : BitVec 3) (sel : BitVec 2) (s : State) : Host.Outcome State Fault Refusal :=
  onSyllable s fun e c => .done (s.putCtx e.tile e.place (c.resultG e.q 2 ga (tokqValue (c.token t.toNat) sel.toNat)))

/-- TOKCLR: an unreported error is raised; else the token, drained, is cleared. -/
def execTokclr (t : BitVec 3) (s : State) : Host.Outcome State Fault Refusal :=
  onSyllable s fun e c =>
    let k := c.token t.toNat
    if k.error && !k.reported then
      .trap (s.putCtx e.tile e.place (c.updToken t.toNat fun k => { k with reported := true }))
        { cause := k.cause.toNat, detail := k.detail.toNat, value := t.setWidth 48, address := c.csrLast csrCpfaddr, deferred := true }
    else .done (s.putCtx e.tile e.place { c with tokens := c.tokens.erase t.toNat })

end Sys2Proof.Machine
end

