-- ==== Sys2Proof/Machine/Mesh.lean ====
section
/-! DEFINITION. The mesh (14_mesh R341-R351): sends, landings, frozen tiles, and the beats that package links bring. -/

namespace Sys2Proof.Machine

/-! ### Sending (R348) -/

/-- The departure cycle of beat i: the slot's next cycle, whole frames later, where its own has passed. -/
def departure (now first : Int) (i : Nat) : Nat := (let d := first + i; if d < now then now + (d - now) % 64 else d).toNat

/-- MSEND and MCAST. -/
def sendBeats (ga gb : BitVec 6) (n : Nat) (t : BitVec 3) (flow : Nat) (post multicast : Bool) (s : State) :
    Host.Outcome State Fault Refusal :=
  onSyllable s fun e c =>
    match s.sendCheck e.tile c e.q ga gb n flow multicast with
    | .error t => .trap s t
    | .ok f =>
      let a := meshRow c e.q ga
      let arrival := c.gRaw e.q gb
      let now : Int := s.cycle.toNat
      let first : Int := (arrival.toNat : Int) - f.latency
      let dests := ((s.launchOf c).map fun l => f.dests.filterMap l.localTile).getD []
      let beat (i : Nat) : OutBeat :=
        { who := ⟨e.tile, c.launch, c.num⟩, flow := flow, depart := s.time + (departure now first i - now.toNat)
          arrival := arrival + BitVec.ofNat 64 i
          data := s.read (sramKey e.tile (a + 128 * i)) 128, poisoned := s.badBytes (sramKey e.tile (a + 128 * i)) 128
          token := if post then some t.toNat else none, pending := s.ids + i, dests := dests, destCtx := f.destCtx, latency := f.latency }
      let beats := (List.range n).map beat
      let c := if post then c.postToken t.toNat (128 * n) else c
      let c := if first < now then c.orCsr (s.clock e.tile) 0x70 0x100 else c
      let c := { c with pending := c.pending ++ beats.map fun b => ⟨b.pending, e.q.seq, 7⟩ }
      let s := ({ s with ids := s.ids + n }.putCtx e.tile e.place c).updTile e.tile fun t => { t with outbound := t.outbound ++ beats }
      .done (beats.foldl (fun s b =>
        if b.depart = s.time then s.now (.beatDeparture e.tile) else s.after (b.depart - s.time) (.beatDeparture e.tile) 10) s)

def execMsend (ga gb : BitVec 6) (n : BitVec 4) (t : BitVec 3) (flow : BitVec 6) (post : Bool) (s : State) :
    Host.Outcome State Fault Refusal := sendBeats ga gb (n.toNat + 1) t flow.toNat post false s

def execMcast (ga gb : BitVec 6) (n : BitVec 4) (t : BitVec 3) (flow : BitVec 6) (post : Bool) (s : State) :
    Host.Outcome State Fault Refusal := sendBeats ga gb (n.toNat + 1) t flow.toNat post true s

/-- A beat on its way to a tile. -/
def State.bringBeat (s : State) (tile n : Nat) (b : InBeat) : State :=
  (s.updTile tile fun t => { t with incoming := t.incoming ++ [(s.time + n, b)] }).after n (.beatArrival tile) 20

/-- R348: a beat whose cycle has come departs, and its token falls. -/
def execBeatDeparture (tile : Nat) (s : State) : Host.Outcome State Fault Refusal :=
  .next (match (s.tile tile).outbound.find? fun b => b.depart ≤ s.time with
    | none => s
    | some b =>
      let s := s.updTile tile fun t => { t with outbound := t.outbound.erase b }
      let s := s.updWho b.who fun clock c =>
        { (match b.token with
          | some t => c.progress clock t 128
          | none => c) with pending := c.pending.filter fun p => p.id != b.pending }
      b.dests.foldl (fun s d => s.bringBeat d b.latency
        { launch := b.who.launch, num := b.destCtx, flow := b.flow, arrival := b.arrival, data := b.data, poisoned := b.poisoned
          linked := false }) s)

/-! ### Landing (R341-R343, R349) -/

/-- A frozen tile thaws once the awaited beats have landed, or one of them is lost; its MLAND leaves in that cycle. -/
def State.wake (s : State) (tile : Nat) : State :=
  match (s.tile tile).freeze with
  | none => s
  | some f =>
    match s.landingHead tile f.place with
    | none => s
    | some (_, keys) =>
      let t := s.tile tile
      if keys.any t.marks.contains || keys.all t.landed then
        let s := s.thaw tile
        { s with agenda := .leave tile f.place 6 :: s.agenda }
      else s

/-- A beat reaches its tile (R341). -/
def State.landBeat (s : State) (tile : Nat) (b : InBeat) : State :=
  let t := s.tile tile
  let key := (b.launch, b.num, b.flow, b.arrival)
  if (s.hub.launches.find? b.launch).isNone || (s.findWho ⟨tile, b.launch, b.num⟩).isNone then s.loseBeat tile b.launch b.num
  else if 16 ≤ t.landing.length || t.landed key then
    (s.loseBeat tile b.launch b.num).updTile tile fun t => { t with marks := t.marks ++ [key] }
  else s.updTile tile fun t => { t with landing := t.landing ++ [b] }

/-- R341: the beats that reach a tile in this cycle. -/
def execBeatArrival (tile : Nat) (s : State) : Host.Outcome State Fault Refusal :=
  let come := (s.tile tile).incoming.filter fun x => x.1 ≤ s.time
  let s := s.updTile tile fun t => { t with incoming := t.incoming.filter fun x => s.time < x.1 }
  .next ((come.foldl (fun s x => s.landBeat tile x.2) s).wake tile)

/-- R342: an MLAND whose last cycle has come with beats missing freezes its tile, from the next cycle or, if it came late, at once. -/
def execLateLanding (tile place : Nat) (s : State) : Host.Outcome State Fault Refusal :=
  .next (match s.landingHead tile place with
    | none => s
    | some (_, keys) =>
      let t := s.tile tile
      let last := (keys.getLastD (0, 0, 0, 0)).2.2.2
      if t.freeze.isSome || s.cycle < last || keys.any t.marks.contains || keys.all t.landed then s
      else
        let s := s.updTile tile fun t =>
          { t with
            freeze := some ⟨max t.thawed (if s.cycle = last then s.time + 1 else s.time), s.time + 1, place, false⟩ }
        s.updCtx tile place fun c => c.orCsr (s.clock tile) 0x70 0x200)

/-- R343: a freeze that has reached FREEZELIM cycles ends with a trap at its MLAND. -/
def execFreezeLimit (tile : Nat) (s : State) : Host.Outcome State Fault Refusal :=
  .next (match (s.tile tile).freeze with
    | none => s
    | some f =>
      match s.landingHead tile f.place with
      | none => s
      | some (q, keys) =>
        let t := s.tile tile
        if s.time + 1 - f.since < (s.reg 0x18).toNat then s
        else
          let missing := keys.filter fun k => !t.landed k
          let halted := missing.any t.holds.contains
          let first := missing.headD (0, 0, 0, 0)
          let s := s.thaw tile
          s.updCtx tile f.place fun c => c.trapAt s.cycle q.seq 6
            { cause := if halted then causePeerHalted else causeMeshSlot, detail := if halted then 0 else 0x0E05
              value := BitVec.ofNat 48 first.2.2.1, address := first.2.2.2 })

/-- R349: the claimed beats are written to their rows on path MS, and their buffer entries are freed. -/
def execMland (ga gb : BitVec 6) (n : BitVec 4) (flow : BitVec 6) (s : State) : Host.Outcome State Fault Refusal :=
  onSyllable s fun e c =>
    match s.landCheck e.tile c e.q ga gb (n.toNat + 1) flow.toNat with
    | some t => .trap s t
    | none =>
      let keys := landKeys c e.q gb (n.toNat + 1) flow.toNat
      let t := s.tile e.tile
      if keys.any t.marks.contains then .trap s (meshSlot 0x0E04)
      else
        let a := meshRow c e.q ga
        let row (i : Nat) (k : Nat × Nat × Nat × Word64) : Option (Nat × InBeat) :=
          (t.landing.find? fun b => (b.launch, b.num, b.flow, b.arrival) == k).map fun b => (a + 128 * i, b)
        let rows := (keys.mapIdx row).filterMap id
        let s := s.putCtx e.tile e.place (rows.foldl (fun c r => c.keepOld s e 4 r.1 r.2.data) c)
        let s := s.updTile e.tile fun t => { t with landing := t.landing.filter fun b => !keys.contains (b.launch, b.num, b.flow, b.arrival) }
        .done (rows.foldl (fun s r => s.writeMixed (sramKey e.tile r.1) r.2.data r.2.poisoned) s)

/-! ### Queries (R350) -/

def execMqry (ga : BitVec 6) (sel : BitVec 2) (flow : BitVec 6) (s : State) : Host.Outcome State Fault Refusal :=
  onSyllable s fun e c =>
    let t := s.tile e.tile
    let f := s.flowOut c flow.toNat
    let v : Word64 := match sel.toNat with
      | 0 => (f.map fun f => BitVec.ofNat 64 f.latency).getD (BitVec.allOnes 64)
      | 1 => BitVec.ofNat 64 (t.landing.length + 256 * t.outbound.length)
      | 2 => BitVec.ofNat 64 (t.lost.getD c.launch 0)
      | _ => (f.map fun f => f.slots.foldl (fun (m : Word64) k => setBit m k true) 0).getD 0
    .done (s.putCtx e.tile e.place (c.resultG e.q 2 ga v))

end Sys2Proof.Machine
end

