-- ==== Sys2Proof/Machine/Barrier.lean ====
section
/-! DEFINITION. The barrier unit (15_barrier R355-R375), and the messages beside the mesh that it shares with Yarrow. -/

namespace Sys2Proof.Machine

/-! ### Messages (R358, R359) -/

/-- The segments of a message's route within a die, each with the cycles until the message enters the next. -/
def messageLinks (a b : Nat) : List (Nat × Nat) := (linkPath 64 a b).map fun k => (4 * k.1 + k.2, 2)

/-- From a tile to the hub, and from the hub to a tile. -/
def messageOut (a : Nat) : List (Nat × Nat) := messageLinks a (bridgeTile a) ++ [(10000 + dieOf a, 24)]
def messageIn (b : Nat) : List (Nat × Nat) := (20000 + dieOf b, 16) :: messageLinks (bridgeTile b) b

/-- From a tile to another. -/
def messagePath (a b : Nat) : List (Nat × Nat) := if dieOf a = dieOf b then messageLinks a b else messageOut a ++ messageIn b

/-- Messages that a barrier home answers, and those of a page owner. -/
def Ask.toPage : Ask → Bool
  | .subscribe _ _ | .cancel => true
  | _ => false

/-- Whether a message is that of a wait. -/
def Ask.awaits : Ask → Bool
  | .await _ => true
  | _ => false

/-- A message or a reply arrives some cycles from now. -/
def State.deliver (s : State) (n : Nat) (msg : Message) (answer : Option Answer) : State :=
  match answer with
  | none =>
    (s.updTile msg.home fun t => { t with messages := t.messages ++ [{ msg with arrive := s.time + n }] }).after n
      (if msg.ask.toPage then .pageMessageApply msg.home else .barrierMessageApply msg.home) 30
  | some a =>
    State.after { s with replies := s.replies ++ [⟨s.time + n, msg, a⟩] } n
      (if msg.ask.awaits then .bwaitReleaseLands msg.who else .barrierReplyLands msg.who) 30

/-- Sends a message, or the reply to it; within the tile it takes 2 cycles. -/
def State.sendOn (s : State) (source dest : Nat) (msg : Message) (answer : Option Answer) : State :=
  if source = dest then s.deliver 2 msg answer
  else { s with moving := s.moving ++ [{ enters := s.time + 2, path := messagePath source dest, msg := msg, answer := answer }] }

/-- Sends what leaves this package: it crosses the mesh and the hub to a link, whose other end is in another package (log 3). -/
def State.sendOut (s : State) (source : Nat) (msg : Message) (answer : Option Answer) : State :=
  { s with moving := s.moving ++ [{ enters := s.time + 2, path := messageOut source, msg := msg, answer := answer }] }

/-- Sends what a link brought n cycles before it leaves the hub: it crosses the die's bridge and the mesh. -/
def State.sendIn (s : State) (n dest : Nat) (msg : Message) (answer : Option Answer) : State :=
  { s with moving := s.moving ++ [{ enters := s.time + n + 8, path := messageIn dest, msg := msg, answer := answer }] }

/-- A message to its home; one in another package answers by the links (log 3). -/
def State.sendMessage (s : State) (msg : Message) : State :=
  if Config.tiles ≤ msg.home then { s with abroad := s.abroad ++ [(msg, false)] }.sendOut msg.who.tile msg none
  else s.sendOn msg.who.tile msg.home msg none

/-- The reply to a message; one to another package leaves by its link. -/
def State.reply (s : State) (msg : Message) (a : Answer) : State :=
  if Config.tiles ≤ msg.who.tile then s.sendOut msg.home msg (some a) else s.sendOn msg.home msg.who.tile msg (some a)

/-- Whether what a message carries goes to another package. -/
def Moving.leaves (m : Moving) : Bool := decide (Config.tiles ≤ if m.answer.isNone then m.msg.home else m.msg.who.tile)

/-- R359: ascending launch tile, then context, then issue order. -/
def Message.before (a b : Message) : Bool := keyBefore [a.launchTile, a.who.num, a.id] [b.launchTile, b.who.num, b.id]

/-- Inserts in that order. -/
def insertMoving (m : Moving) : List Moving → List Moving
  | [] => [m]
  | x :: r => if m.msg.before x.msg then m :: x :: r else x :: insertMoving m r

/-- R358: in each cycle a segment takes up to four messages, in order; the others wait a cycle. -/
def State.moveMessages (s : State) : State :=
  let ready := (s.moving.filter fun m => m.enters ≤ s.time).foldl (fun l m => insertMoving m l) []
  let rest := s.moving.filter fun m => s.time < m.enters
  (ready.foldl (fun (x : State × List Nat) m =>
    match m.path with
    | [] => (x.1.deliver 2 m.msg m.answer, x.2)
    | (k, n) :: path =>
      if 4 ≤ x.2.count k then ({ x.1 with moving := x.1.moving ++ [{ m with enters := s.time + 1 }] }, x.2)
      else if path.isEmpty then (if m.leaves then x.1 else x.1.deliver (n + 2) m.msg m.answer, k :: x.2)
      else ({ x.1 with moving := x.1.moving ++ [{ m with enters := s.time + n, path := path }] }, k :: x.2))
    ({ s with moving := rest }, [])).1

/-- Whether a message still waits: a release for R93, any message behind one of its context to the same home. -/
def State.mustWait (s : State) (u : Unsent) (ahead : List Unsent) : Bool :=
  ahead.any (fun v => v.msg.who == u.msg.who && v.msg.home == u.msg.home) ||
    (u.release.any fun scope => match s.findWho u.msg.who with
      | some (t, _, c) => s.unpublished t c u.msg.seq scope.toNat
      | none => false)

/-- Sends a message as soon as it may leave (R364). -/
def State.postMessage (s : State) (release : Option (BitVec 3)) (msg : Message) : State :=
  let u : Unsent := ⟨release, msg⟩
  if s.mustWait u s.unsent then { s with unsent := s.unsent ++ [u] } else s.sendMessage msg

/-- Messages whose time has come leave. -/
def State.flushUnsent (s : State) : State :=
  s.unsent.foldl (fun s u => if s.mustWait u s.unsent then { s with unsent := s.unsent ++ [u] } else s.sendMessage u.msg)
    { s with unsent := [] }

/-! ### The syllables (R360, R361) -/

/-- The remote part of a promise (R324). -/
def State.remotePromise (s : State) (c : Ctx) (t : Nat) : Ctx :=
  let p := s.cycle + BitVec.ofNat 64 (bitsOf (c.csrLast 0x69).toNat 32 16 + 1)
  c.updToken t fun k => { k with promise := if k.promise < p then p else k.promise }

/-- The message of a syllable to an object. -/
def messageOf (s : State) (e : Issued) (c : Ctx) (home object : Nat) (ask : Ask) (token pd gd : Nat) : Message :=
  { arrive := 0, home := home, who := ⟨e.tile, c.launch, c.num⟩, launchTile := c.home, id := s.ids, object := object, ask := ask
    seq := e.q.seq, token := token, pd := pd, gd := gd, pending := s.ids }

/-- The home of an object by its launch tile: a logical tile, or a number above this package's for one of another package (log 3). -/
def State.barrierHome (s : State) (c : Ctx) (k : Nat) : Nat := ((s.launchOf c).bind fun l => l.localTile k).getD (Config.tiles + k)

/-- A barrier syllable with a token: 8 bytes posted, and the message sent. -/
def barrierSyllable (id : BitVec 6) (others : List (BitVec 6)) (t : BitVec 3) (pd gd : Nat) (release : Bool) (ask : Issued → Ctx → Ask)
    (s : State) : Host.Outcome State Fault Refusal :=
  onSyllable s fun e c =>
    match s.barrierCheck e.tile c e.q id others with
    | .error t => .trap s t
    | .ok (k, object) =>
      let c1 := c.postToken t.toNat 8
      let c2 := { c1 with pending := c1.pending ++ [⟨s.ids, e.q.seq, 7⟩] }
      let home := s.barrierHome c k
      let msg := messageOf s e c home object (ask e c) t.toNat pd gd
      let c3 := if Config.tiles ≤ home then s.remotePromise c2 t.toNat else c2
      .done ((s.issued e c3).postMessage (if release then some e.q.scope else none) msg)

/-- The low word of a g register. -/
def lowWord (c : Ctx) (q : Queued) (g : BitVec 6) : BitVec 32 := (c.gRaw q g).setWidth 32

def execBinit (ga gb : BitVec 6) (t : BitVec 3) (s : State) : Host.Outcome State Fault Refusal :=
  barrierSyllable ga [gb] t 0 0 false (fun e c => .init (c.gRaw e.q gb)) s

def execBarr (ga gb : BitVec 6) (t : BitVec 3) (pd : BitVec 5) (s : State) : Host.Outcome State Fault Refusal :=
  barrierSyllable ga [gb] t pd.toNat 0 true (fun e c => .arrive (lowWord c e.q gb)) s

def execBinv (ga : BitVec 6) (t : BitVec 3) (s : State) : Host.Outcome State Fault Refusal :=
  barrierSyllable ga [] t 0 0 false (fun _ _ => .invalidate) s

/-- BQRY names its result by the rotating base of its bundle. -/
def execBqry (ga gb : BitVec 6) (t : BitVec 3) (sel : BitVec 2) (s : State) : Host.Outcome State Fault Refusal :=
  barrierSyllable gb [ga] t 0 (match s.engine with | some e => physG ga e.q.rrb | none => 0) false (fun _ _ => .query sel.toNat) s

/-- R365: the wait begins; the message asks the home. -/
def execBwait (ga gb : BitVec 6) (pd : BitVec 5) (timed : Bool) (s : State) : Host.Outcome State Fault Refusal :=
  onSyllable s fun e c =>
    match s.barrierCheck e.tile c e.q ga [gb] with
    | .error t => .trap s t
    | .ok (k, object) =>
      let msg := messageOf s e c (s.barrierHome c k) object (.await (lowWord c e.q gb)) 0 pd.toNat 0
      let left := if timed then some (bitsOf (c.gRaw e.q gb).toNat 32 32) else none
      let s := { s with ids := s.ids + 1 }.putCtx e.tile e.place
        { c with timed := some s.time, wait := some (.barrier e.q.seq e.q.addr (c.presentOf e.q) msg left none) }
      .done (s.postMessage none msg)

/-! ### The home (R362-R371) -/

/-- The signed distance of a phase from the base. -/
def Barrier.ahead (b : Barrier) (p : BitVec 32) : Int := (p - b.base).toInt

/-- Releases of some waiters. -/
def releases (l : List Waiter) (ok : Bool) (detail : Nat) : List (Message × Answer) := l.map fun w => (w.msg, .released ok detail)

/-- Table 15.3. -/
def Barrier.query (b : Barrier) (launch sel : Nat) : Word64 :=
  let bit (x : Bool) (n : Nat) : Nat := if x then 2 ^ n else 0
  BitVec.ofNat 64 (match sel with
    | 0 => b.n + bit (b.n != 0) 16 + bit (b.owner == some launch) 17 + bit (b.owner.any (· != launch)) 18
    | 1 => b.base.toNat
    | 2 => leNat16 b.counts
    | _ => b.waiters.length)
where
  leNat16 : List Nat → Nat
    | [] => 0
    | c :: r => c + 2 ^ 16 * leNat16 r

/-- One message at its object: the object after it, and what is sent. -/
def Barrier.apply (b : Barrier) (m : Message) : Barrier × List (Message × Answer) :=
  let other := b.owner.any (· != m.who.launch)
  match m.ask with
  | .init cfg =>
    if other then (b, [(m, .error 0x0F03)])
    else if bitsOf cfg.toNat 0 16 = 0 then (b, [(m, .error 0x0F06)])
    else
      ({ owner := some m.who.launch, n := bitsOf cfg.toNat 0 16, base := (cfg >>> 32).setWidth 32, counts := [0, 0, 0, 0], waiters := [] },
       releases b.waiters false 0x000A ++ [(m, .accepted)])
  | .arrive p =>
    let k := b.ahead p
    if other then (b, [(m, .error 0x0F03)])
    else if b.n = 0 then (b, [(m, .refused)])
    else if k < 0 then (b, [(m, .error 0x0F04)])
    else if 4 ≤ k then (b, [(m, .refused)])
    else if b.counts.getD k.toNat 0 = b.n then (b, [(m, .error 0x0F05)])
    else ({ b with counts := b.counts.set k.toNat (b.counts.getD k.toNat 0 + 1) }, [(m, .accepted)])
  | .await p =>
    if other then (b, [(m, .released false 0x0F03)])
    else if b.n = 0 then (b, [(m, .released false 0x0F02)])
    else if b.ahead p < 0 then (b, [(m, .released true 0)])
    else if 24 ≤ b.waiters.length then (b, [(m, .released false 0x0F07)])
    else ({ b with waiters := b.waiters ++ [⟨p, m⟩] }, [(m, .entered)])
  | .withdraw p =>
    ({ b with waiters := b.waiters.filter fun w => !(w.phase == p && w.msg.launchTile == m.launchTile && w.msg.who == m.who) }, [(m, .accepted)])
  | .invalidate =>
    if other then (b, [(m, .error 0x0F03)]) else (Barrier.free, releases b.waiters false 0x000B ++ [(m, .accepted)])
  | .query sel => (b, [(m, .value (b.query m.who.launch sel))])
  | .subscribe _ _ | .cancel => (b, [])

/-- R363: the phases that have filled. -/
def Barrier.complete : Nat → Barrier → Barrier × List (Message × Answer)
  | 0, b => (b, [])
  | fuel + 1, b =>
    if b.n != 0 && b.counts.headD 0 == b.n then
      let out := b.waiters.filter fun w => decide (b.ahead w.phase ≤ 0)
      let r := Barrier.complete fuel { b with
        base := b.base + 1, counts := b.counts.drop 1 ++ [0], waiters := b.waiters.filter fun w => decide (0 < b.ahead w.phase) }
      (r.1, releases out true 0 ++ r.2)
    else (b, [])

/-- Sorted messages. -/
def sortMessages (l : List Message) : List Message :=
  (l.foldl (fun (r : List Moving) m => insertMoving ⟨0, [], m, none⟩ r) []).map (·.msg)

/-- Changes an object of a tile, with what it sends. -/
def State.atBarrier (s : State) (tile object : Nat) (f : Barrier → Barrier × List (Message × Answer)) : State :=
  let r := f ((s.tile tile).barriers.getD object Barrier.free)
  r.2.foldl (fun s x => s.reply x.1 x.2) (s.updTile tile fun t => { t with barriers := t.barriers.set object r.1 Barrier.free })

/-- R359: the messages of this cycle at a home, in order, and then the completion step. -/
def execBarrierMessageApply (tile : Nat) (s : State) : Host.Outcome State Fault Refusal :=
  let come (m : Message) : Bool := m.arrive ≤ s.time && !m.ask.toPage
  let now := sortMessages ((s.tile tile).messages.filter come)
  let s := s.updTile tile fun t => { t with messages := t.messages.filter fun m => !come m }
  let s := now.foldl (fun s m => s.atBarrier tile m.object fun b => b.apply m) s
  .next (((now.map (·.object)).eraseDups).foldl (fun s k => s.atBarrier tile k (Barrier.complete 4)) s)

/-! ### Replies and releases (R360, R365-R368) -/

/-- Adds to a CSR that the hardware counts in. -/
def Ctx.bump (c : Ctx) (clock csr : Nat) (n : Word64) : Ctx := c.writeAt clock (.csr csr) (c.csrLast csr + n)

/-- The predicate of a message. -/
def Ctx.answerP (c : Ctx) (clock : Nat) (m : Message) (b : Bool) : Ctx := c.writeAt (clock + 1) (.p m.pd) (if b then 1 else 0)

/-- The pending operation of a message is over. -/
def Ctx.messageDone (c : Ctx) (m : Message) : Ctx := { c with pending := c.pending.filter fun p => p.id != m.pending }

/-- Bytes that a syllable of a barrier posts. -/
def Message.bytes (m : Message) : Nat := match m.ask with | .withdraw _ | .subscribe _ _ | .cancel => 0 | _ => 8

/-- A reply at its issuer. -/
def Ctx.takeReply (c : Ctx) (clock : Nat) (m : Message) (a : Answer) : Ctx :=
  let isArrive := match m.ask with | .arrive _ => true | _ => false
  let isQuery := match m.ask with | .query _ => true | _ => false
  let close (c : Ctx) : Ctx := if m.bytes = 0 then c else (c.progress clock m.token 8).messageDone m
  match a with
  | .accepted => close (if isArrive then c.answerP clock m true else c)
  | .refused => close (((c.answerP clock m false).orCsr clock 0x70 0x10000).bump clock 0x72 1)
  | .value v => close (c.writeAt (clock + 1) (.g m.gd) v)
  | .error detail =>
    let c := if isArrive then c.answerP clock m false else if isQuery then c.writeAt (clock + 1) (.g m.gd) 0 else c
    close (c.failToken clock m.token causeBarrierError detail 0)
  | .missed => c.orCsr clock 0x78 0x200
  | .finished n detail =>
    ((if detail = 0 then c else c.failToken clock m.token causeDomeError detail 0).progress clock m.token n).messageDone m
  | .released _ _ | .entered => c

/-- R360: the replies that land at a context in this cycle. -/
def execBarrierReplyLands (who : Who) (s : State) : Host.Outcome State Fault Refusal :=
  let come (r : Reply) : Bool := r.land ≤ s.time && r.msg.who == who && !r.msg.ask.awaits
  let now := s.replies.filter come
  let s := { s with replies := s.replies.filter fun r => !come r }
  .next (now.foldl (fun s r => s.updWho who fun clock c => c.takeReply clock r.msg r.answer) s)

/-- What lands for the wait of a context: a success ends it from the next cycle, an error traps, at once on a tile and at resume for
a context away from it. A reply of a wait that is over is discarded (R366). -/
def State.landRelease (s : State) (who : Who) (r : Reply) : State :=
  match s.findWho who with
  | none => s
  | some (tile, place, c) =>
    match c.wait with
    | some (.barrier seq addr present msg left none) =>
      let clock := s.landClock tile
      if msg.id != r.msg.id then s
      else
        match r.answer with
        | .released ok detail =>
          let c := { c.answerP clock msg ok with wait := some (.barrier seq addr present msg left (some (ok, detail, clock))) }
          let s := s.putCtx tile place c
          if ok || 4 ≤ place || c.heldByDebug then s else s.barrierTrap tile place seq addr present msg detail
        | .entered =>
          if left != some 0 then s else { s with agenda := s.agenda ++ [.event (.bwaitTimeout tile place)] }
        | _ => s
    | _ => s

/-- R365: the releases that land at a context in this cycle. -/
def execBwaitReleaseLands (who : Who) (s : State) : Host.Outcome State Fault Refusal :=
  let come (r : Reply) : Bool := r.land ≤ s.time && r.msg.who == who && r.msg.ask.awaits
  let now := s.replies.filter come
  .next (now.foldl (fun s r => s.landRelease who r) { s with replies := s.replies.filter fun r => !come r })

/-- R366: a timed wait without a release by the end of its last counted cycle ends with a false predicate: one of no cycles with the reply to
its message, any other in a cycle in which its tile runs and the context is active and not held. -/
def execBwaitTimeout (tile place : Nat) (s : State) : Host.Outcome State Fault Refusal :=
  .next (match s.ctx? tile place with
    | none => s
    | some c =>
      match c.wait with
      | some (.barrier _ _ _ msg (some left) none) =>
        if left = 0 || (left = 1 && decide (place < 4) && !c.heldByDebug && !s.stood tile) then
          let clock := s.landClock tile
          let c := ((c.answerP clock msg false).orCsr clock 0x70 0x20000).bump clock 0x73 1
          let m := { msg with ask := .withdraw msg.ask.phase, id := s.ids }
          ({ s with ids := s.ids + 1 }.putCtx tile place { c with wait := none }).postMessage none m
        else s
      | _ => s)

/-! ### Package links (R344-R346; log 3) -/

/-- The launch of a flow from another package into a context of a tile. -/
def State.launchOfFlow (s : State) (tile num flow : Nat) : Option Nat :=
  (List.find? (fun (l : Nat × Launch) => l.2.start.isSome && l.2.flows.any fun f => f.flow == flow && f.destCtx == num &&
    (l.2.anyTile f.source).1 != l.2.ordinal && (f.dests.filterMap l.2.localTile).contains tile) s.hub.launches).map (·.1)

/-- What a barrier message from another package asks. -/
def askOf : FarAsk → Ask
  | .init cfg => .init cfg
  | .arrive p => .arrive p
  | .await p => .await p
  | .withdraw p => .withdraw p
  | .invalidate => .invalidate
  | .query sel => .query sel.toNat

/-- What a home in another package replies. -/
def answerOf : FarAnswer → Answer
  | .accepted => .accepted
  | .refused => .refused
  | .value v => .value v
  | .error d => .error d
  | .released ok d => .released ok d
  | .entered => .entered

/-- R358, R359: a barrier message of another package's context crosses the hub, the die's bridge and the mesh to its home. -/
def State.farMessage (s : State) (n launch launchTile ctx id tile object : Nat) (ask : FarAsk) : State :=
  if Config.tiles ≤ tile || 16 ≤ object || (s.hub.launches.find? launch).isNone then s
  else s.sendIn n tile
    { arrive := 0, home := tile, who := ⟨Config.tiles + launchTile, launch, ctx⟩, launchTile := launchTile, id := id, object := object
      ask := askOf ask, seq := 0, token := 0, pd := 0, gd := 0, pending := 0 } none

/-- R360, R365: the reply to a message of this package; that of a wait which has entered its table leaves it to a later release. -/
def State.farReply (s : State) (n id : Nat) (a : FarAnswer) : State :=
  match s.abroad.find? fun x => x.1.id == id with
  | none => s
  | some x =>
    let s := { s with abroad := if a == FarAnswer.entered
      then s.abroad.map fun (y : Message × Bool) => if y.1.id == id then (y.1, true) else y
      else s.abroad.filter fun (y : Message × Bool) => y.1.id != id }
    s.sendIn n x.1.who.tile x.1 (some (answerOf a))

/-- R344, R345: a flit at a trained port, with the departure cycle of its header. A bad one is asked for again. What it brings is released
into the hub at that cycle plus the port's padding, or at once where it comes later: a beat crosses the hub, the die's bridge and the mesh, a
late one with the link-delay mark; one of no running launch is discarded (R341). A hold entry names a beat that is held back. Control flits
bring messages and progress. -/
def execFlitReceive (port : BitVec 4) (crcOk : Bool) (depart : Word64) (payload : FlitPayload) (s : State) :
    Host.Outcome State Fault Refusal :=
  let pad := s.reg (0x700 + 8 * port.toNat)
  let release := depart.toNat + bitsOf pad.toNat 0 16
  let n := release - s.cycle.toNat
  .next (
    if !crcOk || !(pad.getLsbD 16 && pad.getLsbD 17) then s
    else
      match payload with
      | .beat tile ctx flow arrival data poisoned =>
        (match s.launchOfFlow tile ctx flow with
        | some l => s.bringBeat tile (n + fromLink tile)
            { launch := l, num := ctx, flow := flow, arrival := arrival, data := (data ++ List.replicate 128 0).take 128
              poisoned := poisoned.filter (· < 128), linked := decide (release < s.cycle.toNat) }
        | none => s.countLost tile)
      | .hold tile ctx flow arrival =>
        (match s.launchOfFlow tile ctx flow with
        | some l => s.updTile tile fun t => { t with holds := t.holds ++ [(l, ctx, flow, arrival)] }
        | none => s)
      | .message launch launchTile ctx id tile object ask => s.farMessage n launch launchTile ctx id tile object ask
      | .reply id a => s.farReply n id a
      | .access launch launchTile ctx stamp addr a => s.farAccess (farOp launch launchTile ctx stamp s.cycle addr a)
      | .outcome op r => s.farOutcome op r
      | .progress launch p => s.farAdvance launch p)

end Sys2Proof.Machine
end

