-- ==== Sys2Proof/Machine/Yarrow.lean ====
section
/-! DEFINITION. Yarrow and the Dome (16_yarrow R376-R395): subscriptions, casts, merges in sequence order, and queries. -/

namespace Sys2Proof.Machine

/-! ### Subscriptions (R379, R387) -/

/-- Changes a page entry. -/
def State.updPage (s : State) (tile n : Nat) (f : PageEntry → PageEntry) : State :=
  s.updTile tile fun t => { t with pages := t.pages.set n (f (t.page n)) PageEntry.free }

def execPgsub (ga gb : BitVec 6) (t : BitVec 3) (d128 : Bool) (s : State) : Host.Outcome State Fault Refusal :=
  onSyllable s fun e c =>
    match s.pgsubCheck e.tile c e.q ga gb d128, s.pageId e.tile c (c.gRaw e.q ga) with
    | some t, _ => .trap s t
    | none, none => .done s
    | none, some (owner, entry) =>
      let msg := messageOf s e c owner entry (.subscribe (c.gRaw e.q gb).toNat d128) t.toNat 0 0
      let c := c.postToken t.toNat (256 * headDim d128)
      let c : Ctx := { c with pending := c.pending ++ [⟨s.ids, e.q.seq, 5⟩] }
      .done ((s.issued e c).postMessage none msg)

def execPgunsub (ga : BitVec 6) (s : State) : Host.Outcome State Fault Refusal :=
  onSyllable s fun e c =>
    match s.pgunsubCheck e.tile c e.q ga, s.pageId e.tile c (c.gRaw e.q ga) with
    | some t, _ => .trap s t
    | none, none => .done s
    | none, some (owner, entry) =>
      let msg := messageOf s e c owner entry .cancel 0 0 0
      .done (State.postMessage { s with ids := s.ids + 1 } none msg)

/-- The subscription of a message. -/
def Message.subscription (m : Message) (landing : Nat) (d128 : Bool) : Subscription := ⟨m.who, landing, m.token, d128, m.pending⟩

/-- The message that tells a subscriber how its subscription ended. -/
def Subscription.notice (x : Subscription) (owner : Nat) : Message :=
  { arrive := 0, home := owner, who := x.who, launchTile := 0, id := 0, object := 0, ask := .cancel, seq := 0, token := x.token, pd := 0
    gd := 0, pending := x.pending }

/-- One message at its page entry (Table 16.3): the entry after it, and the reply. -/
def PageEntry.apply (p : PageEntry) (m : Message) : PageEntry × Message × Answer :=
  match m.ask with
  | .subscribe landing d128 =>
    let x := m.subscription landing d128
    let bytes := 256 * headDim d128
    if p.owner.any (· != m.who.launch) then (p, m, .finished bytes 0x1007)
    else if (p.main ++ p.late).any fun y => y.who.tile == m.who.tile then
      ({ p with owner := some m.who.launch }, m, .finished bytes 0x1006)
    else if p.opened then ({ p with owner := some m.who.launch, late := p.late ++ [x] }, m, .missed)
    else ({ p with owner := some m.who.launch, main := p.main ++ [x] }, m, .accepted)
  | .cancel =>
    match (p.main ++ p.late).find? fun y => y.who == m.who with
    | some y =>
      ({ p with main := p.main.erase y, late := p.late.erase y }, y.notice m.home, .finished (256 * headDim y.d128) 0)
    | none => (p, m, .accepted)
  | _ => (p, m, .accepted)

/-- R379: the subscriptions and cancellations of this cycle at their owner, in the order of R359. -/
def execPageMessageApply (tile : Nat) (s : State) : Host.Outcome State Fault Refusal :=
  let come (m : Message) : Bool := m.arrive ≤ s.time && m.ask.toPage
  let now := sortMessages ((s.tile tile).messages.filter come)
  let s := s.updTile tile fun t => { t with messages := t.messages.filter fun m => !come m }
  .next (now.foldl (fun s m =>
    let r := ((s.tile tile).page m.object).apply m
    (s.updPage tile m.object fun _ => r.1).reply r.2.1 r.2.2) s)

/-! ### Casts (R380, R388) -/

/-- R388: the cast is queued; it starts now where no cast is in progress. -/
def execPgcast (ga gb : BitVec 6) (t : BitVec 3) (d128 catchUp : Bool) (s : State) : Host.Outcome State Fault Refusal :=
  onSyllable s fun e c =>
    match s.pgcastCheck e.tile c e.q ga gb d128 with
    | some t => .trap s t
    | none =>
      let entry := bitsOf (c.gRaw e.q gb).toNat 0 6
      let p := (s.tile e.tile).page entry
      let dest := if catchUp then p.late else p.main
      let p := { p with
        owner := some c.launch, opened := !catchUp, main := if catchUp then p.main else [], late := if catchUp then [] else p.late }
      let s := s.updPage e.tile entry fun _ => p
      if dest.isEmpty then .done s
      else
        let idle := (s.tile e.tile).casts.isEmpty
        let cast : Cast :=
          { who := ⟨e.tile, c.launch, c.num⟩, seq := e.q.seq, stage := (c.gRaw e.q ga).toNat, d128 := d128
            dests := dest.filter fun x => x.d128 == d128, token := t.toNat, next := 0, pending := s.ids }
        let c := c.postToken t.toNat (256 * headDim d128)
        let c : Ctx := { c with pending := c.pending ++ [⟨s.ids, e.q.seq, 5⟩] }
        let s := (s.issued e c).updTile e.tile fun t => { t with casts := t.casts ++ [cast] }
        let s := (dest.filter fun x => x.d128 != d128).foldl (fun s x =>
          s.reply (x.notice e.tile) (.finished (256 * headDim x.d128) 0x1008)) s
        .done (if idle then s.now (.castBeatRead e.tile) else s)

/-- The segments of a cast beat with the cycles after its start in which it enters each (R380): in the dimension order, or in the other. -/
def castSegments (turned : Bool) (source : Nat) (dests : List Nat) : List (Nat × Nat × Nat) :=
  ((source, 0, 0) :: dests.flatMap fun d => legLinks 2 turned source d ++ [(d, 1, latencyHere source d)]).eraseDups

/-- Whether the routes of a cast cross links of another launch that is deterministic, in the dimension order or, turned, in the other one. -/
def State.castCrosses (s : State) (tile : Nat) (k : Cast) (turned : Bool) : Bool :=
  s.crosses (some k.who.launch) turned (k.dests.map fun x => (tile, x.who.tile))

/-- R380: the cast in progress reads one beat of its staging range and sends it on its way. Where both routes cross links that carry
another launch's beats only, it waits (R339); its reads wait with it (DESIGN CHOICE, log 60). -/
def execCastBeatRead (tile : Nat) (s : State) : Host.Outcome State Fault Refusal :=
  let casts := (s.tile tile).casts
  let left := match casts with
    | k :: r => if 2 * headDim k.d128 ≤ k.next then r else casts
    | [] => []
  let s := s.updTile tile fun t => { t with casts := left }
  .next (match left with
    | [] => s
    | k :: r =>
      let i := k.next
      let last := i + 1 == 2 * headDim k.d128
      let key := sramKey tile (k.stage + 128 * i)
      let data := s.read key 128
      let poisoned := s.badBytes key 128
      let dests := k.dests.map fun x => x.who.tile
      let turned := s.castCrosses tile k false
      if turned && s.castCrosses tile k true then s.after 1 (.castBeatRead tile) 62
      else
      let segments := castSegments turned tile dests
      let wait := s.firstFree s.flowSlots segments 4096 0
      let s := s.takeSlots segments wait
      let s := k.dests.foldl (fun (s : State) (x : Subscription) =>
        let n := wait + latencyHere tile x.who.tile
        (s.updTile x.who.tile fun t => { t with castBeats := t.castBeats ++ [⟨s.time + n, linkInto tile x.who.tile, x, i, last, data, poisoned⟩] }).after n
          (.castBeatLanding x.who.tile) 61) s
      let s := s.updWho k.who fun clock c =>
        let c := c.progress clock k.token 128
        if last then { c with pending := c.pending.filter fun p => p.id != k.pending } else c
      (s.updTile tile fun t => { t with casts := { k with next := i + 1 } :: r }).after 1 (.castBeatRead tile) 62)

/-- The bundle of a subscription. -/
def Subscription.seq (x : Subscription) (c : Ctx) : Nat := ((c.pending.find? fun p => p.id == x.pending).map (·.seq)).getD c.seq

/-- Whether a landing cast beat waits a cycle: for a beat that came by its link in this cycle, for a bank that the tile's program or another beat
has taken (R319, R320), or for older cast reads of its context (R89, R393). That it does not wait for older subscriptions whose page has not
been cast is the model's choice (DESIGN CHOICE, log 60). -/
def State.castHeld (s : State) (tile : Nat) (b : CastBeat) : Bool :=
  let t := s.tile tile
  t.ports.contains b.link || (t.lines.any fun k => k % 16 == (b.sub.landing / 128 + b.index) % 16) ||
    match s.findWho b.sub.who with
    | some (_, _, c) => t.casts.any fun k => k.who == b.sub.who && decide (k.seq < b.sub.seq c)
    | none => false

/-- A cast beat is written; what it overwrites is kept for reads of the subscribing bundle (R90). -/
def State.castLand (s : State) (tile : Nat) (b : CastBeat) : State :=
  let a := b.sub.landing + 128 * b.index
  let kept (s : State) (c : Ctx) : Ctx := { c with undo := c.undo ++ s.kept tile (b.sub.seq c) 5 (cellsFrom a b.data) }
  let s := (s.claim tile (rowLines [a])).updTile tile fun t => { t with ports := b.link :: t.ports }
  let old := s
  ((s.updWho b.sub.who fun _ c => kept old c).writeMixed (sramKey tile a) b.data b.poisoned).updWho b.sub.who fun clock c =>
    let c := c.progress clock b.sub.token 128
    if b.last then { c with pending := c.pending.filter fun p => p.id != b.sub.pending } else c

/-- Lands beats in their order, as long as none has to wait: what is left, and the state. -/
def State.landCasts (tile : Nat) : List CastBeat → State → List CastBeat × State
  | [], s => ([], s)
  | b :: r, s => if s.castHeld tile b then (b :: r, s) else State.landCasts tile r (s.castLand tile b)

/-- R380: the cast beats that have reached a subscriber are written in their order, and its token falls. -/
def execCastBeatLanding (tile : Nat) (s : State) : Host.Outcome State Fault Refusal :=
  let now := (s.tile tile).castBeats.filter fun b => b.land ≤ s.time
  let x := State.landCasts tile now s
  let s := x.2.updTile tile fun t => { t with castBeats := x.1 ++ t.castBeats.filter fun b => s.time < b.land }
  .next (if x.1.isEmpty then s else s.after 1 (.castBeatLanding tile) 60)

/-! ### Merging (R382) -/

/-- An operation rounded to FP32, and whether it made a NaN from operands without one. -/
def roundOp (r : Exact) (operands : List Exact) : Exact × Bool := (fp32.value (rne32 r), r.isNan && !operands.any Exact.isNan)

/-- A number as a binary32 pattern. -/
def word32Of (x : Exact) : Word32 := BitVec.ofNat 32 (rne32 x)

/-- A binary32 pattern as a number. -/
def ofWord32 (w : Word32) : Exact := fp32.value w.toNat

/-- The sum of two rounded products. -/
def weighted (a1 x1 a2 x2 : Exact) : Exact × Bool :=
  let p := roundOp (a1.mul x1) [a1, x1]
  let q := roundOp (a2.mul x2) [a2, x2]
  let r := roundOp (p.1.add 0 q.1) [p.1, q.1]
  (r.1, p.2 || q.2 || r.2)

/-- R382: the merged state, and whether INVALID is set. -/
def Partial.merge (x y : Partial) : Partial × Bool :=
  let m1 := ofWord32 x.m
  let m2 := ofWord32 y.m
  if m2 = .inf true then (x, false)
  else
    let m := Exact.max m1 m2
    let d1 := roundOp (m1.add 0 m.neg) [m1, m]
    let d2 := roundOp (m2.add 0 m.neg) [m2, m]
    let a1 := (roundOp d1.1.exp2 [d1.1]).1
    let a2 := (roundOp d2.1.exp2 [d2.1]).1
    let l := weighted a1 (ofWord32 x.l) a2 (ofWord32 y.l)
    let o := (x.o.zip y.o).map fun p => weighted a1 (ofWord32 p.1) a2 (ofWord32 p.2)
    ({ m := word32Of m, l := word32Of l.1, o := o.map fun p => word32Of p.1 }, d1.2 || d2.2 || l.2 || o.any (·.2))

/-- A fresh slot (R381). -/
def Partial.fresh (d : Nat) : Partial := { m := 0xFF800000, l := 0, o := List.replicate d 0 }

def execMrgopen (ga : BitVec 6) (d128 : Bool) (s : State) : Host.Outcome State Fault Refusal :=
  onSyllable s fun e c =>
    match s.mrgopenCheck e.tile c e.q ga with
    | some t => .trap s t
    | none =>
      let v := (c.gRaw e.q ga).toNat
      let d : DomeSlot :=
        { owner := c.launch, opener := ⟨e.tile, c.launch, c.num⟩, d128 := d128, n := bitsOf v 8 7, next := 0, mask := 0
          acc := Partial.fresh (headDim d128) }
      .done (s.updTile e.tile fun t => { t with dome := t.dome.put (bitsOf v 0 6) d })

/-- The record at an address (R114). -/
def State.domeRecord (s : State) (tile a d : Nat) : Partial :=
  let w (off : Nat) : Word32 := BitVec.ofNat 32 (leNat (s.read (sramKey tile (a + off)) 4))
  { m := w 0, l := w 4, o := (List.range d).map fun j => w (64 + 4 * j) }

/-- Starts the next merge of a tile, if none runs. -/
def State.startMerge (s : State) (tile : Nat) : State :=
  let t := s.tile tile
  match t.merging, t.merges with
  | none, m :: _ =>
    let n := if 64 < m.record.o.length then 6 else 4
    (s.updTile tile fun t => { t with merging := some (s.time + n) }).after n (.domeMerge tile) 26
  | _, _ => s

/-- Parked partials of a slot that follow on in sequence join the merge queue (R383). -/
def Tile.joinRun (slot : Nat) : Nat → Tile → Nat → Tile × Nat
  | 0, t, next => (t, next)
  | fuel + 1, t, next =>
    match t.parked.find? fun m => m.slot == slot && m.s == next with
    | some m => Tile.joinRun slot fuel { t with parked := t.parked.erase m, merges := t.merges ++ [{ m with entry := true }] } (next + 1)
    | none => (t, next)

/-- R383, R390: a partial is accepted: into the merge queue, or into a reorder entry. -/
def execMrg (ga gb : BitVec 6) (s : State) : Host.Outcome State Fault Refusal :=
  onSyllable s fun e c =>
    match s.mrgCheck e.tile c e.q ga gb, (s.tile e.tile).slot? (c.gRaw e.q gb) with
    | some t, _ => .trap s t
    | none, none => .done s
    | none, some d =>
      let v := (c.gRaw e.q gb).toNat
      let slot := bitsOf v 0 6
      let k := bitsOf v 8 6
      let m : Merge :=
        { who := ⟨e.tile, c.launch, c.num⟩, slot := slot, s := k
          record := s.domeRecord e.tile (c.gRaw e.q ga).toNat (headDim d.d128), entry := false, pending := s.ids }
      let s := s.issued e { c with pending := c.pending ++ [⟨s.ids, e.q.seq, 7⟩] }
      let s := s.updTile e.tile fun t =>
        let d := { d with mask := setBit d.mask k true }
        if k = d.next then
          let r := Tile.joinRun slot 64 { t with merges := t.merges ++ [m] } (k + 1)
          { r.1 with dome := r.1.dome.put slot { d with next := r.2 } }
        else { t with parked := t.parked ++ [m], dome := t.dome.put slot d }
      .done (s.startMerge e.tile)

/-- R382: the merge under way ends, and the next one starts. -/
def execDomeMerge (tile : Nat) (s : State) : Host.Outcome State Fault Refusal :=
  let t := s.tile tile
  .next (match t.merging, t.merges with
    | some ends, m :: rest =>
      if s.time < ends then s
      else
        match Table.find? t.dome m.slot with
        | none => (s.updTile tile fun t => { t with merges := rest, merging := none }).startMerge tile
        | some d =>
          let r := d.acc.merge m.record
          let s := s.updTile tile fun t =>
            { t with merges := rest, merging := none, dome := t.dome.put m.slot { d with acc := r.1 } }
          let s := s.updWho m.who fun clock c =>
            let c := { c with pending := c.pending.filter fun p => p.id != m.pending }
            if r.2 then c.orCsr clock 0x78 4 else c
          s.startMerge tile
    | _, _ => s)

/-- Whether a context is held for a reorder entry (R384). -/
def Ctx.heldForEntry (c : Ctx) : Bool := c.stopping.isNone && ((c.queue 6).head?.any fun q => q.held == 10)

/-- Every context of a launch on a tile waits for an entry, and none is away: no entry can ever free. -/
def State.domeStuck (s : State) (tile launch : Nat) : Bool :=
  let l := (s.tileCtxs tile).filter fun x => x.2.launch == launch
  !l.isEmpty && l.all fun x => x.1 < 4 && x.2.heldForEntry

/-- R384: then every held MRG raises DOME_ERROR. -/
def execDomeNoProgress (tile launch : Nat) (s : State) : Host.Outcome State Fault Refusal :=
  .next (if s.domeStuck tile launch then
    (s.tileCtxs tile).foldl (fun s x =>
      if x.2.launch != launch then s
      else s.updCtx tile x.1 fun c =>
        match (c.queue 6).head? with
        | some q => c.trapAt s.cycle q.seq 6 { cause := causeDomeError, detail := 0x1003 }
        | none => c) s
    else s)

/-! ### Finishing and queries (R391, R392) -/

/-- The output of MRGFIN: bytes and flags. -/
def DomeSlot.finish (d : DomeSlot) (bf16Out raw : Bool) : List Byte × Nat :=
  let words (l : List Word32) : List Byte := l.flatMap fun w => leBytes 4 w.toNat
  if raw then (words [d.acc.m, d.acc.l] ++ List.replicate 56 0 ++ words d.acc.o, 0)
  else
    let l := ofWord32 d.acc.l
    let one (o : Word32) : List Byte × Nat :=
      let x := ofWord32 o
      let r := x.div l
      let code := if bf16Out then satFloat bf16 0 0 false r else satFloat fp32 0 0 true r
      (leBytes (if bf16Out then 2 else 4) code.1, code.2 ||| (if r.isNan && !x.isNan && !l.isNan then 4 else 0))
    let out := d.acc.o.map one
    (out.flatMap (·.1), out.foldl (fun f x => f ||| x.2) (if l.isZero then 0x400 else 0))

def execMrgfin (ga gb : BitVec 6) (bf16 raw : Bool) (s : State) : Host.Outcome State Fault Refusal :=
  onSyllable s fun e c =>
    match s.mrgfinCheck e.tile c e.q ga gb bf16 raw, (s.tile e.tile).slot? (c.gRaw e.q gb) with
    | some t, _ => .trap s t
    | none, none => .done s
    | none, some d =>
      let r := d.finish bf16 raw
      let s := s.updTile e.tile fun t => { t with dome := t.dome.erase (bitsOf (c.gRaw e.q gb).toNat 0 6) }
      let a := (c.gRaw e.q ga).toNat
      let s := s.putCtx e.tile e.place ((if r.2 = 0 then c else c.orCsr (s.clock e.tile) 0x78 (BitVec.ofNat 64 r.2)).keepOld s e 5 a r.1)
      .done (s.write (sramKey e.tile a) r.1 false)

/-- Table 16.6. -/
def Tile.domeq (t : Tile) (launch n : Nat) (entry : Bool) (sel : Nat) : Word64 :=
  let bit (x : Bool) (k : Nat) : Nat := if x then 2 ^ k else 0
  let mask (l : List Subscription) : Nat := l.foldl (fun m x => m ||| 2 ^ partIndex x.who.tile) 0
  let mine := (Table.find? t.dome n).filter fun d => d.owner == launch
  BitVec.ofNat 64 (
    if entry then
      let p := t.page n
      if p.owner != some launch then 0 else mask p.main + mask p.late * 2 ^ 24 + bit p.opened 48 + 2 ^ 49
    else match sel with
      | 0 => (mine.map fun d => d.n + d.next * 2 ^ 8 + 2 ^ 16 + bit d.d128 17).getD 0
      | 1 => (mine.map fun d => d.mask.toNat).getD 0
      | 2 => if mine.isNone then 0 else
          ((t.parked ++ t.merges.filter (·.entry)).filter fun m => m.slot == n).foldl (fun v m => v ||| 2 ^ m.s) 0
      | _ => t.reorderUsed + t.mergeWaiting % 16 * 2 ^ 8)

def execDomeq (ga gb : BitVec 6) (entry : Bool) (sel : BitVec 2) (s : State) : Host.Outcome State Fault Refusal :=
  onSyllable s fun e c =>
    match c.g e.q gb with
    | .error t => .trap s t
    | .ok v =>
      .done (s.putCtx e.tile e.place (c.resultG e.q 2 ga ((s.tile e.tile).domeq c.launch (bitsOf v.toNat 0 6) entry sel.toNat)))

/-- R394: the end of a launch closes its slots, empties its entries and queues, and frees its page entries. -/
def State.endYarrow (s : State) (launch : Nat) : State :=
  s.tiles.foldl (fun s (kt : Nat × Tile) => s.startMerge kt.1) { s with tiles := s.tiles.map fun (kt : Nat × Tile) => (kt.1, { kt.2 with
      pages := kt.2.pages.filter fun (p : Nat × PageEntry) => p.2.owner != some launch
      casts := kt.2.casts.filter fun k => k.who.launch != launch
      castBeats := kt.2.castBeats.filter fun b => b.sub.who.launch != launch
      dome := kt.2.dome.filter fun (d : Nat × DomeSlot) => d.2.owner != launch
      parked := kt.2.parked.filter fun m => m.who.launch != launch
      merges := kt.2.merges.filter fun m => m.who.launch != launch
      merging := if (kt.2.merges.head?.any fun m => m.who.launch == launch) then none else kt.2.merging }) }

end Sys2Proof.Machine
end

