-- ==== Sys2Proof/Machine/Sorrel.lean ====
section
/-! DEFINITION. The Sorrel field (17_sorrel R398-R417): chains, commands in order of arrival, colour steps, and replies. -/

namespace Sys2Proof.Machine

/-! ### Commands (R400, R406-R409) -/

/-- Sends a command; all but sweeps hold the Q queue until their reply lands. -/
def sendSf (s : State) (e : Issued) (c : Ctx) (kind : SfKind) (token gd : Nat) (holds : Bool) : State :=
  let part := partOf e.tile
  let cmd : SfCommand :=
    { arrive := s.time + 8, who := ⟨e.tile, c.launch, c.num⟩, launchTile := c.home, id := s.ids, part := part, kind := kind, seq := e.q.seq
      token := token, gd := gd, pending := s.ids }
  let c := { c with
    pending := c.pending ++ [⟨s.ids, e.q.seq, 6⟩]
    sf := if holds then some ⟨e.q.seq, s.ids⟩ else c.sf }
  ((s.issued e c).updChain (s.chainOf part).1 fun h => { h with waiting := h.waiting ++ [cmd] }).after 8
    (.sfCommandApply (part / 16) (part % 16)) 40

/-- A syllable that passes its checks and sends a command. -/
def sfSyllable (check : State → Issued → Ctx → Option Trap) (kind : State → Issued → Ctx → SfKind) (s : State) :
    Host.Outcome State Fault Refusal :=
  onSyllable s fun e c =>
    match check s e c with
    | some t => .trap s t
    | none => .done (sendSf s e c (kind s e c) 0 0 true)

/-- The words of an image. -/
def State.imageWords (s : State) (tile a n : Nat) : List Word32 :=
  (List.range n).map fun k => BitVec.ofNat 32 (leNat (s.read (sramKey tile (a + 4 * k)) 4))

/-- Codes of w bits of an image. -/
def State.imageCodes (s : State) (tile a n w : Nat) : List Nat :=
  let v := leNat (s.read (sramKey tile a) (ceilDiv (n * w) 8))
  (List.range n).map fun k => bitsOf v (w * k) w

def execSfload (ga gb : BitVec 6) (reset : Bool) (ns : BitVec 6) (s : State) : Host.Outcome State Fault Refusal :=
  sfSyllable (fun s e c => s.imageCheck e.tile c e.q ga gb (loadBytes ns) false)
    (fun s e c =>
      let r := rangeOf (c.gRaw e.q gb)
      let a := (c.gRaw e.q ga).toNat
      .load r.1 r.2.1 reset ((List.range r.2.1).map fun i => s.imageWords e.tile (a + loadBytes ns i) (1 + ns.toNat))) s

def execSfclamp (ga gb : BitVec 6) (s : State) : Host.Outcome State Fault Refusal :=
  sfSyllable (fun s e c => s.imageCheck e.tile c e.q ga gb (fun n => ceilDiv n 4) false)
    (fun s e c =>
      let r := rangeOf (c.gRaw e.q gb)
      .clamp r.1 r.2.1 (s.imageCodes e.tile (c.gRaw e.q ga).toNat r.2.1 2)) s

def execSfwrite (ga gb : BitVec 6) (s : State) : Host.Outcome State Fault Refusal :=
  sfSyllable (fun s e c => s.imageCheck e.tile c e.q ga gb (fun n => ceilDiv n 8) false)
    (fun s e c =>
      let r := rangeOf (c.gRaw e.q gb)
      .write r.1 r.2.1 ((s.imageCodes e.tile (c.gRaw e.q ga).toNat r.2.1 1).map (· == 1))) s

def execSfread (ga gb : BitVec 6) (s : State) : Host.Outcome State Fault Refusal :=
  sfSyllable (fun s e c => s.imageCheck e.tile c e.q ga gb (fun n => ceilDiv n 8) true)
    (fun _ e c =>
      let r := rangeOf (c.gRaw e.q gb)
      .read r.1 r.2.1 (c.gRaw e.q ga).toNat) s

def execSfseed (ga gb : BitVec 6) (keep entropy : Bool) (m : BitVec 4) (s : State) : Host.Outcome State Fault Refusal :=
  sfSyllable (fun s e c => firstTrap (c.firstPoison e.q [ga, gb] :: s.fieldCheck e.tile c e.q true))
    (fun _ e c => .seed (c.gRaw e.q ga) (c.gRaw e.q gb) keep entropy (m.toNat + 1)) s

/-- R413: a sweep of no repeats posts nothing and sends nothing. -/
def execSfsweep (ga gb : BitVec 6) (t : BitVec 3) (k : BitVec 3) (s : State) : Host.Outcome State Fault Refusal :=
  onSyllable s fun e c =>
    match s.sweepCheck e.tile c e.q ga gb with
    | some t => .trap s t
    | none =>
      let n := (c.gRaw e.q ga).toNat
      .done (if n = 0 then s
        else sendSf s e (c.postToken t.toNat 8) (.sweep n (c.gRaw e.q gb).toNat (k.toNat + 1)) t.toNat 0 false)

def execSfqry (ga : BitVec 6) (t : BitVec 3) (sel : BitVec 2) (s : State) : Host.Outcome State Fault Refusal :=
  onSyllable s fun e c =>
    match firstTrap (s.fieldCheck e.tile c e.q true) with
    | some t => .trap s t
    | none => .done (sendSf s e (c.postToken t.toNat 8) (.query sel.toNat) t.toNat (physG ga e.q.rrb) true)

/-! ### Cell records (R401, R402, R411) -/

/-- A signed field of 16 or 8 bits. -/
def link8 (w : Word32) : Int := signed 8 (bitsOf w.toNat 16 8)

/-- A record as a cell of a chain of m fields, or the detail of its refusal. -/
def cellOf (m x : Nat) (record : List Word32) : Except Nat Cell :=
  let h := (record.headD 0).toNat
  let links := record.drop 1
  let count := bitsOf h 22 6
  let used := links.take count
  let field (w : Word32) : Nat := bitsOf w.toNat 14 2
  let place : Int := x / 16384
  let target (w : Word32) : Int := place + (match field w with | 1 => 1 | 3 => -1 | _ => 0)
  if bitsOf h 28 4 ≠ 0 || h.testBit 21 || links.length < count || !(links.drop count).all (· == 0) ||
      used.any fun w => bitsOf w.toNat 24 8 != 0 || field w == 2 then .error 0x1104
  else if used.any fun w => target w < 0 || (m : Int) ≤ target w then .error 0x1105
  else .ok
    { state := h.testBit 20, clamp := h.testBit 19, bias := signed 16 h, colour := bitsOf h 16 3
      links := used.map fun w => (16384 * (target w).toNat + bitsOf w.toNat 0 14, link8 w) }

/-- The cells of consecutive records, or the first that is refused. -/
def cellsOf (m : Nat) : Nat → List (List Word32) → Except (Nat × Nat) (List (Nat × Cell))
  | _, [] => .ok []
  | x, r :: rest =>
    match cellOf m x r with
    | .error d => .error (d, x)
    | .ok c =>
      match cellsOf m (x + 1) rest with
      | .error e => .error e
      | .ok l => .ok ((x, c) :: l)

/-- The lowest cell at a link between two present cells of one colour. -/
def colouringFault (cells : Table Cell) : Option Nat :=
  let faults := cells.flatMap fun (x : Nat × Cell) => x.2.links.filterMap fun l =>
    match Table.find? cells l.1 with
    | some y => if y.colour = x.2.colour then some (min x.1 l.1) else none
    | none => none
  faults.foldl (fun (b : Option Nat) n => match b with
    | none => some n
    | some k => some (min k n)) none

/-! ### Applying a command (R406, R410-R412) -/

/-- Whether a range lies in a chain. -/
def SfChain.inside (h : SfChain) (first q : Nat) : Bool := first + q ≤ 16384 * h.m

/-- Changes the present cells of a range by their ordinal in it. -/
def SfChain.overRange (h : SfChain) (first q : Nat) (f : Nat → Cell → Cell) : SfChain :=
  { h with cells := h.cells.map fun (x : Nat × Cell) => if first ≤ x.1 && x.1 < first + q then (x.1, f (x.1 - first) x.2) else x }

/-- A clamp code (Table 17.6). -/
def clampCode (code : Nat) (c : Cell) : Cell :=
  match code with
  | 0 => { c with clamp := false }
  | 1 => { c with clamp := true }
  | 2 => { c with clamp := true, state := false }
  | _ => { c with clamp := true, state := true }

/-- The image of the states of a range. -/
def SfChain.image (h : SfChain) (first q : Nat) : List Byte :=
  leBytes (ceilDiv q 8) (h.cells.foldl (fun v (x : Nat × Cell) =>
    if first ≤ x.1 && x.1 < first + q && x.2.state then v + 2 ^ (x.1 - first) else v) 0)

/-- Cycles of a command (Table 17.4). -/
def SfKind.cycles (k : SfKind) (m : Nat) : Nat :=
  match k with
  | .seed _ _ _ _ _ => 4
  | .load _ q _ _ => q + 8
  | .clamp _ q _ | .write _ q _ | .read _ q _ => ceilDiv q 1024 + 4
  | .sweep n _ k => n * k * (if m = 1 then 4 else 6)
  | .query _ => 0

/-- A command that changes cells: the chain after it and the answer. -/
def SfChain.apply (h : SfChain) (k : SfKind) : SfChain × SfAnswer :=
  match k with
  | .load first q reset records =>
    if !h.inside first q then (h, .trap 0x1103 0)
    else
      (match cellsOf h.m first records with
      | .error (d, x) => (h, .trap d x)
      | .ok l =>
        let cells := l.foldl (fun (t : Table Cell) x => t.put x.1 x.2) (if reset then [] else h.cells)
        match colouringFault cells with
        | some x => (h, .trap 0x1106 x)
        | none => ({ h with cells := cells }, .done))
  | .clamp first q codes =>
    if !h.inside first q then (h, .trap 0x1103 0) else (h.overRange first q fun i c => clampCode (codes.getD i 0) c, .done)
  | .write first q bits =>
    if !h.inside first q then (h, .trap 0x1103 0) else (h.overRange first q fun i c => { c with state := bits.getD i false }, .done)
  | .read first q addr => if !h.inside first q then (h, .trap 0x1103 0) else (h, .image addr (h.image first q))
  | _ => (h, .done)

/-- Table 17.7. -/
def State.sfQuery (s : State) (part launch sel : Nat) : Word64 :=
  let x := s.chainOf part
  let h := x.2
  let bit (b : Bool) (n : Nat) : Nat := if b then 2 ^ n else 0
  match sel with
  | 0 => BitVec.ofNat 64 (bit (Table.find? s.hub.owners part == some launch) 0 + bit h.sweep.isSome 1 + bit h.entropy 2 +
      (h.m - 1) * 2 ^ 4 + (part - x.1) * 2 ^ 8 + h.cells.length * 2 ^ 16)
  | 1 => h.swc
  | 2 => BitVec.ofNat 64 ((h.sweep.map (·.left)).getD 0)
  | _ => h.seed

/-- A reply leaves n cycles from now and lands 8 cycles later. -/
def State.sfReply (s : State) (m : SfCommand) (n : Nat) (a : SfAnswer) : State :=
  State.after { s with sfReplies := s.sfReplies ++ [⟨s.time + n + 8, m, a⟩] } (n + 8) (.sfReplyLands m.who) 41

/-- The fields of chains that a SFSEED takes fall apart into single ones, and are joined anew; commands that wait go with the field
of their partition, whose controller goes on with them. -/
def State.formChain (s : State) (part m : Nat) (seed swc : Word64) (entropy : Bool) : State :=
  let hit (x : Nat × SfChain) : Bool := x.1 / 16 == part / 16 && x.1 < part + m && part < x.1 + x.2.m
  let old := s.hub.chains.filter hit
  let singles := old.flatMap fun (x : Nat × SfChain) => (List.range x.2.m).map fun j => (x.1 + j, { x.2 with m := 1, cells := [], waiting := [] })
  let outside := singles.filter fun (x : Nat × SfChain) => x.1 < part || part + m ≤ x.1
  let waiting := old.flatMap fun (x : Nat × SfChain) => x.2.waiting
  let new : SfChain := { m := m, seed := seed, swc := swc, entropy := entropy, cells := [], waiting := [], sweep := none, busy := s.time + 4 }
  let chains := (outside ++ [(part, new)]).foldl (fun (t : Table SfChain) x => t.put x.1 x.2) (s.hub.chains.filter fun x => !hit x)
  let s := { s with hub := { s.hub with chains := chains } }
  let s := waiting.foldl (fun s w => s.updChain (s.chainOf w.part).1 fun h => { h with waiting := h.waiting ++ [w] }) s
  outside.foldl (fun s x => s.now (.sfCommandApply (x.1 / 16) (x.1 % 16))) s

/-- Whether a SFSEED must still wait for the chains that it takes. -/
def State.seedWaits (s : State) (part m : Nat) : Bool :=
  s.hub.chains.any fun (x : Nat × SfChain) => x.1 / 16 == part / 16 && x.1 < part + m && part < x.1 + x.2.m &&
    (x.2.sweep.isSome || s.time < x.2.busy)

/-- Whether fields may form one chain for a launch (R399). -/
def State.mayForm (s : State) (part n launch : Nat) : Bool :=
  n = 1 || (part % 16 + n ≤ 16 && (List.range n).all fun j => Table.find? s.hub.owners (part + j) == some launch)

/-- SFSEED at the controller (R399, R410). -/
def State.applySeed (s : State) (m : SfCommand) (seed swc : Word64) (keep entropy : Bool) (n : Nat) : State × SfAnswer :=
  let x := s.chainOf m.part
  if keep then
    (if x.2.m = n then (s.updChain x.1 fun h => { h with seed := seed, swc := swc, entropy := entropy, busy := s.time + 4 }, .done)
     else (s.updChain x.1 fun h => { h with busy := s.time + 4 }, .trap 0x1107 0))
  else if s.mayForm m.part n m.who.launch then
    (s.formChain m.part n seed swc entropy, .done)
  else (s.updChain x.1 fun h => { h with busy := s.time + 4 }, .trap 0x1107 0)

/-- The order of commands (R406). -/
def SfCommand.before (a b : SfCommand) : Bool :=
  keyBefore [a.arrive, a.launchTile, a.who.num, a.id] [b.arrive, b.launchTile, b.who.num, b.id]

/-- A query is answered on arrival. -/
def SfKind.isQuery : SfKind → Bool
  | .query _ => true
  | _ => false

/-- Answers the queries that have arrived (R414). -/
def State.answerQueries (s : State) (key : Nat) : State :=
  let come (m : SfCommand) : Bool := m.arrive ≤ s.time && m.kind.isQuery
  let now := (s.chainOf key).2.waiting.filter come
  let s := s.updChain key fun h => { h with waiting := h.waiting.filter fun m => !come m }
  now.foldl (fun s m => match m.kind with
    | .query sel => s.sfReply m 0 (.value (s.sfQuery m.part m.who.launch sel))
    | _ => s) s

/-- R406: queries are answered; an idle controller applies the next command that has arrived. -/
def execSfCommandApply (die field : Nat) (s : State) : Host.Outcome State Fault Refusal :=
  let part := 16 * die + field
  let again : Instr := .sfCommandApply die field
  .next (if (Table.find? s.hub.chains (s.chainOf part).1).isNone then s
    else
      let s := s.answerQueries (s.chainOf part).1
      let key := (s.chainOf part).1
      let h := (s.chainOf part).2
      let next := (h.waiting.filter fun m => m.arrive ≤ s.time).foldl (fun (b : Option SfCommand) m => match b with
        | none => some m
        | some x => if m.before x then some m else some x) none
      match next with
      | none => s
      | some m =>
        if h.sweep.isSome || s.time < h.busy then s
        else
          let taken := s.updChain key fun h => { h with waiting := h.waiting.erase m }
          let n := m.kind.cycles h.m
          match m.kind with
          | .seed seed swc keep entropy k =>
            if !keep && s.mayForm m.part k m.who.launch && s.seedWaits m.part k then s.after 1 again 40
            else
              let r := taken.applySeed m seed swc keep entropy k
              (r.1.sfReply m 4 r.2).after 4 again 40
          | .sweep reps _ k =>
            (taken.updChain key fun h =>
              { h with busy := s.time + (if h.m = 1 then 4 else 6), sweep := some { cmd := m, left := reps * k, saturated := false, drawn := false } }).after
              (if h.m = 1 then 4 else 6) (.colourStep (key / 16) (key % 16)) 39
          | kind =>
            let r := h.apply kind
            ((taken.updChain key fun x => { x with cells := r.1.cells, busy := s.time + n }).sfReply m n r.2).after n again 40)

/-! ### Sampling (R403-R405) -/

/-- Whether 65,536 / (1 + 2^(-v/64)) is below t + 1/2, by 64th powers. -/
def belowHalf (v : Int) (t : Nat) : Bool :=
  if 65536 ≤ t then true
  else if 0 ≤ v then (131071 - 2 * t) ^ 64 * 2 ^ v.toNat < (2 * t + 1) ^ 64
  else (131071 - 2 * t) ^ 64 < 2 ^ (-v).toNat * (2 * t + 1) ^ 64

/-- The least t that is, between bounds. -/
def searchHalf (v : Int) : Nat → Nat → Nat → Nat
  | 0, lo, _ => lo
  | fuel + 1, lo, hi =>
    if hi ≤ lo then lo
    else
      let mid := (lo + hi) / 2
      if belowHalf v mid then searchHalf v fuel lo mid else searchHalf v fuel (mid + 1) hi

/-- T (R403). -/
def threshold (v : Int) : Nat := if 1088 ≤ v then 65536 else if v ≤ -1088 then 0 else searchHalf v 18 0 65536

/-- The local field of a cell, and whether it saturated. -/
def SfChain.field (h : SfChain) (c : Cell) : Int × Bool :=
  let spin (y : Nat) : Int := match Table.find? h.cells y with
    | some d => if d.state then 1 else -1
    | none => 0
  satRange (c.links.foldl (fun v l => v + l.2 * spin l.1) c.bias) (-32768) 32767

/-- The uniform draw of a cell (R404): keyed bits, or the noise source. -/
def SfChain.draw (h : SfChain) (free colour x : Nat) : Nat :=
  if h.entropy then (Config.noise (free + x)).toNat
  else (keybits h.seed h.swc (BitVec.ofNat 64 (0x04 * 2 ^ 56 + colour * 2 ^ 48 + x))).toNat % 2 ^ 16

/-- One colour step: the cells after it, and whether a field saturated and a draw was made. -/
def SfChain.colour (h : SfChain) (free beta colour : Nat) : Table Cell × Bool × Bool :=
  let free? (c : Cell) : Bool := !c.clamp && c.colour == colour
  (h.cells.map fun (x : Nat × Cell) =>
    if free? x.2 then (x.1, { x.2 with state := decide (h.draw free colour x.1 < threshold (beta * (h.field x.2).1)) }) else x,
   h.cells.any fun (x : Nat × Cell) => free? x.2 && (h.field x.2).2,
   h.entropy && h.cells.any fun (x : Nat × Cell) => free? x.2)

/-- R405: every free cell of one colour is resampled at once; the last step of a repeat counts it, and that of the sweep ends it.
The step that a launch's end lets finish (R415) leaves nothing: its cells go with the field. -/
def execColourStep (die field : Nat) (s : State) : Host.Outcome State Fault Refusal :=
  let key := 16 * die + field
  let h := (s.chainOf key).2
  .next (match h.sweep with
    | none => s
    | some w =>
      match w.cmd.kind with
      | .sweep n beta k =>
        if s.time < h.busy then s
        else if h.closing then s.releaseFields key h.m
        else
          let r := h.colour s.free beta ((n * k - w.left) % k)
          let left := w.left - 1
          let w := { w with left := left, saturated := w.saturated || r.2.1, drawn := w.drawn || r.2.2 }
          let step := if h.m = 1 then 4 else 6
          let s := { s with free := if h.entropy then s.free + 16384 * h.m else s.free }
          let s := s.updChain key fun h =>
            { h with
              cells := r.1, swc := if left % k = 0 then h.swc + 1 else h.swc
              sweep := if left = 0 then none else some w, busy := if left = 0 then s.time else s.time + step }
          if left ≠ 0 then s.after step (.colourStep die field) 39
          else
            let flags := (if w.saturated then 0x10000 else 0) + (if w.drawn then 0x20000 else 0)
            let s := s.updWho w.cmd.who fun clock c => if flags = 0 then c else c.orCsr clock 0x78 (BitVec.ofNat 64 flags)
            (s.sfReply w.cmd 0 (.swept n w.saturated w.drawn)).now (.sfCommandApply die field)
      | _ => s)

/-! ### Replies (R409, R412-R414) -/

/-- A reply at its issuer; a bundle that dispatches in this cycle reads the value that a query gives (R414). -/
def State.takeSf (s : State) (r : SfReply) : State :=
  match s.findWho r.cmd.who with
  | none => s
  | some (tile, place, c) =>
    let clock := s.landClock tile
    let c := { c with
      pending := c.pending.filter fun p => p.id != r.cmd.pending
      sf := c.sf.filter fun f => f.id != r.cmd.id }
    match r.answer with
    | .done => s.putCtx tile place c
    | .trap detail value =>
      let c := { c with flights := c.flights.map fun (f : Flight) => if f.seq = r.cmd.seq then { f with done := setBit f.done 6 false } else f }
      s.putCtx tile place (c.trapAt s.cycle r.cmd.seq 6 { cause := causeFieldError, detail := detail, value := BitVec.ofNat 48 value })
    | .image addr bytes =>
      (s.putCtx tile place { c with undo := c.undo ++ s.kept tile r.cmd.seq 6 (cellsFrom addr bytes) }).write (sramKey tile addr) bytes false
    | .value v => s.putCtx tile place ((c.writeAt (s.clock tile) (.g r.cmd.gd) v).progress clock r.cmd.token 8)
    | .swept n _ _ => s.putCtx tile place ((c.bump clock 0x79 (BitVec.ofNat 64 n)).progress clock r.cmd.token 8)

/-- R409: the replies that land at a context in this cycle. -/
def execSfReplyLands (who : Who) (s : State) : Host.Outcome State Fault Refusal :=
  let come (r : SfReply) : Bool := r.land ≤ s.time && r.cmd.who == who
  let now := s.sfReplies.filter come
  .next (now.foldl State.takeSf { s with sfReplies := s.sfReplies.filter fun r => !come r })

end Sys2Proof.Machine
end

