-- ==== Sys2Proof/Machine/Preempt.lean ====
section
/-! DEFINITION. Pre-emption (06_traps R139-R144, R147; 18_host R441, R442): the save image, parking, full saves, and the return of a
context to a tile. -/

namespace Sys2Proof.Machine

/-! ### The save image (R140; log 12) -/

/-- Zero bytes. -/
def zeroBytes (n : Nat) : List Byte := List.replicate n 0

/-- Bits as a number, from bit 0 up. -/
def bitsNat (l : List Bool) : Nat := l.foldr (fun b n => (if b then 1 else 0) + 2 * n) 0

/-- A context with every result in its files. -/
def Ctx.settledRegs (c : Ctx) : Ctx := { c with regs := c.writes.foldl RegFile.apply c.regs, writes := [] }

/-- A port entry: handle, position, the origin with the form of the binding, and the rows assigned to the bundles to run again (R220): a
bit for each of them that has one, and the ordinal of the first, behind which the others follow one by one. -/
def portImage (rows : List (List RowUse)) (k : Nat) : Option Port → List Byte
  | none => zeroBytes 64
  | some p =>
    let mine := rows.map fun l => l.find? fun u => u.port == k
    leBytes 32 p.handle.toNat ++ leBytes 8 p.position ++
      leBytes 8 (p.origin.toNat + 2 ^ 56 * bitsNat [p.narrow, p.gather] + 2 ^ 63) ++
      leBytes 8 (bitsNat (mine.map Option.isSome) % 2 ^ 64) ++ leBytes 8 (((mine.filterMap id).head?.map (·.ordinal)).getD 0)

/-- A token entry. -/
def tokenImage (k : Token) : List Byte :=
  leBytes 8 k.expected.toNat ++ leBytes 8 k.remaining.toNat ++ leBytes 8 k.promise.toNat ++ leBytes 8 (tokqValue k 3).toNat

/-- The pending ERET state. -/
def eretImage : Option EretState → List Byte
  | none => zeroBytes 64
  | some r => leBytes 8 (r.addr + 2 ^ 16 * r.done.toNat + 2 ^ 32 * r.remainder + 2 ^ 63) ++
      leBytes 8 (r.counts.foldr (fun n m => n % 16 + 16 * m) 0) ++ zeroBytes 48

/-- Table 6.6. -/
def State.saveImage (s : State) (tile : Nat) (c0 : Ctx) : List Byte :=
  let c := c0.settledRegs
  let q (n : Nat) (f : Nat → Nat) : List Byte := (List.range n).flatMap fun k => leBytes 8 (f k)
  let config := s.csrValue tile c 0 0x5C
  q 64 (fun k => (c.regs.g.getD k 0).toNat) ++
    ((List.range 16).flatMap fun k => leBytes 32 (c.regs.h.getD k 0).toNat) ++
    ((List.range 12).flatMap fun k => leBytes 256 (c.regs.v.getD k 0).toNat) ++
    q 4 (fun k => (c.regs.m.getD k 0).toNat) ++ leBytes 4 c.regs.p.toNat ++ zeroBytes 28 ++
    q 4 (fun k => (c.regs.z.getD k 0).toNat) ++ zeroBytes 32 ++
    ((List.range 8).flatMap fun k => tokenImage (c.token k)) ++
    ((List.range 12).flatMap fun k => portImage ((c.eret.map (·.rows)).getD []) k (Table.find? c.ports k)) ++
    q 112 (fun k => (s.csrValue tile c 0 (0x10 + k)).toNat) ++
    leBytes 8 c.slicePos ++
    leBytes 8 (c.group.toNat + 16 * bitsNat [c.highPriority, c.inHandler, config.getLsbD 32, config.getLsbD 33]) ++ zeroBytes 48 ++
    eretImage c.eret ++
    leBytes 8 c.regs.gPoison.toNat ++ leBytes 8 c.regs.vPoison.toNat ++ leBytes 8 c.regs.hPoison.toNat ++ zeroBytes 40 ++ zeroBytes 1856

/-- The CSRs that an image restores: those that CSRW writes, and those of the array (R177, R280). -/
def csrRestored : List Nat :=
  [0x10, 0x11, 0x12, 0x13, 0x14, 0x15, 0x16, 0x17, 0x30, 0x31, 0x48, 0x50, 0x51, 0x52, 0x53, 0x54, 0x55, 0x56, 0x58, 0x59, 0x5A,
   0x5B, 0x5C, 0x5D, 0x5E, 0x5F, 0x60, 0x61, 0x62, 0x68, 0x69, 0x6A, 0x70, 0x78]

/-- The bits of a CSR that an image restores: no reserved field (R4), no field of FLAGS_D marked R (R305), and all others, those that CSRW
leaves unchanged among them (R280). -/
def restoreMask (n : Nat) : Word64 :=
  match n with
  | 0x10 => 0xF3F
  | 0x48 => 0x73F
  | 0x50 => 0x33F
  | 0x58 => 0x3F
  | 0x5C => 0x300FF0001
  | 0x60 => 0x33F
  | 0x68 => 0x13F
  | 0x70 => 0x30F3F
  | 0x78 => 0x3073F
  | n => csrMask n

/-- A number of an image. -/
def imageNat (bs : List Byte) (a n : Nat) : Nat := leNat ((bs.drop a).take n)

/-- A port from its entry: unbound where the handle image is zero and bit 63 of the qword at +40 is clear (R140; log 12). -/
def portOfImage (bs : List Byte) (k : Nat) : Option Port :=
  let a := 0x1180 + 64 * k
  let o := imageNat bs (a + 40) 8
  let pos := imageNat bs (a + 32) 8
  if imageNat bs a 32 = 0 && !o.testBit 63 then none
  else some ⟨BitVec.ofNat 256 (imageNat bs a 32), o.testBit 56, BitVec.ofNat 56 o, pos, o.testBit 57, pos, 0, 0⟩

/-- The assignments of a port's entry. -/
def assigned (bs : List Byte) (k : Nat) : Nat × Nat := (imageNat bs (0x1180 + 64 * k + 48) 8, imageNat bs (0x1180 + 64 * k + 56) 8)

/-- The rows that the port entries of an image assign to the bundles to run again, bundle by bundle (R220). -/
def rowsOfImage (bs : List Byte) : List (List RowUse) :=
  let ports := (List.range 12).filterMap fun k => (portOfImage bs k).map fun p => (k, p, assigned bs k)
  let bundles := (ports.map fun x => if x.2.2.1 = 0 then 0 else Nat.log2 x.2.2.1 + 1).foldl max 0
  (List.range bundles).map fun j => ports.filterMap fun x =>
    if x.2.2.1.testBit j then
      some ⟨x.1, some x.2.1, x.2.2.2 + ((List.range j).filter fun i => x.2.2.1.testBit i).length, 0⟩
    else none

/-- The rows of an image. Where its entries say what those of the context said, the context's own stand, which know of bindings that a port
entry has no room for: those that a bundle ran ahead with, and gaps between ordinals (log 12). -/
def Ctx.rowsOf (c : Ctx) (bs : List Byte) (addr : Nat) : List (List RowUse) :=
  let old := match c.eret with | some r => if r.addr = addr then r.rows else [] | none => []
  let same := (List.range 12).all fun k =>
    let x := portImage old k (Table.find? c.ports k)
    (leNat ((x.drop 48).take 8), leNat ((x.drop 56).take 8)) == assigned bs k
  if same then old else rowsOfImage bs

/-- A context with the registers, ports, slice position, group and return state of an image. -/
def Ctx.loadImage (c0 : Ctx) (bs : List Byte) : Ctx :=
  let c := c0.settledRegs
  let fill {w : Nat} (a n size : Nat) : Table (BitVec w) :=
    (List.range n).foldl (fun t k => Table.set t k (BitVec.ofNat w (imageNat bs (a + size * k) size)) 0) []
  let r := imageNat bs 0x1840 8
  let addr := bitsOf r 0 16
  { c with
    regs :=
      { g := (fill 0 64 8 : Table Word64).erase 0
        gPoison := setBit (BitVec.ofNat 64 (imageNat bs 0x1880 8)) 0 false
        p := setBit (BitVec.ofNat 32 (imageNat bs 0x1020 4)) 0 true
        h := fill 0x200 16 32
        hPoison := BitVec.ofNat 16 (imageNat bs 0x1890 2)
        v := fill 0x400 12 256
        vPoison := BitVec.ofNat 12 (imageNat bs 0x1888 2)
        m := fill 0x1000 4 8
        z := fill 0x1040 4 8
        csr := csrRestored.foldl (fun t n =>
          Table.set t n (BitVec.ofNat 64 (imageNat bs (0x1480 + 8 * (n - 0x10)) 8) &&& restoreMask n) 0)
          c.regs.csr }
    ports := (List.range 12).foldl (fun t k => match portOfImage bs k with | some p => t.put k p | none => t.erase k) c.ports
    slicePos := imageNat bs 0x1800 8
    group := BitVec.ofNat 4 (imageNat bs 0x1808 1)
    eret := if !r.testBit 63 then none else some
      { addr := addr, done := BitVec.ofNat 7 (bitsOf r 16 7), counts := (List.range 7).map fun k => bitsOf (imageNat bs 0x1848 8) (4 * k) 4
        remainder := bitsOf r 32 13
        rows := c.rowsOf bs addr
        stamps := match c.eret with | some e => if e.addr = addr then e.stamps else [] | none => [] } }

/-- The tokens of an image. -/
def Ctx.loadTokens (c : Ctx) (bs : List Byte) : Ctx :=
  (List.range 8).foldl (fun c k =>
    let a := 0x1080 + 32 * k
    let e := imageNat bs (a + 24) 8
    c.updToken k fun t => { t with
      expected := BitVec.ofNat 64 (imageNat bs a 8), remaining := BitVec.ofNat 64 (imageNat bs (a + 8) 8)
      promise := BitVec.ofNat 64 (imageNat bs (a + 16) 8), error := e.testBit 0, reported := e.testBit 1
      cause := BitVec.ofNat 16 (bitsOf e 16 16), detail := BitVec.ofNat 16 (bitsOf e 32 16) }) c

/-! ### Dispatch boundaries (R76) -/

/-- Whether a context is at a dispatch boundary at which it may be taken. -/
def Ctx.atBoundary (c : Ctx) : Bool :=
  !c.queued && c.stopping.isNone && (c.resume.isNone || c.heldByDebug) && c.sf.isNone && (match c.wait with | some (.halt _ _ _) => false | _ => true)

/-- Moves a context to another place of a tile. -/
def State.moveCtx (s : State) (tile place place' : Nat) (c : Ctx) : State := (s.dropCtx tile place).putCtx tile place' c

/-- A context that has been taken holds no turn and dispatches nothing. -/
def State.leaveTurn (s : State) (tile place : Nat) : State :=
  (s.endEpisode tile place).updTile tile fun t => { t with turn := if t.turn == some place then none else t.turn }

/-- The first free place of some. -/
def State.freePlace (s : State) (tile : Nat) (l : List Nat) : Option Nat := l.find? fun p => (s.ctx? tile p).isNone

/-- R141: the victim moves into a free parked partition, or is to be saved. -/
def execPark (tile place : Nat) (s : State) : Host.Outcome State Fault Refusal :=
  .next (match s.ctx? tile place with
    | none => s
    | some c =>
      if !c.atBoundary || c.take != some true then s
      else
        match s.freePlace tile [4, 5] with
        | none => s.putCtx tile place { c with take := some false }
        | some p =>
          let s := s.leaveTurn tile place
          s.moveCtx tile place p { s.ctxNow tile place c with take := none, away := true })

/-- Whether every token has reached zero or its error flag, and nothing else of the context is under way (R142). -/
def Ctx.savable (c : Ctx) : Bool :=
  ((List.range 8).all fun t => (c.token t).remaining == 0 || (c.token t).error) && c.outRows.isEmpty &&
    (match c.wait with | some (.barrier _ _ _ _ _ none) => false | _ => true)

/-- Writes a save slot: the image, the array image if the slot holds one, zero above. -/
def State.writeSlot (s : State) (tile j : Nat) (image : List Byte) (array : Bool) : State :=
  let key := saveSlotKey tile j
  let s := s.write key image false
  if array then s.write (key + 0x7000) (zeroBytes 0x1000) false else s.write (key + 0x2000) (zeroBytes 0x6000) false

/-- R142, R143, R146: the victim's image goes to a slot of its tile, with the array image it holds in the window. Without a slot it
keeps running. -/
def execFullSave (tile place : Nat) (s : State) : Host.Outcome State Fault Refusal :=
  .next (match s.ctx? tile place with
    | none => s
    | some c =>
      if !c.atBoundary || c.take != some false || !c.savable then s
      else
        match (s.tile tile).slotFor c.launch c.num with
        | none => s.putCtx tile place { c with take := none }
        | some j =>
          let me := some (c.launch, c.num)
          let image := s.saveImage tile c
          let s := if (s.tile tile).array.image == me then s.moveImage tile else s
          let array := ((Table.find? (s.tile tile).slots j).map (·.array)).getD false
          let s := (s.writeSlot tile j image array).updTile tile fun t => { t with slots := t.slots.put j ⟨c.launch, c.num, true, array⟩ }
          let s := (s.leaveTurn tile place).holdVault tile
          s.moveCtx tile place (8 + j) { (s.ctxNow tile place c).settledRegs with take := none, away := true })

/-! ### Coming back (R144, R147) -/

/-- A context switched in: a stall counts from here (R29), and its input rows are fetched again (R140). -/
def State.switchIn (s : State) (tile place : Nat) (c : Ctx) : State :=
  (s.putCtx tile place { c with base := s.clock tile, take := none }).prefetchAll tile place

/-- R144: a parked context returns to a free active place of its tile. It takes the turn from the 25th cycle on, so that its first bundle
dispatches within 32 (DESIGN CHOICE, log 33). -/
def execResumeParked (who : Who) (s : State) : Host.Outcome State Fault Refusal :=
  .next (match s.findWho who with
    | none => s
    | some (tile, place, c) =>
      match (if place = 4 || place = 5 then s.freePlace tile [0, 1, 2, 3] else none) with
      | none => s
      | some p => (s.dropCtx tile place).switchIn tile p { c.refetch with release := some (s.clock tile + 24) })

/-- R147: z registers within a grant, and whether any was cut. -/
def clampShapes (z : Table Word64) (grant : Word64) : Table Word64 × Bool :=
  let one (v : Word64) : Word64 := BitVec.ofNat 64 (((List.range 4).map fun k =>
    min (bitsOf v.toNat (16 * k) 16) (bitsOf grant.toNat (16 * k) 16) * 2 ^ (16 * k)).foldl (· + ·) 0)
  ((List.range 4).foldl (fun t k => t.set k (one (z.getD k 0)) 0) z, (List.range 4).any fun k => one (z.getD k 0) != z.getD k 0)

/-- CSRs that the hardware goes on setting for a saved context. -/
def csrLive : List Nat := [0x68, 0x6A, 0x70, 0x78]

/-- The context that a slot's image gives: what the hardware went on counting stays (log 12). -/
def State.fromSlot (s : State) (tile j onTile : Nat) (c : Ctx) : Ctx :=
  let c := c.settledRegs
  let r := c.loadImage (s.read (saveSlotKey tile j) 0x2000)
  let z := clampShapes r.regs.z (s.grant onTile)
  let band := (s.vault onTile).measured
  let csr := csrLive.foldl (fun t n => t.set n (c.regs.csr.getD n 0) 0) r.regs.csr
  let csr := csr.set 0x60 (r.regs.csr.getD 0x60 0 ||| (c.regs.csr.getD 0x60 0 &&& 0x200)) 0
  let csr := csr.set 0x40 (r.regs.csr.getD 0x40 0 ||| (c.regs.csr.getD 0x40 0 &&& 0x200)) 0
  let csr := [0x80, 0x81].foldl (fun (t : Table Word64) n => t.erase n) csr
  let r := { r with regs := { r.regs with csr := csr, z := z.1 }, recent := [] }
  let r := if z.2 then r.setStatus 5 true else r
  if tile = onTile then r
  else { r with regs := { r.regs with csr := r.regs.csr.set 0x40 (setBit (r.regs.csr.getD 0x40 0) 9 (decide (r.variantBand ≠ band))) 0 } }

/-- Whether a context has the array of its tile, or an image of it there. -/
def Tile.arrayOf (t : Tile) (launch num : Nat) : Bool :=
  t.array.owner == some (launch, num) || t.array.image == some (launch, num) || ((t.slotOf launch num).any fun x => x.2.array)

/-- Whether a context has a Dome slot of its tile open, or a subscription pending there (R394). -/
def Tile.yarrowOf (t : Tile) (who : Who) : Bool :=
  (t.dome.any fun x => x.2.opener == who) || t.pages.any fun x => (x.2.main ++ x.2.late).any fun u => u.who == who

/-- Whether a saved context may come back on a tile: its own, or any other of its launch unless it owns bank groups, has a Dome slot open
or a subscription pending (R144, R285, R394); its array
goes with it into a slot. The model tells the contexts of one launch on a tile apart by their numbers, and so asks that the other tile has
none of the same number left (log 54). -/
def State.mayRestore (s : State) (tile onTile : Nat) (c : Ctx) : Bool :=
  (s.freePlace onTile [0, 1, 2, 3]).isSome &&
    (tile == onTile ||
      (((s.launchOf c).bind fun l => l.tileIndex onTile).isSome && c.vgroups == 0 &&
        !(s.tiles.any fun x => x.2.yarrowOf ⟨tile, c.launch, c.num⟩) &&
        !((s.tileCtxs onTile).any fun x => x.2.launch == c.launch && x.2.num == c.num) &&
        (!(s.tile tile).arrayOf c.launch c.num || ((s.tile onTile).slotFor c.launch c.num).isSome)))

/-- What a context leaves behind on a tile goes with it to another: its array, as an image in a slot there, and the copies and chains that
it has under way, which report to it. -/
def State.carry (s : State) (tile onTile : Nat) (c : Ctx) : State :=
  let me := some (c.launch, c.num)
  let old : Who := ⟨tile, c.launch, c.num⟩
  let s := if !(s.tile tile).arrayOf c.launch c.num then s
    else
      let x : MatrixArray × State := if (s.tile tile).array.owner == me then
          ((s.tile tile).array, s.updTile tile fun t => { t with array := { MatrixArray.empty with image := t.array.image } })
        else s.ownImage tile c
      match (x.2.tile onTile).slotFor c.launch c.num with
      | some j => (x.2.putImage (saveSlotKey onTile j + 0x2000) x.1).updTile onTile fun t => t.slotArray j c.launch c.num true
      | none => x.2
  let who (w : Option Who) : Option Who := if w = some old then some { old with tile := onTile } else w
  { s with
    copies := s.copies.map fun (x : Nat × CopyOp) => (x.1, { x.2 with owner := who x.2.owner })
    tiles := s.tiles.map fun (kt : Nat × Tile) => (kt.1, { kt.2 with channels := kt.2.channels.map fun (x : Nat × Channel) =>
      (x.1, { x.2 with run := x.2.run.map fun r => { r with owner := who r.owner } }) }) }

/-- R144: the image is loaded, its group checked, its shapes clamped; its slot is free unless it holds an array image. -/
def execRestore (who : Who) (onTile : Nat) (s : State) : Host.Outcome State Fault Refusal :=
  .next (match s.findWho who with
    | none => s
    | some (tile, place, c) =>
      match (if 8 ≤ place && s.mayRestore tile onTile c then s.freePlace onTile [0, 1, 2, 3] else none) with
      | none => s
      | some p =>
        let c := s.fromSlot tile (place - 8) onTile c
        let s := (s.holdVault tile).updTile tile fun t =>
          { t with slots := match t.slotOf c.launch c.num with
            | some x => if x.2.array then t.slots.put x.1 { x.2 with context := false } else t.slots.erase x.1
            | none => t.slots }
        let s := if tile = onTile then s else s.carry tile onTile c
        let conflict := s.groupConflict onTile c c.group
        let s := (s.dropCtx tile place).switchIn onTile p c
        match conflict with
        | some t => s.refuse onTile p 7 t
        | none => s)

/-! ### Choosing (R441, R442) -/

/-- The contexts of a tile that a waiting launch may take, in the order in which they are taken. -/
def State.victims (s : State) (tile priority : Nat) : List (Nat × Ctx) :=
  let key (x : Nat × Ctx) : List Nat := match s.launchOf x.2 with
    | some l => [l.priority, 2 ^ 64 - (l.start.getD 0).toNat, 4 - x.2.num]
    | none => [0, 0, 0]
  let may := (s.tileCtxs tile).filter fun x => decide (x.1 < 4) && x.2.take.isNone &&
    (s.launchOf x.2).any fun l => decide (l.priority < priority)
  let insert (l : List (Nat × Ctx)) (x : Nat × Ctx) : List (Nat × Ctx) :=
    l.takeWhile (fun y => keyBefore (key y) (key x)) ++ x :: l.dropWhile fun y => keyBefore (key y) (key x)
  may.foldl insert []

/-- Partitions and slots left for victims of a tile, those already asked for counted as gone (R141-R143). -/
def State.roomFor (s : State) (tile : Nat) : Nat :=
  let t := s.tile tile
  let free (l : List Nat) (p : Nat → Bool) : Nat := (l.filter p).length
  free [4, 5] (fun p => (s.ctx? tile p).isNone) + free [0, 1, 2, 3] (fun j => (Table.find? t.slots j).isNone) -
    free [0, 1, 2, 3] fun p => (s.ctx? tile p).any fun c => c.take.isSome

/-- Active contexts of a tile that a launch of C contexts is short of. -/
def State.shortOf (s : State) (tile contexts : Nat) : Nat :=
  contexts - ([0, 1, 2, 3].filter fun p => (s.ctx? tile p).isNone).length

/-- R441: a waiting launch takes victims on each of its tiles that is short of free contexts. -/
def execPreemptVictims (launch : Nat) (s : State) : Host.Outcome State Fault Refusal :=
  .next (match s.hub.launches.find? launch with
    | none => s
    | some l =>
      if l.start.isSome then s
      else
        (((List.range l.tiles).filterMap l.localTile).foldl NatSet.insert []).foldl (fun (s : State) tile =>
          let asked := ((s.tileCtxs tile).filter fun x => decide (x.1 < 4) && x.2.take.isSome).length
          let n := min (s.shortOf tile l.contexts - asked) (s.roomFor tile)
          ((s.victims tile l.priority).take n).foldl (fun (s : State) x => s.putCtx tile x.1 { x.2 with take := some true }) s) s)

end Sys2Proof.Machine
end

