-- ==== Sys2Proof/Machine/Host.lean ====
section
/-! DEFINITION. The command processor (18_host R420-R442): rings and packets, launches from their checks to their completion, signals,
the host's window, and Function Level Reset. -/

namespace Sys2Proof.Machine

/-! ### Host memory (R423) -/

/-- A qword of host memory. -/
def State.hostWord (s : State) (a : Nat) : Word64 := BitVec.ofNat 64 (leNat (s.read (hostKey a) 8))

/-- Writes qwords to host memory. -/
def State.hostPut (s : State) (a : Nat) (l : List Word64) : State := s.write (hostKey a) (qwordBytes l) false

/-! ### Packets (R430-R437) -/

/-- Changes a packet. -/
def State.updPacket (s : State) (id : Nat) (f : Packet → Packet) : State :=
  match s.hub.packets.find? id with
  | some p => { s with hub := { s.hub with packets := s.hub.packets.put id (f p) } }
  | none => s

/-- A qword of a packet. -/
def Packet.word (p : Packet) (k : Nat) : Nat := (p.words.getD k 0).toNat

/-- The kind of a packet. -/
def Packet.kind (p : Packet) : Nat := bitsOf (p.word 0) 16 8

/-- A nonzero status stops the queue, and QERR names the packet (R430). -/
def State.stopQueue (s : State) (p : Packet) (status : Nat) : State :=
  if status = 0 then s
  else s.updQueue p.fn p.queue fun q => { q with stopped := true, err := BitVec.ofNat 64 (status + 2 ^ 48 * bitsOf (p.word 0) 32 16) }

/-- Ends a packet: its status, and its completion as a release. -/
def State.endPacket (s : State) (id status detail : Nat) : State :=
  match s.hub.packets.find? id with
  | none => s
  | some p =>
    let s := s.updPacket id fun p => { p with expiry := none, status := { p.status with cycle := s.cycle, status := status, detail := detail } }
    (s.stopQueue p status).now (.packetCompletion id)

/-- Whether an address is an 8-aligned host bus address. -/
def hostAddr (a : Nat) : Bool := a % 8 == 0 && decide (a < 2 ^ 47)

/-- The field rules of R432 and R433. -/
def Packet.wellFormed (p : Packet) : Bool :=
  let w := p.word
  (w 0 &&& 0xFFFF0000FF00FEFE) == 0 && hostAddr (w 6) && hostAddr (w 7) &&
    (match p.kind with
    | 1 => bitsOf (w 1) 61 3 == 0 && decide (bitsOf (w 1) 48 13 ≤ 4096) && bitsOf (w 1) 48 13 % 8 == 0 &&
        (w 3 &&& 0xFFFFFFF0C000C000) == 0 && hostAddr (w 4)
    | 2 => 2 ≤ bitsOf (w 2) 0 2 && bitsOf (w 2) 2 6 == 0 && decide (bitsOf (w 2) 8 5 < 18) && bitsOf (w 2) 13 3 == 0 &&
        bitsOf (w 2) 22 2 == 0 && bitsOf (w 2) 26 38 == 0 && w 3 == 0 && w 4 == 0 && w 5 == 0
    | 3 => hostAddr (w 1) && bitsOf (w 3) 2 30 == 0 && w 4 == 0 && w 5 == 0
    | 4 => hostAddr (w 1) && decide (w 3 < 3) && w 4 == 0 && w 5 == 0
    | _ => false)

/-- Whether a partition is lent (Table 18.2). -/
def State.lentOut (s : State) (part : Nat) : Bool := (s.reg (0x300 + 8 * part)).getLsbD 0

/-- Whether a partition belongs to its VF: lent, and the VF enabled (R426). -/
def State.belongs (s : State) (part : Nat) : Bool := s.lentOut part && Config.vfEnabled s.time (part + 1)

/-- Whether a COPY names a partition that its function may use (R426, R433). -/
def State.copyMine (s : State) (p : Packet) : Bool :=
  let part := bitsOf (p.word 2) 16 6
  if p.fn = 0 then !s.lentOut part else part + 1 == p.fn && s.belongs part

/-- The packets of a queue that have started and not completed. -/
def State.openPackets (s : State) (fn q : Nat) : List Packet :=
  (s.hub.packets.map (·.2)).filter fun p => p.fn == fn && p.queue == q && p.started

/-- Whether a packet must wait to start (R431). -/
def State.packetWaits (s : State) (p : Packet) : Bool :=
  let before := s.openPackets p.fn p.queue
  (!before.isEmpty && ((p.words.getD 0 0).getLsbD 8 || p.kind == 4)) || before.any (fun x => x.kind == 3) ||
    decide (64 ≤ before.length) || decide (1024 ≤ (s.hub.packets.filter fun (x : Nat × Packet) => x.2.started).length)

/-- The step that a packet starts with. -/
def Packet.start (p : Packet) (id : Nat) : Instr :=
  match p.kind with
  | 1 => .launch id
  | 2 => .copy id
  | 3 => .waitSignal id
  | _ => .signal id

/-- The slot that a queue reads next. -/
def HostQueue.slot (q : HostQueue) : Nat := q.base + 64 * (q.rptr.toNat % 2 ^ q.log)

/-- Whether a queue has a slot to read. -/
def HostQueue.due (q : HostQueue) : Bool := q.enabled && !q.stopped && q.rptr != q.notify

/-- R430: the slot that was read: read again later if it is not valid; else its packet, as it was read, starts or is refused once the
queue's order lets it, and the slot is handed back. -/
def State.takeSlot (s : State) (fn q : Nat) : State :=
  let h := s.queue fn q
  if !h.reading then s
  else if !h.due || s.hub.recovery then s.updQueue fn q fun h => { h with reading := false, taken := [] }
  else
    let words := if h.taken.isEmpty then (List.range 8).map fun k => s.hostWord (h.slot + 8 * k) else h.taken
    let p : Packet := { fn := fn, queue := q, words := words, started := true, expiry := none, status := ⟨0, 0, 0, 0, 0, 0, 0, 0, 0⟩ }
    if !(words.getD 0 0).getLsbD 0 then s.after 1800 (.ringSlotRepoll fn q) 60
    else if s.packetWaits p then (s.updQueue fn q fun h => { h with taken := words }).after 1 (.ringSlotRead fn q) 60
    else
      let id := s.ids
      let next := h.rptr + 1
      let s := s.hostPut h.slot [words.getD 0 0 &&& ~~~1]
      let s := if h.shadow = 0 then s else s.hostPut h.shadow [next.setWidth 64]
      let s := { s with ids := id + 1, hub := { s.hub with packets := s.hub.packets.put id p } }.updQueue fn q fun h =>
        { h with rptr := next, reading := false, taken := [] }
      if !p.wellFormed || (p.kind == 2 && !s.copyMine p) then s.endPacket id 1 0x120A else s.now (p.start id)

def execRingSlotRead (fn q : Nat) (s : State) : Host.Outcome State Fault Refusal := .next (s.takeSlot fn q)

def execRingSlotRepoll (fn q : Nat) (s : State) : Host.Outcome State Fault Refusal := .next (s.takeSlot fn q)

/-- Starts the reads of the queues that have one to make (R430): at most 40 cycles to the request (Table 18.9), then the host's latency. -/
def State.startReads (s : State) : State :=
  s.hub.queues.foldl (fun s (x : Nat × HostQueue) =>
    if x.2.due && !x.2.reading then
      ({ s with free := s.free + 2 }.updQueue (x.1 / 8) (x.1 % 8) fun h => { h with reading := true }).after
        (1 + Config.delay s.free % 40 + Config.delay (s.free + 1)) (.ringSlotRead (x.1 / 8) (x.1 % 8)) 60
    else s) s

/-! ### Signals (R435-R437) -/

/-- Whether the word of a WAIT-SIGNAL meets its condition. -/
def State.signalMet (s : State) (p : Packet) : Bool :=
  let v := s.hostWord (p.word 1)
  let x : Word64 := p.words.getD 2 0
  match bitsOf (p.word 3) 0 2 with
  | 0 => v == x
  | 1 => v != x
  | 2 => decide (v < x)
  | _ => decide (x ≤ v)

/-- Packets that wait on a signal, read again when the command processor writes it. -/
def State.wakeWaits (s : State) (addr : Nat) : State :=
  (s.hub.packets.filter fun (x : Nat × Packet) => x.2.kind == 3 && x.2.started && x.2.word 1 == addr).foldl
    (fun s (x : Nat × Packet) => if s.signalMet x.2 then s.endPacket x.1 0 0 else s) s

/-- An update of a signal: 0 set, 1 subtract, 2 add. -/
def State.updateSignal (s : State) (addr op : Nat) (v : Word64) : State :=
  let old := s.hostWord addr
  (s.hostPut addr [if op = 0 then v else if op = 1 then old - v else old + v]).wakeWaits addr

/-- R435: the signal is read, and its timeout set. -/
def execWaitSignal (packet : Nat) (s : State) : Host.Outcome State Fault Refusal :=
  .next (match s.hub.packets.find? packet with
    | none => s
    | some p =>
      let n := bitsOf (p.word 3) 32 32
      let s := if n = 0 then s
        else (s.updPacket packet fun p => { p with expiry := some (s.time + 1800 * n) }).after (1800 * n) (.waitSignalTimeout packet) 95
      { s with free := s.free + 1 }.after (1 + Config.delay s.free) (.waitSignalPoll packet) 60)

/-- R435: a read of the signal returns; the next one comes 1,800 cycles later. -/
def execWaitSignalPoll (packet : Nat) (s : State) : Host.Outcome State Fault Refusal :=
  .next (match s.hub.packets.find? packet with
    | none => s
    | some p => if s.signalMet p then s.endPacket packet 0 0 else s.after 1800 (.waitSignalPoll packet) 60)

/-- R435: the timeout, unless a read in this cycle met the condition. -/
def execWaitSignalTimeout (packet : Nat) (s : State) : Host.Outcome State Fault Refusal :=
  .next (match s.hub.packets.find? packet with
    | none => s
    | some p => if p.expiry.isSome then s.endPacket packet 7 0 else s)

/-- R436. -/
def execSignal (packet : Nat) (s : State) : Host.Outcome State Fault Refusal :=
  .next (match s.hub.packets.find? packet with
    | none => s
    | some p => (s.updateSignal (p.word 1) (p.word 3) (p.words.getD 2 0)).endPacket packet 0 0)

/-- Table 18.6. -/
def Packet.record (p : Packet) : List Word64 :=
  let e := p.status
  [BitVec.ofNat 64 (e.status + 2 ^ 16 * e.cause + 2 ^ 32 * e.detail + 2 ^ 48 * bitsOf (p.word 0) 32 16), e.cycle,
   e.place ||| BitVec.ofNat 64 (2 ^ 48 * e.reason), e.value.setWidth 64]

/-- R437: the status record is written, and then the signal falls by 1. -/
def execPacketCompletion (packet : Nat) (s : State) : Host.Outcome State Fault Refusal :=
  .next (match s.hub.packets.find? packet with
    | none => s
    | some p =>
      let s := { s with hub := { s.hub with packets := s.hub.packets.erase packet } }
      let s := if p.word 7 = 0 then s else s.hostPut (p.word 7) p.record
      let s := if p.word 6 = 0 then s else s.updateSignal (p.word 6) 1 1
      s.stopQueue p p.status.status)

/-! ### COPY (R434) -/

/-- R434: the chain runs on the named channel, once that is free. -/
def execCopy (packet : Nat) (s : State) : Host.Outcome State Fault Refusal :=
  .next (match s.hub.packets.find? packet with
    | none => s
    | some p =>
      let tile := partTile (bitsOf (p.word 2) 16 6) (bitsOf (p.word 2) 8 5)
      let ch := bitsOf (p.word 2) 24 2
      if ((s.tile tile).channels.getD ch Channel.stopped).running then s.after 1 (.copy packet) 60
      else s.startChain tile ch
        { record := p.words.getD 1 0, kind := bitsOf (p.word 2) 0 2, token := none, packet := packet, owner := none, q := Queued.none_
          pending := 0, stage := 0, words := [], cause := 0, detail := 0 } 0)

/-! ### LAUNCH (R338, R438) -/

/-- The fields of a LAUNCH packet. -/
def Packet.object (p : Packet) : Nat := bitsOf (p.word 1) 0 32
def Packet.argBytes (p : Packet) : Nat := bitsOf (p.word 1) 48 13
def Packet.mask (p : Packet) : List Nat := (List.range 64).filter (p.word 2).testBit
def Packet.firstPackage (p : Packet) : Nat := bitsOf (p.word 3) 0 14
def Packet.packages (p : Packet) : Nat := bitsOf (p.word 3) 16 14 + 1
def Packet.contexts (p : Packet) : Nat := bitsOf (p.word 3) 32 2 + 1

/-- The launch tiles that a flow entry names (Table 19.4). -/
def FlowEntry.dests (e : FlowEntry) : List Nat :=
  if e.multicast then ((List.range 18).filter e.dest.testBit).map fun j => 18 * (e.source / 18) + j else [e.dest]

/-- The flows of a launch from the entries of its object, one for each number and source context. -/
def flowsOf (l : Launch) (entries : List FlowEntry) : List Flow :=
  let keys := (entries.map fun e => (e.flow, e.source, e.sourceCtx)).eraseDups
  keys.filterMap fun k =>
    let mine := entries.filter fun e => (e.flow, e.source, e.sourceCtx) == k
    mine.head?.map fun e =>
      let dests := e.dests
      { flow := e.flow, source := e.source, sourceCtx := e.sourceCtx, multicast := e.multicast, dests := dests, destCtx := e.destCtx
        slots := mine.map (·.slot), latency := (dests.map (l.latency e.source)).foldl max 0 }

/-- The link port of this package toward a package, and its padding (R337, R345). -/
def State.towardPackage (s : State) (package : Nat) : Nat × Nat :=
  match s.route package with
  | some j => (j, bitsOf (s.reg (0x700 + 8 * j)).toNat 0 16)
  | none => (16, 0)

/-- Whether flow entries break R338 by themselves: an empty mask or one that names its source, two flows of one number and source or
destination context, a departure slot of a tile used twice. -/
def badFlowEntries (entries : List FlowEntry) : Bool :=
  let flows := (entries.map fun e => { e with slot := 0 }).eraseDups
  let sources := flows.map fun e => (e.flow, e.source, e.sourceCtx)
  let ends := flows.flatMap fun e => e.dests.map fun d => (e.flow, d, e.destCtx)
  let departures := entries.map fun e => (e.source, e.slot)
  entries.any (fun e => e.multicast && (e.dest == 0 || e.dest.testBit (e.source % 18))) || sources.eraseDups.length != sources.length ||
    ends.eraseDups.length != ends.length || departures.eraseDups.length != departures.length

/-- R338, R425: whether the flows of a launch are refused. Those and its copies may reach each of its packages. -/
def State.badFlows (s : State) (p : Packet) (l : Launch) (entries : List FlowEntry) : Bool :=
  let used := l.flows.flatMap l.occupied
  let running := (s.hub.launches.filter fun (x : Nat × Launch) => x.2.start.isSome).flatMap fun (x : Nat × Launch) =>
    (x.2.flows.flatMap x.2.occupied).filter fun y => decide (2 ≤ y.2.1)
  let far (f : Flow) : Bool := f.dests.any fun d => (l.anyTile d).1 != (l.anyTile f.source).1
  (entries.any fun e => l.tiles ≤ e.source || (!e.multicast && l.tiles ≤ e.dest) || l.contexts ≤ e.sourceCtx || l.contexts ≤ e.destCtx) ||
    badFlowEntries entries || used.eraseDups.length != used.length || used.any running.contains ||
    used.any (fun x => x.2.1 == 5 && decide (48 ≤ x.2.2)) || (l.flows.any far && !s.aligned) ||
    (List.range p.packages).any fun n => p.firstPackage + n != s.packageId && (s.route (p.firstPackage + n)).isNone

/-- R64: the placement table. Group indices that repeat or reach T_L are refused too, which the list of R64 does not name (DESIGN CHOICE,
log 51). -/
def badPlacement (place : List (Nat × Nat)) (tiles : Nat) : Bool :=
  !place.isEmpty && (place.length != tiles || (place.map (·.1)).eraseDups.length != tiles || (place.map (·.2)).eraseDups.length != tiles ||
    place.any fun x => tiles ≤ x.1 || tiles ≤ x.2)

/-- R103: group 0 of each context against group 0 of the others. -/
def groupsClash (sets : List SetEntry) (contexts : Nat) : Bool :=
  let zero := sets.filter fun e => e.group == 0
  let sync (e : SetEntry) : Bool := e.path == 0 || e.path == 3
  (List.range contexts).any fun a => (List.range a).any fun b => zero.any fun x => zero.any fun y =>
    x.vault == y.vault && (x.write || y.write) && !(sync x && sync y) &&
      max (x.first a) (y.first b) < min (x.first a + x.length) (y.first b + y.length)

/-- The launch that a packet describes. -/
def State.launchOfPacket (s : State) (id : Nat) (p : Packet) (o : CodeObject) (k : Kernel) : Launch :=
  let pkgs := p.packages
  let first := p.firstPackage
  let l : Launch :=
    { partitions := (List.range pkgs).flatMap fun n => p.mask.map fun m => (n, m)
      ordinal := if first ≤ s.packageId && s.packageId < first + pkgs then s.packageId - first else pkgs
      packages := pkgs
      place := (List.range k.place.length).map fun g => ((k.place.find? fun x => x.1 == g).map (·.2)).getD 0
      claimed := [], contexts := p.contexts, deterministic := (p.word 3).testBit 34, trusted := o.trusted, sets := k.sets, levels := k.levels
      variants := k.variants, packet := id, priority := (s.queue p.fn p.queue).priority, order := s.hub.order, object := p.object
      entry := k.entry, centry := if o.cigon.isEmpty then none else some k.centry, argAddr := p.word 4, argBytes := k.argBytes
      seed := p.words.getD 5 0, high := (p.word 3).testBit 35, data := k.data
      banks := k.banks, flows := [], start := none, live := [], ending := none, horizon := 0, delivering := false, far := ⟨0, false, [], false⟩
      toward := (List.range pkgs).map fun n => s.towardPackage (first + n) }
  { l with flows := flowsOf l k.flows }

/-- Whether a mask and packages may not be named by a function's LAUNCH (R12, R14, R426, R433). Beyond the domain are packages past the
last of its 16,384 ids; one without a valid ROUTE entry is refused as R425 has it (DEDUCED, log 3). -/
def State.badPartitions (s : State) (p : Packet) : Bool :=
  p.mask.isEmpty || p.mask.any s.offline ||
    (if p.fn = 0 then p.mask.any s.lentOut
     else p.mask != [p.fn - 1] || !s.belongs (p.fn - 1) || p.firstPackage != s.packageId || p.packages != 1) ||
    decide (16384 < p.firstPackage + p.packages)

/-- R438: the launch, or the detail of its refusal. -/
def State.checkLaunch (s : State) (id : Nat) (p : Packet) : Except Nat Launch :=
  match (s.hub.objects.find? p.object).filter fun o => p.mask.all fun m => o.partitions.contains m && !o.going.contains m with
  | none => .error 0x1201
  | some o =>
    match o.kernels[bitsOf (p.word 1) 32 16]? with
    | none => .error 0x1201
    | some k =>
      let l := s.launchOfPacket id p o k
      let masks (l : Launch) : BitVec 8 := l.banks.foldl (· ||| ·) 0
      if s.badPartitions p then .error 0x1202
      else if k.cmax < p.contexts then .error 0x1203
      else if badPlacement k.place l.tiles then .error 0x1204
      else if (l.deterministic && l.sets.isNone) || (l.sets.any fun t => groupsClash t p.contexts) then .error 0x1205
      else if ((k.banks.drop p.contexts).any (· != 0)) || s.hub.launches.any (fun (x : Nat × Launch) =>
          x.2.start.isSome && (x.2.here.any l.here.contains) && (masks x.2 &&& masks l) != 0) then .error 0x1206
      else if s.badFlows p l k.flows then .error 0x1207
      else if p.argBytes ≠ k.argBytes then .error 0x1208
      else if p.packages ≠ 1 && !s.aligned then .error 0x1209
      else .ok l

/-- The service object (R454). -/
def serviceObject : Nat := 0xFFFFFFFF

/-- The refusal of a service packet (R438, R454). -/
def State.badService (s : State) (p : Packet) : Option Nat :=
  if 2 ≤ bitsOf (p.word 1) 32 16 then some 0x1201
  else if s.badPartitions p then some 0x1202
  else if bitsOf (p.word 3) 32 4 ≠ 0 || p.words.getD 5 0 ≠ 0 then some 0x1203
  else if p.argBytes ≠ 48 then some 0x1208
  else none

/-- R438: a LAUNCH is accepted, or refused with the first detail that applies; those of the service object are R454's. Its start follows
checks of at most 200 cycles, the read of an argument block, which takes the host's latency, and a distribution of at most 300 (R440). -/
def execLaunch (packet : Nat) (s : State) : Host.Outcome State Fault Refusal :=
  .next (match s.hub.packets.find? packet with
    | none => s
    | some p =>
      let s := { s with hub := { s.hub with order := s.hub.order + 1 } }
      if p.object = serviceObject then
        match s.badService p with
        | some d => s.endPacket packet 2 d
        | none => s.now (if bitsOf (p.word 1) 32 16 = 0 then .load packet else .unload packet)
      else
        match s.checkLaunch packet p with
        | .error d => s.endPacket packet 2 d
        | .ok l =>
          let read := if l.argBytes = 0 then 0 else Config.delay (s.free + 1)
          let n := 1 + Config.delay s.free % 200 + read + Config.delay (s.free + 2) % 301
          let s := { s with free := s.free + 3, hub := { s.hub with launches := s.hub.launches.put packet l } }
          s.after n (.launchStart packet) 5)

/-! ### The start (R59, R335, R439, R448, R449) -/

/-- A context at its first bundle (R59), or its first Cigon instruction (R462). -/
def Launch.context (l : Launch) (home num clock : Nat) (cycle : Word64) (band : Nat) : Ctx :=
  let bit (x : Bool) (n : Nat) : Nat := if x then 2 ^ n else 0
  let csr : List (Nat × Word64) :=
    [(0x10, BitVec.ofNat 64 (bit l.deterministic 2 + bit l.high 4)), (0x30, l.seed), (0x40, BitVec.ofNat 64 (bit (band != 0) 9)),
     (0x63, (l.banks.getD num 0).setWidth 64), (0x69, BitVec.ofNat 64 (1800 + 5400 * 2 ^ 16 + 3600 * 2 ^ 32)), (0x71, cycle)]
  { launch := l.packet, num := num, pc := l.entry, remainder := 0
    regs := { g := [(if l.centry.isSome then 10 else 1, BitVec.ofNat 64 Config.argBase)], gPoison := 0, p := 1, h := [], hPoison := 0, v := [], vPoison := 0
              m := (List.range 4).map fun k => (k, BitVec.allOnes 64), z := [], csr := csr.foldl (fun t x => t.set x.1 x.2 0) [] }
    writes := [], tokens := [], ports := [], outRows := [], queues := [], flights := [], last := [], seq := 0, sched := 0, base := clock - 1
    stopping := none, eret := none, resume := none, skips := [], again := [], wait := none, fences := [], pending := [], recent := [], undo := []
    group := 0, slicePos := 0, home := home, dev := [], readyFor := 0, release := none, yielded := false, take := none, away := false
    lost := none, episode := none, dispatched := 0, attached := false, heldByDebug := false, stepPending := false, haltRequest := false
    passBreak := false, commands := [], sf := none, timed := none, cigon := l.centry.map Cigon.start }

/-- Puts the contexts of a launch on one of its tiles: argument block, data records, contexts in free places, the place of their number
first. -/
def State.startTile (s : State) (lid : Nat) (l : Launch) (home tile : Nat) : State :=
  let args := s.read (hostKey l.argAddr) l.argBytes
  let s := s.write (sramKey tile Config.argBase) args false
  let s := l.data.foldl (fun (s : State) x => s.write (sramKey tile x.1) x.2 false) s
  let s := s.updTile tile fun t => { t with lost := t.lost.erase lid, begun := t.begun.filter (· != lid) }
  (List.range l.contexts).foldl (fun (s : State) n =>
    match s.freePlace tile (n :: [0, 1, 2, 3]) with
    | some p => s.putCtx tile p (l.context home n (s.clock tile) s.cycle (s.vault tile).measured)
    | none => s) s

/-- Whether another launch goes first: one that its queue accepted before it (R431), or one of higher priority that waits for one of its
tiles (R442). -/
def State.goesBefore (s : State) (l : Launch) (tiles : List Nat) (x : Launch) : Bool :=
  let queue (y : Launch) : Option (Nat × Nat) := (s.hub.packets.find? y.packet).map fun p => (p.fn, p.queue)
  x.start.isNone &&
    ((decide (x.order < l.order) && (queue x).isSome && queue x == queue l) ||
      (x.tried && decide (l.priority < x.priority) && ((List.range x.tiles).filterMap x.localTile).any tiles.contains))

/-- Whether an accepted launch may start now (R22, R335, R431, R439, R442, R491). That the other packages of one are ready is a free
value. -/
def State.mayStart (s : State) (l : Launch) : Bool :=
  let tiles := (List.range l.tiles).filterMap l.localTile
  let first (x : Nat × Ctx) : Bool := 4 ≤ x.1 && (s.launchOf x.2).any fun y => decide (l.priority ≤ y.priority)
  s.cycle.toNat % 64 == 0 && !s.hub.stopped && s.hub.waits == 0 && s.hub.halting.isNone && !(s.hub.moving.any fun t => l.here.contains (partOf t)) &&
    !(s.hub.launches.any fun x => s.goesBefore l tiles x.2) &&
    (l.packages == 1 || Config.othersReady l.packet s.cycle) && tiles.all fun t => s.shortOf t l.contexts == 0 && !(s.tileCtxs t).any first

/-- R439, R335: the launch starts in a cycle that is a multiple of 64, or waits, and may take victims for the contexts that it lacks. -/
def execLaunchStart (launch : Nat) (s : State) : Host.Outcome State Fault Refusal :=
  .next (match s.hub.launches.find? launch with
    | none => s
    | some l =>
      if l.start.isSome then s
      else if s.mayStart l then
        let places := (List.range l.tiles).filterMap fun k => (l.localTile k).map fun t => (k, t)
        let l' := { l with
          start := some s.cycle, live := places.flatMap fun x => (List.range l.contexts).map fun n => (x.1, n) }
        let s := { s with hub := { s.hub with launches := s.hub.launches.put launch l' } }
        (places.foldl (fun (s : State) x => s.startTile launch l x.1 x.2) s).takeFields launch l.seed l.here
      else
        let s := { s with hub := { s.hub with launches := s.hub.launches.put launch { l with tried := l.tried || s.cycle.toNat % 64 == 0 } } }
        let s := s.after (64 - s.cycle.toNat % 64) (.launchStart launch) 5
        if s.hub.stopped || s.hub.waits != 0 then s else s.now (.preemptVictims launch))

/-! ### The end (R78, R357, R394, R415, R437) -/

/-- Takes a launch off the package: its barrier objects, pages, slots and fields are free, its beats gone. -/
def State.finishLaunch (s : State) (lid : Nat) : State :=
  let s := (s.endYarrow lid).endSorrel lid
  let s := s.tiles.foldl (fun s (kt : Nat × Tile) => s.dropBeats kt.1 fun b => b.launch == lid) s
  { s with
    tiles := s.tiles.map fun (kt : Nat × Tile) => (kt.1, { kt.2 with
      barriers := kt.2.barriers.filter fun (b : Nat × Barrier) => b.2.owner != some lid
      lost := kt.2.lost.erase lid
      begun := kt.2.begun.filter (· != lid) })
    hub := { s.hub with launches := s.hub.launches.erase lid } }.dropMessages lid

/-- Whether a launch still has copies on their way to their homes. -/
def State.copying (s : State) (lid : Nat) : Bool := s.copies.any fun o => (o.2.owner.map (·.launch)) == some lid

/-- R78, R437: the launch completes, once every write of it has reached its home. -/
def execLaunchCompletion (launch : Nat) (s : State) : Host.Outcome State Fault Refusal :=
  .next (match s.hub.launches.find? launch with
    | none => s
    | some l =>
      if !l.live.isEmpty || (l.start.isNone && l.ending.isNone) || (l.start.isSome && l.packages != 1 && !l.far.halted) then s
      else if s.copying launch then s.after 1 (.launchCompletion launch)
      else
        let status (p : Packet) : Ending := match l.ending with
          | some e => { e with cycle := if p.status.cycle = 0 then s.cycle else p.status.cycle }
          | none => p.status
        let s := s.updPacket l.packet fun p => { p with status := status p }
        let s := l.here.foldl (fun (s : State) part => s.count (partTile part 0) 15 1) s
        let s := s.finishLaunch launch
        match s.hub.packets.find? l.packet with
        | some p => (s.stopQueue p p.status.status).now (.packetCompletion l.packet)
        | none => s)

/-! ### The window (R422) -/

/-- The home that an offset of the window names. -/
def State.windowHome (s : State) (offset : Nat) : Home := homeOf (s.reg 0x30 + BitVec.ofNat 64 offset)

/-- Checks an access through the window and makes it; an access that R143 or R105 keeps out is refused. What another package answers is
free (log 3). -/
def State.windowAccess (s : State) (offset n : Nat) (rd wr sync : Bool) (f : Home → State → State) : State :=
  let h := s.windowHome offset
  if 2 ^ 34 < offset + n || (s.badHome h n).isSome then s.answers 1 []
  else if !s.isHere h then
    State.answers { s with free := s.free + 1 } 0 (if rd then (List.range n).map (Config.farByte s.free) else [])
  else if inSaveArea h n || s.homeRefuses none h n rd wr sync || (rd && h.space < 2 && s.poisoned (s.keyOf h) n) then s.answers 2 []
  else f h s

def execWindowRead (offset size : Nat) (s : State) : Host.Outcome State Fault Refusal :=
  .next (s.windowAccess offset size true false false fun h s => s.answers 0 (s.bytesAt h size))

def execWindowWrite (offset : Nat) (data : List Byte) (s : State) : Host.Outcome State Fault Refusal :=
  .next (s.windowAccess offset data.length false true false fun h s => (s.writeHome h data []).answers 0 [])

/-- An AtomicOp on an aligned word of 4 or 8 bytes; any other is aborted, and one on host memory that the host does not complete (R330). -/
def State.windowAtomic (s : State) (offset size : Nat) (f : Nat → Option Nat) : State :=
  if !(size == 4 || size == 8) || offset % size ≠ 0 then s.answers 2 []
  else if (s.windowHome offset).space = 3 && !(s.reg 0x28).getLsbD (if size = 8 then 1 else 0) then s.answers 2 []
  else s.windowAccess offset size true true true fun h s =>
    let old := s.bytesAt h size
    (match f (leNat old) with
      | some v => s.writeHome h (leBytes size v) []
      | none => s).answers 0 old

def execWindowFetchadd (offset size : Nat) (value : Word64) (s : State) : Host.Outcome State Fault Refusal :=
  .next (s.windowAtomic offset size fun old => some (accResult 0 (if size = 8 then 1 else 0) old value.toNat))

def execWindowSwap (offset size : Nat) (value : Word64) (s : State) : Host.Outcome State Fault Refusal :=
  .next (s.windowAtomic offset size fun _ => some value.toNat)

def execWindowCas (offset size : Nat) (compare value : Word64) (s : State) : Host.Outcome State Fault Refusal :=
  .next (s.windowAtomic offset size fun old => if old = compare.toNat % 2 ^ (8 * size) then some value.toNat else none)

/-! ### Function Level Reset (R427) -/

/-- Ends the launches of a partition without a word to the host. A chain stops after the record it is at: what started it is gone (R148,
R317). -/
def State.silence (s : State) (part : Nat) : State :=
  let lids := (s.hub.launches.filter fun (l : Nat × Launch) => l.2.here.contains part).map (·.1)
  let s := (s.allCtxs.filter fun x => lids.contains x.2.2.launch).foldl (fun (s : State) x => s.killContext x.1 x.2.1 4 0 0) s
  lids.foldl (fun (s : State) l => s.finishLaunch l) s

/-- Drops the packets and queues of a function. -/
def State.dropFunction (s : State) (fn : Nat) : State :=
  { s with hub := { s.hub with
    packets := s.hub.packets.filter fun (p : Nat × Packet) => p.2.fn != fn
    queues := s.hub.queues.filter fun (q : Nat × HostQueue) => q.1 / 8 != fn } }

/-- A reset of the PF: every function's, and the package registers. -/
def State.resetAll (s : State) : State :=
  let s := (List.range 64).foldl (fun (s : State) p => let s := s.silence p; if s.lentOut p then s.clearCounters p else s) s
  let s := (List.range 65).foldl State.dropFunction s
  { s with hub := { s.hub with regs := [], pkgid := 0 } }

/-- R427, R475: a VF, with the counters of the partition that it holds; the PF does this for every function, and its registers take their
reset values too. -/
def execFunctionLevelReset (fn : Nat) (s : State) : Host.Outcome State Fault Refusal :=
  .next (
    if fn = 0 then s.resetAll
    else if 64 < fn then s
    else
      let s := (s.silence (fn - 1)).dropFunction fn
      if s.lentOut (fn - 1) then s.clearCounters (fn - 1) else s)

end Sys2Proof.Machine
end

