-- ==== Sys2Proof/Machine/Loading.lean ====
section
/-! DEFINITION. Code objects (19_objects R444-R460): the object and its checks, LOAD, UNLOAD, and the microcode store. The layout of a
translated body is a free function (log 10). -/

namespace Sys2Proof.Machine

/-! ### The object (R444-R449) -/

/-- Little-endian numbers of an object, by offset and size. -/
abbrev Reader := Nat → Nat → Nat

/-- A section: kind, optional bit, offset, bytes, entries. -/
structure Section where
  kind : Nat
  optional : Bool
  off : Nat
  bytes : Nat
  count : Nat
  deriving DecidableEq, Repr

/-- The section table. -/
def sectionsOf (rd : Reader) : List Section :=
  (List.range (rd 0x08 4)).map fun i =>
    let a := 0x40 + 32 * i
    ⟨bitsOf (rd a 8) 0 16, (rd a 8).testBit 16, rd (a + 8) 8, rd (a + 16) 8, rd (a + 24) 4⟩

/-- Bytes of an entry of the kinds that have entries of one size (Table 19.2). -/
def entryBytes (kind : Nat) : Nat := [0, 64, 8, 72, 8, 16, 8, 8, 8, 0, 0, 0, 0, 8].getD kind 0

/-- The section of a kind. -/
def sectionOf (l : List Section) (kind : Nat) : Option Section := l.find? fun x => x.kind == kind

/-- Whether two ranges, each a start and a length, have a byte in common. -/
def rangesMeet (a m b n : Nat) : Bool := decide (max a b < min (a + m) (b + n))

/-- Whether the native code or its bundle map has not the form of Table 19.2. -/
def badNative (rd : Reader) (l : List Section) : Bool :=
  match sectionOf l 9, sectionOf l 10 with
  | some code, some map =>
    code.bytes < 8 || code.bytes % 4 != 0 || rd code.off 2 % 4 != 0 || bitsOf (rd code.off 8) 16 48 != 0 ||
      map.bytes != ceilDiv ((code.bytes - 8) / 4) 8
  | _, _ => false

/-- Whether the Cigon map has an entry with reserved bits, or the strings do not end with a zero byte (Table 19.2). -/
def badMapOrStrings (rd : Reader) (l : List Section) : Bool :=
  (sectionOf l 13).any (fun x => (List.range x.count).any fun i => bitsOf (rd (x.off + 8 * i) 8) 48 16 != 0) ||
    (sectionOf l 14).any fun x => x.bytes != 0 && rd (x.off + x.bytes - 1) 1 != 0

/-- Why a header or section table is malformed. -/
def badHeader (rd : Reader) (size : Nat) : Bool :=
  let n := rd 0x08 4
  let flags := rd 0x0C 4
  let l := sectionsOf rd
  let has (k : Nat) : Bool := (sectionOf l k).isSome
  rd 0 4 != 0x4C53434F || rd 4 2 != 1 || decide (4 ≤ flags) || n == 0 || decide (64 < n) || rd 0x20 8 != size ||
    rd 0x28 8 != 0 || rd 0x30 8 != 0 || rd 0x38 8 != 0 || (!flags.testBit 0 && (rd 0x10 8 != 0 || rd 0x18 8 != 0)) ||
    flags.testBit 0 != has 9 || flags.testBit 0 != has 10 || flags.testBit 1 != has 12 ||
    (List.range n).any (fun i => bitsOf (rd (0x40 + 32 * i) 8) 17 47 != 0 || rd (0x40 + 32 * i + 28) 4 != 0) ||
    l.any (fun x => x.off % 64 != 0 || x.off < 0x40 + 32 * n || size < x.off + x.bytes ||
      (entryBytes x.kind != 0 && x.bytes != entryBytes x.kind * x.count)) || badNative rd l || badMapOrStrings rd l ||
    (List.range l.length).any fun i => (List.range i).any fun j =>
      match l[i]?, l[j]? with
      | some x, some y => rangesMeet x.off x.bytes y.off y.bytes || (x.kind == y.kind && !x.optional && !y.optional)
      | _, _ => false

/-- A loop table as levels in walk order, or none where R61 refuses it. -/
def loopTable (rd : Reader) (a : Nat) : Option (List Level) :=
  let h := rd a 8
  let n := bitsOf h 0 3 + 1
  let perm := (List.range 8).map fun j => bitsOf h (8 + 3 * j) 3
  let walk := perm.take n
  let qword (k : Nat) : Nat := rd (a + 8 + 8 * k) 8
  let level (k : Nat) : Level := { extent := bitsOf (qword k) 0 32, step := signed 16 (bitsOf (qword k) 32 16), kind := bitsOf (qword k) 48 2 }
  let l := walk.map level
  let kinds := l.map (·.kind)
  let spatial := (kinds.dropWhile (· == 0)).reverse.dropWhile (· == 0)
  let outer := extents (l.takeWhile fun v => v.kind == 0)
  let width := extents (l.filter fun v => v.kind != 0)
  let rounds := if spatial.isEmpty then 1 else outer
  if bitsOf h 32 32 ≠ 0 || bitsOf h 3 5 ≠ 0 || walk.eraseDups.length ≠ n || walk.any (n ≤ ·) || (perm.drop n).any (· != 0) ||
      walk.any (fun k => qword k / 2 ^ 50 != 0 || bitsOf (qword k) 0 32 == 0) ||
      (List.range 8).any (fun k => n ≤ k && qword k != 0) || spatial.contains 0 ||
      (spatial.zip (spatial.drop 1)).any (fun x => x.2 < x.1) || 2 ^ 32 ≤ width || 2 ^ 48 < rounds * width then none
  else some l

/-- A set entry (Table 4.5), or none where R101 refuses it. -/
def setEntry (v : Nat) : Option SetEntry :=
  let e : SetEntry :=
    { perContext := v.testBit 56, group := bitsOf v 52 4, path := bitsOf v 49 3, write := v.testBit 48, vault := v.testBit 47
      base := bitsOf v 24 23, length := bitsOf v 0 24 }
  let last := e.first 3 + e.length
  if v / 2 ^ 57 ≠ 0 || e.path = 7 || e.length = 0 || 2 ^ 23 < e.length ||
      (if e.vault then decide (2 ^ 23 < last) || !(e.path == 2 || e.path == 3) else decide (Config.windowBase / 64 < last)) then none
  else some e

/-- Whether two entries of a group conflict within one context, or a group has more than eight entries of one path and direction. -/
def badSets (l : List SetEntry) : Bool :=
  let sync (e : SetEntry) : Bool := e.path == 0 || e.path == 3
  let same (x y : SetEntry) : Bool := x.group == y.group && x.path == y.path && x.write == y.write
  l.any (fun x => decide (8 < (l.filter (same x)).length)) ||
    l.any fun x => l.any fun y => x.group == y.group && x.path != y.path && x.vault == y.vault && (x.write || y.write) && !(sync x && sync y) &&
      (List.range (if x.perContext || y.perContext then 4 else 1)).any fun n =>
        max (x.first n) (y.first n) < min (x.first n + x.length) (y.first n + y.length)

/-- Whether the argument entries of a kernel break R448. -/
def badArguments (l : List Nat) (bytes : Nat) : Bool :=
  let off (v : Nat) : Nat := bitsOf v 0 16
  let size (v : Nat) : Nat := bitsOf v 16 8
  l.any (fun v => !([4, 8, 32].contains (size v)) || 4 ≤ bitsOf v 24 8 || bytes < off v + size v || off v % max 1 (size v) != 0) ||
    (List.range l.length).any fun i => (List.range i).any fun j =>
      match l[i]?, l[j]? with
      | some x, some y => rangesMeet (off x) (size x) (off y) (size y)
      | _, _ => false

/-- The entries that let every context read its arguments on path SC (R448). -/
def argumentEntries (bytes : Nat) : List SetEntry :=
  if bytes = 0 then []
  else (List.range 16).map fun g =>
    { perContext := false, group := g, path := 0, write := false, vault := false, base := Config.argBase / 64, length := ceilDiv bytes 64 }

/-- The data records of a section: kernel plus 1, address, bytes; none where a record is malformed (R449). -/
def dataRecords (rd : Reader) (limit : Nat) : Nat → Nat → Option (List (Nat × Nat × Nat × Nat))
  | 0, _ => some []
  | fuel + 1, a =>
    if limit ≤ a then some []
    else
      let h := rd a 8
      let n := bitsOf h 32 20
      let next := a + 8 + ceilTo n 8
      if bitsOf h 20 12 ≠ 0 || limit < next || Config.windowBase < bitsOf h 0 20 + n then none
      else (dataRecords rd limit fuel next).map fun r => (bitsOf h 52 12, bitsOf h 0 20, n, a + 8) :: r

/-- Whether a variant entry names only starts of bundles. -/
def variantsOf (v : Nat) : List (Option Nat) := (List.range 3).map fun b => if v.testBit (48 + b) then some (bitsOf v (16 * b) 16) else none

/-- One kernel, or none where a table is refused with 0x1308. -/
def kernelAt (rd : Reader) (l : List Section) (k : Nat) : Option Kernel :=
  let base (kind : Nat) : Nat := ((sectionOf l kind).map (·.off)).getD 0
  let count (kind : Nat) : Nat := ((sectionOf l kind).map (·.count)).getD 0
  let a := base 1 + 64 * k
  let f (q lo n : Nat) : Nat := bitsOf (rd (a + 8 * q) 8) lo n
  let argBytes := f 1 0 16
  let entries (kind first n : Nat) : List Nat := (List.range n).map fun i => rd (base kind + 8 * (first + i)) 8
  let args := entries 2 (f 1 16 16) (f 1 32 16)
  let sets := (entries 4 (f 2 16 16) (f 2 32 16)).mapM setEntry
  let place := entries 6 (f 3 0 32) (f 3 32 32)
  let flowAt (i : Nat) : Nat := base 5 + 16 * (f 6 0 32 + i)
  let flow (i : Nat) : FlowEntry :=
    let x := rd (flowAt i) 8
    let y := rd (flowAt i + 8) 8
    { flow := bitsOf x 0 6, slot := bitsOf x 6 6, multicast := x.testBit 12, sourceCtx := bitsOf x 13 2, destCtx := bitsOf x 15 2
      source := bitsOf y 0 32, dest := bitsOf y 32 32 }
  let flows := (List.range (f 6 32 32)).map flow
  let bank := if f 4 0 16 = 0xFFFF then 0 else rd (base 7 + 8 * f 4 0 16) 8
  let banks := (List.range 4).map fun c => BitVec.ofNat 8 (bitsOf bank (8 * c) 8)
  let variant := if f 4 16 16 = 0xFFFF then 0 else rd (base 8 + 8 * f 4 16 16) 8
  let outside (kind first n : Nat) : Bool := decide (n ≠ 0) && decide (count kind < first + n)
  if f 0 48 16 ≠ 0 || f 1 48 16 ≠ 0 || f 2 48 16 ≠ 0 || f 5 2 62 ≠ 0 || f 7 0 64 ≠ 0 || 4096 < argBytes || argBytes % 8 ≠ 0 ||
      count 3 ≤ f 2 0 16 || outside 2 (f 1 16 16) (f 1 32 16) || outside 4 (f 2 16 16) (f 2 32 16) || outside 6 (f 3 0 32) (f 3 32 32) ||
      outside 5 (f 6 0 32) (f 6 32 32) || (f 4 0 16 ≠ 0xFFFF && count 7 ≤ f 4 0 16) || (f 4 16 16 ≠ 0xFFFF && count 8 ≤ f 4 16 16) ||
      (sectionOf l 12).any (fun x => decide (x.bytes ≤ f 4 32 32)) || (sectionOf l 14).any (fun x => decide (x.bytes ≤ f 0 0 32)) ||
      (place.map fun v => bitsOf v 32 32).eraseDups.length != place.length || badFlowEntries flows ||
      badArguments args argBytes || bank / 2 ^ 32 ≠ 0 || variant / 2 ^ 51 ≠ 0 ||
      (List.range 4).any (fun i => (List.range i).any fun j => banks.getD i 0 &&& banks.getD j 0 != 0) ||
      (List.range (f 6 32 32)).any (fun i => bitsOf (rd (flowAt i) 8) 17 47 != 0 || ((flow i).multicast && decide (2 ^ 18 ≤ (flow i).dest))) then
    none
  else
    match loopTable rd (base 3 + 72 * f 2 0 16), sets with
    | some levels, some sets =>
      let overArgs (e : SetEntry) : Bool := e.write && !e.vault && (List.range 4).any fun n =>
        rangesMeet (e.first n) e.length (Config.argBase / 64) (ceilDiv argBytes 64)
      if badSets sets || sets.any overArgs then none
      else some
        { entry := f 0 32 16, centry := f 4 32 32, argBytes := argBytes, cmax := f 5 0 2 + 1, levels := levels
          sets := if sets.isEmpty then none else some (sets ++ argumentEntries argBytes), flows := flows
          place := place.map fun v => (bitsOf v 0 32, bitsOf v 32 32), banks := banks, variants := variantsOf variant, data := [] }
    | _, _ => none

/-- The syllables of the native code that the bundle map marks, by code address. -/
def nativeStarts (rd : Reader) (l : List Section) : List Nat :=
  match sectionOf l 9, sectionOf l 10 with
  | some code, some map =>
    ((List.range ((code.bytes - 8) / 4)).filter fun i => (rd (map.off + i / 8) 1).testBit (i % 8)).map fun i => bitsOf (rd code.off 8) 0 16 + 4 * i
  | _, _ => []

/-- Whether every variant of the kernels is a bundle start of the native code, if there is any (R175). -/
def variantsStart (rd : Reader) (l : List Section) (ks : List Kernel) : Bool :=
  let starts := nativeStarts rd l
  (sectionOf l 9).isNone || ks.all fun k => k.variants.all fun v => v.all starts.contains

/-- The kernels of an object with their data, or the detail of its refusal (R446). Every loop table is one that R61 takes, whether a
kernel names it or not. -/
def kernelsOf (rd : Reader) (bytes : Nat → Nat → List Byte) (size : Nat) : Except Nat (List Kernel) :=
  let l := sectionsOf rd
  let data := (sectionOf l 11).map fun x => dataRecords rd (x.off + x.bytes) x.bytes x.off
  if size < 0x40 || badHeader rd size then .error 0x1300
  else if l.any fun x => !x.optional && !(1 ≤ x.kind && x.kind ≤ 14) then .error 0x1301
  else if 1 < rd 6 2 then .error 0x1302
  else if (sectionOf l 3).any fun x => (List.range x.count).any fun i => (loopTable rd (x.off + 72 * i)).isNone then .error 0x1308
  else
    match (List.range (((sectionOf l 1).map (·.count)).getD 0)).mapM (kernelAt rd l) with
    | none => .error 0x1308
    | some ks =>
      if !variantsStart rd l ks then .error 0x1308
      else
      match data.getD (some []) with
      | none => .error 0x130B
      | some records =>
        let serves (k : Nat) (r : Nat × Nat × Nat × Nat) : Bool := r.1 == 0 || r.1 == k + 1
        let hits (n : Nat) (r : Nat × Nat × Nat × Nat) : Bool := rangesMeet Config.argBase n r.2.1 r.2.2.1
        if records.any (fun r => ks.length < r.1) ||
            (List.range ks.length).any fun k => records.any fun r => serves k r && hits ((ks[k]?.map (·.argBytes)).getD 0) r then .error 0x130B
        else .ok (ks.mapIdx fun k x => { x with data := (records.filter (serves k)).map fun r => (r.2.1, bytes r.2.2.2 r.2.2.1) })

/-! ### The body (R450, R453, R455, R456) -/

/-- What is loaded into code SRAM: origin, syllables, offsets of its bundle starts, and where a translator made it, its Cigon code. -/
structure Body where
  origin : Nat
  words : List Word32
  starts : List Nat
  cigon : Option (List CigonLine)
  deriving DecidableEq, Repr

/-- R453. -/
def State.deviceHash (s : State) : BitVec 128 :=
  BitVec.ofNat 128 (leNat ((sha256 (leBytes 2 0x1152 ++ leBytes 1 Config.stepping.toNat ++ leBytes 4 s.hub.microcode.toNat)).take 16))

/-- The syllable indices of the headers that parsing finds from one on, to the end of the body. -/
def headersFrom (words : List Word32) : Nat → Nat → List Nat
  | 0, _ => []
  | fuel + 1, i =>
    match words[i]? with
    | none => []
    | some w => i :: headersFrom words fuel (i + bundleLength w)

/-- The headers that parsing finds from the entries of kernels. -/
def Body.headers (b : Body) (entries : List Nat) : List Nat :=
  (entries.flatMap fun e => if e < b.origin then [] else headersFrom b.words b.words.length ((e - b.origin) / 4)).foldl NatSet.insert []

/-- The op syllables with opcodes from 0x38 up in the bundles of a body at the indices given: index, slot, opcode (R456). -/
def Body.extensions (b : Body) (headers : List Nat) : List (Nat × Nat × Nat) :=
  headers.flatMap fun i =>
    match b.words[i]? with
    | none => []
    | some w =>
      let first := if (fld w 29 3).toNat = 2 then 2 else 1
      if (fld w 29 3).toNat = 1 then []
      else ((presentSlots (fld w 22 7)).mapIdx fun k slot => (i + first + k, slot)).filterMap fun x =>
        (b.words[x.1]?).bind fun o => if 0x38 ≤ (fld o 26 6).toNat then some (x.1, x.2, (fld o 26 6).toNat) else none

/-- The native body of an object (R450), its form checked already. -/
def nativeBody (rd : Reader) (l : List Section) : Body :=
  match sectionOf l 9 with
  | some code =>
    let origin := bitsOf (rd code.off 8) 0 16
    { origin := origin, words := (List.range ((code.bytes - 8) / 4)).map fun i => BitVec.ofNat 32 (rd (code.off + 8 + 4 * i) 4)
      starts := (nativeStarts rd l).map fun a => (a - origin) / 4, cigon := none }
  | none => { origin := 0, words := [], starts := [], cigon := none }

/-- Whether the start bits of a body are not those of the headers that parsing finds from the entries of its kernels (R450). -/
def Body.badMap (b : Body) (entries : List Nat) : Bool :=
  entries.any (fun e => e % 4 != 0 || e < b.origin || b.origin + 4 * b.words.length ≤ e) || b.headers entries != b.starts

/-- The result codes of R457: the entries of a refusal, or the body with its kernels. -/
structure Refused where
  detail : Nat
  entries : List Nat := []
  deriving DecidableEq, Repr

/-- The entries that name the extension opcodes of a body's bundles, parsed from the entries of its kernels (R456). The offset counts the
first qword of the section (log 10). -/
def State.extensionEntries (s : State) (b : Body) (entries : List Nat) (cigon : Bool) : List Nat :=
  (b.extensions (b.headers entries)).map fun x =>
    let known := s.hub.entries.any fun e => e.1 == x.2.1 && e.2.1 == x.2.2 % 8
    8 + 4 * x.1 + 2 ^ 32 * x.2.2 + 2 ^ 38 * x.2.1 + 2 ^ 48 * (if cigon then 1 else if known then 2 else 3)

/-- The kernels of a translated body: their entries and variants, each a bundle of it. -/
def translatedKernels (ks : List Kernel) (entries variants : List Nat) (place : Nat → Nat) : List Kernel :=
  ks.mapIdx fun k x => { x with
    entry := place (entries.getD k 0)
    variants := (List.range 3).map fun b => (variants[3 * k + b]?).map place }

/-- The translated body of a Cigon form with its kernels, or the offsets refused (R456, R470, R471). One that would hold an extension opcode,
which R456 rules out, is refused as a whole (DEDUCED, log 10). -/
def State.translated (s : State) (rd : Reader) (image : List Byte) (ks : List Kernel) : Except Refused (Body × List Kernel) :=
  let l := sectionsOf rd
  let bytes (x : Section) : List Byte := (image.drop x.off).take x.bytes
  let code := ((sectionOf l 12).map bytes).getD []
  let lines := cigonLines 0 (wordsOf code)
  let refused := cigonRefused lines ++ (if code.length % 4 = 0 then [] else [code.length / 4 * 4])
  if !refused.isEmpty then .error ⟨0x1305, refused⟩
  else
    let kept := (l.filter fun x => [1, 2, 3, 4, 5, 6, 7, 8, 11, 12].contains x.kind).map fun x => (x.kind, bytes x)
    let (origin, words, starts, entries, variants, places) := Config.translate kept s.deviceHash
    let starts := starts.filter (· < words.length)
    let place := bundleAddr origin starts
    let body : Body := ⟨origin, words, starts, some (cigonTable (lines.map (·.1)) fun i => place (places.getD i 0))⟩
    if (body.extensions starts).isEmpty then .ok (body, translatedKernels ks entries variants place) else .error ⟨0x1305, []⟩

/-- R455 steps 3 to 5: the body and the kernels. -/
def State.chooseBody (s : State) (rd : Reader) (image : List Byte) (ks : List Kernel) (force trusted : Bool) (parts : List Nat) :
    Except Refused (Body × List Kernel) :=
  let l := sectionsOf rd
  let flags := rd 0x0C 4
  let same := BitVec.ofNat 128 (rd 0x10 16) == s.deviceHash
  let chosen : Except Refused (Body × List Kernel) :=
    if flags.testBit 0 && same && !force then
      .ok (nativeBody rd l, ks)
    else if flags.testBit 1 then s.translated rd image ks
    else .error ⟨0x1304, []⟩
  match chosen with
  | .error r => .error r
  | .ok (b, ks) =>
    let entries := ks.map (·.entry)
    let ext := if trusted || b.cigon.isSome then [] else s.extensionEntries b entries (flags.testBit 1)
    let overlap := s.hub.objects.any fun (o : Nat × CodeObject) => (o.2.partitions.any parts.contains) &&
      decide (o.2.origin < b.origin + 4 * b.words.length) && decide (b.origin < o.2.origin + 4 * o.2.syllables)
    if !ext.isEmpty then .error ⟨0x1303, ext⟩
    else if 0x10000 < b.origin + 4 * b.words.length || overlap then .error ⟨0x1306, []⟩
    else if b.cigon.isNone && b.badMap entries then .error ⟨0x1300, []⟩
    else .ok (b, ks)

/-! ### LOAD (R455, R457) -/

/-- The tiles of partitions. -/
def tilesOf (parts : List Nat) : List Nat := parts.flatMap fun p => (List.range 18).map (partTile p)

/-- The first object id that no resident object holds. -/
def freeId : Nat → Nat → Table CodeObject → Nat
  | 0, n, _ => n
  | fuel + 1, n, t => if (Table.find? t n).isSome then freeId fuel (n + 1) t else n

/-- Writes the code of a body, with its start bits, to the tiles of partitions. -/
def State.putCode (s : State) (b : Body) (parts : List Nat) : State :=
  (tilesOf parts).foldl (fun (s : State) t =>
    { s with
      code := s.code.writeN (codeKey t b.origin) (b.words.flatMap fun w => leBytes 4 w.toNat)
      starts := b.starts.foldl (fun l i => NatSet.insert l (codeKey t (b.origin + 4 * i))) s.starts }) s

/-- A service argument. -/
def State.serviceArg (s : State) (p : Packet) (k : Nat) : Nat := (s.hostWord (p.word 4 + 8 * k)).toNat

/-- Writes the result buffer of a service packet: what does not fit is dropped. -/
def State.putResult (s : State) (p : Packet) (id result : Nat) (entries : List Nat) : State :=
  let l := (id + 2 ^ 32 * result + 2 ^ 48 * entries.length % 2 ^ 64) :: entries
  s.hostPut (s.serviceArg p 3) ((l.map (BitVec.ofNat 64)).take (s.serviceArg p 4 / 8))

/-- Whether the arguments of a service packet break Table 19.5; k is the qword of its flags. -/
def State.badServiceArgs (s : State) (p : Packet) (k : Nat) : Bool :=
  s.serviceArg p k / (if k = 2 then 4 else 2) ≠ 0 || s.serviceArg p 5 ≠ 0 || !hostAddr (s.serviceArg p 3) || s.serviceArg p 4 < 8

/-- Ends a service packet after a number of cycles of its own. -/
def State.endService (s : State) (packet status detail : Nat) : State :=
  match s.hub.packets.find? packet with
  | none => s
  | some p =>
    let d := s.updPacket packet fun p => { p with status := { p.status with cycle := s.cycle, status := status, detail := detail } }
    ({ d with free := d.free + 1 }.stopQueue p status).after (1 + Config.delay d.free) (.packetCompletion packet) 60

/-- R455. -/
def State.loadObject (s : State) (p : Packet) : Except Refused (Body × List Kernel) :=
  let a := s.serviceArg p 0
  let size := s.serviceArg p 1
  let flags := s.serviceArg p 2
  let rd : Reader := fun off n => leNat (s.read (hostKey (a + off)) n)
  if flags.testBit 0 && p.fn ≠ 0 then .error ⟨0x1307, []⟩
  else if s.badServiceArgs p 2 || a % 64 ≠ 0 || 2 ^ 47 ≤ a + size then .error ⟨0x1300, []⟩
  else
    match kernelsOf rd (fun off n => s.read (hostKey (a + off)) n) size with
    | .error d => .error ⟨d, []⟩
    | .ok ks => s.chooseBody rd (s.read (hostKey a) size) ks (flags.testBit 1) (flags.testBit 0) p.mask

def execLoad (packet : Nat) (s : State) : Host.Outcome State Fault Refusal :=
  .next (match s.hub.packets.find? packet with
    | none => s
    | some p =>
      match s.loadObject p with
      | .error r => (s.putResult p 0 0x10 r.entries).endService packet 2 r.detail
      | .ok (b, ks) =>
        let id := freeId (s.hub.objects.length + 1) 1 s.hub.objects
        let o : CodeObject :=
          { partitions := p.mask, fn := p.fn, trusted := (s.serviceArg p 2).testBit 0, origin := b.origin, syllables := b.words.length
            kernels := ks, cigon := b.cigon.getD [], leaving := false, hash := s.deviceHash }
        let s := s.putCode b p.mask
        let s := { s with hub := { s.hub with objects := s.hub.objects.put id o } }
        (s.putResult p id (if b.cigon.isSome then 1 else 0) []).endService packet 0 0)

/-! ### UNLOAD (R459) -/

/-- Whether a code address lies in an object's body. -/
def CodeObject.covers (o : CodeObject) (a : Nat) : Bool := o.origin ≤ a && a < o.origin + 4 * o.syllables

/-- Whether a context holds an object. -/
def CodeObject.heldBy (o : CodeObject) (tile : Nat) (c : Ctx) : Bool :=
  let vec := (c.regs.csr.getD 0x12 0).toNat
  o.partitions.contains (partOf tile) && (o.covers c.pc || (vec != 0 && o.covers vec))

/-- Whether anything holds an object on some partitions. -/
def State.held (s : State) (id : Nat) (o : CodeObject) (parts : List Nat) : Bool :=
  (s.allCtxs.any fun x => parts.contains (partOf x.1) && o.heldBy x.1 x.2.2) ||
    s.hub.launches.any fun (l : Nat × Launch) => l.2.start.isNone && l.2.object == id && l.2.here.any parts.contains

/-- Removes an object from partitions: its start bits go (R25); it is gone with the last of them. -/
def State.dropObject (s : State) (id : Nat) (o : CodeObject) (parts : List Nat) : State :=
  let keys := (tilesOf parts).map fun t => codeKey t o.origin
  let left := o.partitions.filter fun p => !parts.contains p
  let going := o.going.filter left.contains
  { s with
    starts := s.starts.filter fun k => !keys.any fun b => b ≤ k && k < b + 4 * o.syllables
    hub := { s.hub with objects :=
      if left.isEmpty then s.hub.objects.erase id
      else s.hub.objects.put id { o with partitions := left, leaving := !going.isEmpty, going := going } } }

/-- Ends a context with CODE_REVOKED: its record is written if it was running, not if it was in its handler (R129, R148). -/
def State.revoke (s : State) (tile place : Nat) (c : Ctx) : State :=
  let st : Stopping :=
    { trap := { cause := causeCodeRevoked }, seq := c.seq, addr := c.pc, slot := 7, done := some 0, cycle := s.cycle, rrb := c.rrb
      loops := c.loops, remainder := c.remainder }
  let running := decide (place < 4) && !c.inHandler
  let s := if running then (s.recordTrap tile place c st) else s
  let s := if running && !badRecord (c.regs.csr.getD 0x13 0) then s.writeRecord tile c st else s
  s.killContext tile place 4 causeCodeRevoked 0

/-- Ends every launch of an object on some partitions. -/
def State.revokeObject (s : State) (id : Nat) (parts : List Nat) : State :=
  let mine := s.hub.launches.filter fun (l : Nat × Launch) => l.2.object == id && l.2.here.any parts.contains
  let s := (s.allCtxs.filter fun x => mine.any fun (l : Nat × Launch) => l.1 == x.2.2.launch).foldl
    (fun (s : State) x => s.revoke x.1 x.2.1 x.2.2) s
  (mine.filter fun (l : Nat × Launch) => l.2.start.isNone).foldl (fun (s : State) l =>
    (s.updLaunch l.1 fun x => x.ends ⟨s.cycle, 4, 0, 0, causeCodeRevoked, 0, 0, 0, 0⟩).now (.launchCompletion l.1)) s

/-- The object that a packet may unload, with the partitions it is to leave: resident on partitions named, and not another function's. Where
the mask names only some of its partitions it stays on the others (DEDUCED, log 34). -/
def State.mayUnload (s : State) (p : Packet) : Option (Nat × CodeObject × List Nat) :=
  let id := s.serviceArg p 0
  ((s.hub.objects.find? id).filter fun o => o.partitions.any p.mask.contains && (p.fn == 0 || o.fn == p.fn || o.fn == 0)).map fun o =>
    (id, o, o.partitions.filter p.mask.contains)

def execUnload (packet : Nat) (s : State) : Host.Outcome State Fault Refusal :=
  .next (match s.hub.packets.find? packet with
    | none => s
    | some p =>
      let refuse (d : Nat) : State := (s.putResult p 0 0x10 []).endService packet 2 d
      if s.badServiceArgs p 1 || s.serviceArg p 2 ≠ 0 then refuse 0x1300
      else
        match s.mayUnload p with
        | none => refuse 0x1309
        | some (id, o, parts) =>
          if s.serviceArg p 1 = 1 && p.fn ≠ 0 && o.fn = 0 then refuse 0x1307
          else if s.serviceArg p 1 = 1 then (((s.revokeObject id parts).dropObject id o parts).putResult p id 2 []).endService packet 0 0
          else if s.held id o parts then
            let o' := { o with leaving := true, going := parts.foldl NatSet.insert o.going }
            (State.putResult { s with hub := { s.hub with objects := s.hub.objects.put id o' } } p id 3 []).endService packet 0 0
          else ((s.dropObject id o parts).putResult p id 2 []).endService packet 0 0)

/-- R459: a pending object goes with its last holder. -/
def execUnloadPendingRemoval (object : Nat) (s : State) : Host.Outcome State Fault Refusal :=
  .next (match s.hub.objects.find? object with
    | none => s
    | some o => if o.leaving && !s.held object o o.going then s.dropObject object o o.going else s)

/-! ### Microcode (R453, R458, R487) -/

/-- A measurement block (Table 21.4). -/
def State.measure (s : State) (index : Nat) (value : List Byte) : State :=
  { s with hub := { s.hub with measurements := s.hub.measurements.put index value } }

/-- R453: signed microcode is installed while no object is resident; measurement 3 follows. -/
def execMicrocodeInstall (id : BitVec 32) (entries : List (Nat × Nat)) (image : List Byte) (s : State) :
    Host.Outcome State Fault Refusal :=
  .next (
    if !s.hub.objects.isEmpty || !Config.signatureValid image then s
    else
      State.measure { s with hub := { s.hub with
        microcode := id, entries := (entries.filter fun e => decide (e.1 < 7) && decide (e.2 < 8)).map fun e => (e.1, e.2, image) } } 3 (sha256 image))

end Sys2Proof.Machine
end

