-- ==== Sys2Proof/Machine/Debug.lean ====
section
/-! DEFINITION. The debug path (20_debug R476-R479): holds, steps and returns of a context, debug access to its state and to memory,
comparators, the trace FIFO, and the snapshot trigger. Answers stand in the hub's answer: 0 with data, 1 refused. -/

namespace Sys2Proof.Machine

/-- A command of the debug path: refused while the path is closed, and in the recovery state; it waits behind one that was sent before it
and has not acted (R476, R487). -/
def State.debug (s : State) (f : State → State) : Host.Outcome State Fault Refusal :=
  .next (
    if s.hub.debugWaits then s
    else
      let t := if s.hub.debugOpen && !s.hub.recovery then f s else s.answers 1 []
      if t.hub.debugWaits then t else { t with hub := { t.hub with debugQueue := t.hub.debugQueue.drop 1 } })

/-- A command about the context at a place, refused unless it is there and meets a condition. -/
def State.debugCtx (s : State) (tile place : Nat) (p : Ctx → Bool) (f : Ctx → State → State) : Host.Outcome State Fault Refusal :=
  s.debug fun s =>
    match s.ctx? tile place with
    | some c => if p c then (f c s).answers 0 [] else s.answers 1 []
    | none => s.answers 1 []

/-! ### Holding and resuming (R476, R477) -/

def execAttach (tile place : Nat) (s : State) : Host.Outcome State Fault Refusal :=
  s.debugCtx tile place (fun _ => true) fun c s => s.putCtx tile place { c with attached := true }

/-- DETACH; a halt or a step end that is still to come goes with the bit (log 22). A held context stays held, and can be stepped. -/
def execDetach (tile place : Nat) (s : State) : Host.Outcome State Fault Refusal :=
  s.debugCtx tile place (fun _ => true) fun c s => s.putCtx tile place { c with attached := false, haltRequest := false, stepPending := false }

/-- HALT: the context stops at its next dispatch boundary (R76). -/
def execDebugHalt (tile place : Nat) (s : State) : Host.Outcome State Fault Refusal :=
  s.debugCtx tile place (·.attached) fun c s => if c.heldByDebug then s else s.putCtx tile place { c with haltRequest := true }

/-- The stop that a halt or the end of a step makes at a dispatch boundary, with its detail (Table 20.7). -/
def Ctx.debugStop (c : Ctx) : Option Nat :=
  if !c.atBoundary || c.heldByDebug then none
  else if c.attached && c.haltRequest then some 0x1401
  else if c.stepPending && !c.passBreak then some 0x1402
  else none

/-- Stops a context for the debugger: the record names the next bundle, its done mask zero (R477). -/
def State.stopForDebug (s : State) (tile place detail : Nat) : State :=
  s.updCtx tile place fun c =>
    c.stop ⟨{ cause := causeBreakpoint, detail := detail }, c.seq, c.pc, 7, some 0, s.cycle, c.rrb, c.loops, c.remainder⟩

/-- What a held context returns to: its record if TRAPREC meets R127, else what it was stopped with (R134, R477). -/
def State.debugReturn (s : State) (tile : Nat) (c : Ctx) : EretState :=
  let own : EretState := c.resume.getD ⟨c.pc, 0, [], c.remainder, [], []⟩
  let at_ := c.regs.csr.getD 0x13 0
  if badRecord at_ then own
  else
    let key := sramKey tile at_.toNat
    let b := leNat (s.read (key + 8) 2)
    let done : BitVec 7 := BitVec.ofNat 7 (bitsOf (leNat (s.read key 8)) 19 7)
    if b = own.addr then { own with done := done } else ⟨b, done, [], 0, [], []⟩

/-- R134 for a held context, which is to stop again after one bundle or not. -/
def State.letGo (s : State) (tile place : Nat) (c : Ctx) (one : Bool) : State :=
  let r := s.debugReturn tile c
  let s1 := s.putCtx tile place { c with
    pc := r.addr, remainder := r.remainder, resume := some r, skips := r.counts, again := r.rows.drop 1, stamps := r.stamps.drop 1, base := s.clock tile
    wait := if r.addr = c.pc then c.wait else none
    heldByDebug := false, stepPending := one, haltRequest := false, passBreak := true }
  match s.targetTrap tile r.addr with
  | some t => s1.refuse tile place 7 t
  | none => s1

def execStep (tile place : Nat) (s : State) : Host.Outcome State Fault Refusal :=
  s.debugCtx tile place (·.heldByDebug) fun c s =>
    let s := s.endEpisode tile place
    s.letGo tile place (s.ctxNow tile place c) true

def execResume (tile place : Nat) (s : State) : Host.Outcome State Fault Refusal :=
  s.debugCtx tile place (·.heldByDebug) fun c s =>
    let s := (s.endEpisode tile place).record tile place 6 0 c.pc 7 s.cycle 0 0
    s.letGo tile place (s.ctxNow tile place c) false

/-! ### State and memory (R476, R478) -/

/-- A held, parked or saved context. -/
def State.debugWho (s : State) (who : Who) (f : Nat → Nat → Ctx → State → State) : Host.Outcome State Fault Refusal :=
  s.debug fun s =>
    match s.findWho who with
    | some (tile, place, c) => if c.heldByDebug || 4 ≤ place then f tile place c s else s.answers 1 []
    | none => s.answers 1 []

def execCtxrd (who : Who) (s : State) : Host.Outcome State Fault Refusal :=
  s.debugWho who fun tile place c s =>
    s.answers 0 (if 8 ≤ place then s.read (saveSlotKey tile (place - 8)) 0x2000 else s.saveImage tile c)

/-- CTXWR: what no field of the image holds reads back as zero, in a saved context as in a held one (R4). -/
def execCtxwr (who : Who) (image : List Byte) (s : State) : Host.Outcome State Fault Refusal :=
  s.debugWho who fun tile place c s =>
    if image.length ≠ 0x2000 then s.answers 1 []
    else
      let c := (c.loadImage image).loadTokens image
      let s := if 8 ≤ place then s.write (saveSlotKey tile (place - 8)) (s.saveImage tile c) false else s
      (s.putCtx tile place c).answers 0 []

/-- Whether a range lies in a space of the debug path (Table 4.1, R85, R146). -/
def debugWithin (space : DebugSpace) (addr n : Nat) : Bool :=
  match space with
  | .sram => addr + n ≤ Config.sramBytes
  | .code => addr + n ≤ 0x10000
  | .vault => addr + n ≤ 2 ^ 29
  | .shadow => Config.windowBase ≤ addr && addr + n ≤ Config.sramBytes

/-- The bytes of the store beside the window: those the debug path has written; any other is a free value (log 22). -/
def State.shadowBytes (s : State) (tile addr n : Nat) : List Byte :=
  (List.range n).map fun k => (Table.find? (s.tile tile).shadow (addr + k)).getD (Config.shadowByte s.free (2 ^ 20 * tile + addr + k))

/-- A beat of a debug access to a memory (R478): where it is, and what is left of the 64-byte line. -/
def Probe.beat (p : Probe) (addr size : Nat) : Nat × Nat := (addr + p.done, min (64 - (addr + p.done) % 64) (size - p.done))

/-- Whether a beat of a debug access has its bank in this cycle, as an access on path CP at its home (R286, R320, R478). -/
def State.probeBank (s : State) (tile : Nat) (space : DebugSpace) (p : Probe) (b : Nat × Nat) (wr : Bool) : State × Option Probe :=
  match space with
  | .sram => match s.cpBank tile b.1 b.2 p.passed with
    | .error s => (s, some { p with passed := p.passed + 1 })
    | .ok s => (s, none)
  | .vault => match s.serveBank tile (if wr then .wr else .rd) (b.1 / 2 ^ 24) (b.1 / 2 ^ 11 % 2 ^ 13) p.column with
    | (s, none) => (s, none)
    | (s, some x) => (s, some { p with bank := if x.2 = 0 then none else some (tile, b.1 / 2 ^ 24), column := x.2 })
  | _ => (s, none)

/-- The beats of a debug access that are made in this cycle; the rest waits, and the commands behind it. -/
def State.probeGoes (tile : Nat) (space : DebugSpace) (addr size : Nat) (wr : Bool) (act : Nat → Nat → State → State)
    (get : Nat → Nat → State → List Byte) : Nat → State → State
  | 0, s => s
  | fuel + 1, s =>
    let p : Probe := s.hub.probe.getD ⟨0, [], 0, none, 0⟩
    let b := p.beat addr size
    if size ≤ p.done then State.answers { s with hub := { s.hub with probe := none } } 0 p.got
    else
      match s.probeBank tile space p b wr with
      | (s, some p) => { s with hub := { s.hub with probe := some p, debugWaits := true } }
      | (s, none) =>
        let s := act b.1 b.2 { s with hub := { s.hub with probe := some ⟨p.done + b.2, p.got ++ get b.1 b.2 s, 0, none, 0⟩ } }
        State.probeGoes tile space addr size wr act get fuel s

def execMemrd (tile : Nat) (space : DebugSpace) (addr size : Nat) (s : State) : Host.Outcome State Fault Refusal :=
  s.debug fun s =>
    if Config.tiles ≤ tile || !debugWithin space addr size then s.answers 1 []
    else
      let get (a n : Nat) (s : State) : List Byte := match space with
        | .sram => s.read (sramKey tile a) n
        | .code => s.code.readN (codeKey tile a) n
        | .vault => s.read (vaultKey tile a) n
        | .shadow => s.shadowBytes tile a n
      State.probeGoes tile space addr size false (fun _ _ s => { s with free := s.free + 1 }) get (size + 1) s

/-- Whether a context on a tile holds an object whose body covers one of some code addresses (R459, R478). -/
def State.heldCode (s : State) (tile addr n : Nat) : Bool :=
  s.hub.objects.any fun (o : Nat × CodeObject) =>
    (o.2.origin < addr + n) && (addr < o.2.origin + 4 * o.2.syllables) && (s.tileCtxs tile).any fun x => o.2.heldBy tile x.2

def execMemwr (tile : Nat) (space : DebugSpace) (addr : Nat) (data : List Byte) (s : State) : Host.Outcome State Fault Refusal :=
  s.debug fun s =>
    if Config.tiles ≤ tile || !debugWithin space addr data.length || (space == .code && s.heldCode tile addr data.length) then s.answers 1 []
    else
      let put (a n : Nat) (s : State) : State :=
        let bs := (data.drop (a - addr)).take n
        match space with
        | .sram => s.write (sramKey tile a) bs false
        | .code => { s with code := s.code.writeN (codeKey tile a) bs }
        | .vault => s.write (vaultKey tile a) bs false
        | .shadow => s.updTile tile fun t =>
          { t with shadow := (bs.mapIdx fun k b => (a + k, b)).foldl (fun m x => Table.put m x.1 x.2) t.shadow }
      State.probeGoes tile space addr data.length true put (fun _ _ _ => []) (data.length + 1) s

/-- R478: a comparator of a tile. -/
def execBrkset (tile : Nat) (k : BitVec 2) (addr : BitVec 16) (mask : BitVec 4) (on : Bool) (s : State) :
    Host.Outcome State Fault Refusal :=
  s.debug fun s =>
    if Config.tiles ≤ tile then s.answers 1 []
    else
      (s.updTile tile fun t =>
        { t with breaks := if on then t.breaks.put k.toNat (addr, mask) else t.breaks.erase k.toNat }).answers 0 []

/-- R472: up to 256 records, which leave the FIFO. -/
def execFiford (tile count : Nat) (s : State) : Host.Outcome State Fault Refusal :=
  s.debug fun s =>
    let taken := (s.tile tile).trace.take (min count 256)
    (s.updTile tile fun t => { t with trace := t.trace.drop (min count 256) }).answers 0
      (taken.flatMap fun r => qwordBytes [r.1, r.2.1, r.2.2.1, r.2.2.2])

/-! ### The snapshot trigger (R479; log 22) -/

/-- What the snapshot holds of a context: head address, STATUS, DEVTOTAL, blocking cause. -/
def State.snapCtx (s : State) (tile place : Nat) (c : Ctx) : List Word64 :=
  let cause := match s.head tile place with | .blocked n | .stalled n => n | _ => 0
  [BitVec.ofNat 64 c.pc, c.regs.csr.getD csrStatus 0, c.devTotal, BitVec.ofNat 64 cause]

/-- What it holds of a tile, its vault and its mesh interface. -/
def State.snapTile (s : State) (tile : Nat) : List Word64 :=
  let t := s.tile tile
  let owned (b : Nat) : Bool := (s.bankOwner tile b).isSome
  [s.cycle, BitVec.ofNat 64 t.trace.length, t.traceSeq.setWidth 64, if t.freeze.isSome then 1 else 0] ++
    ((List.range 32).map fun b => vstatValue s tile (owned b) b 0) ++ ((List.range 4).map fun k => vstatValue s tile false 0 (k + 1)) ++
    [BitVec.ofNat 64 t.landing.length, BitVec.ofNat 64 t.outbound.length]

/-- What it holds of a tile's barrier unit and Dome. -/
def State.snapUnits (s : State) (tile : Nat) : List Word64 :=
  let t := s.tile tile
  let barrier (n : Nat) : List Word64 :=
    let b := t.barriers.getD n Barrier.free
    (List.range 4).map (b.query (b.owner.getD 0))
  let slot (n : Nat) : List Word64 :=
    (List.range 4).map fun k => t.domeq (((Table.find? t.dome n).map (·.owner)).getD 0) n false k
  (List.range 16).flatMap barrier ++ (List.range 64).flatMap slot

/-- The snapshot: contexts, tiles, units, chains. -/
def State.snap (s : State) : List Word64 :=
  (s.allCtxs.flatMap fun x => s.snapCtx x.1 x.2.1 x.2.2) ++ ((List.range Config.tiles).flatMap fun t => s.snapTile t ++ s.snapUnits t) ++
    ((List.range 64).flatMap fun p => (List.range 4).map fun k => s.sfQuery p ((Table.find? s.hub.owners p).getD 0) k)

/-- The trigger fires: counted; an armed one latches every block, with a record on each tile, and disarms. -/
def State.fire (s : State) : State :=
  let n := s.hub.fired + 1
  let s := { s with hub := { s.hub with fired := n } }
  if !s.hub.armed then s
  else
    let s := { s with hub := { s.hub with armed := false, snapshot := s.snap } }
    (List.range Config.tiles).foldl (fun (s : State) t => s.record t 15 7 0 0 7 s.cycle (BitVec.ofNat 64 n) 0) s

/-- TRIGGER, refused while the trigger is not armed, or the firing of a TEMIT under TRCTL.snaptag. -/
def execTrigger (s : State) : Host.Outcome State Fault Refusal :=
  if s.hub.tagged then .next (State.fire { s with hub := { s.hub with tagged := false } })
  else s.debug fun s => if s.hub.armed then s.fire.answers 0 [] else s.answers 1 []

/-- SNAPRD: the latched snapshot behind its trigger number; the trigger is armed again. -/
def execSnaprd (s : State) : Host.Outcome State Fault Refusal :=
  s.debug fun s =>
    State.answers { s with hub := { s.hub with armed := true } } 0 (qwordBytes (BitVec.ofNat 64 s.hub.fired :: s.hub.snapshot))

end Sys2Proof.Machine
end

