-- ==== Sys2Proof/Machine/Health.lean ====
section
/-! DEFINITION. The security and health controller (21_health R482-R491, 01_package R10, R22; 12_vault R298): boot, attestation, the remap
table, power and heat, scrubbing, ageing and retirement. -/

namespace Sys2Proof.Machine

/-! ### Boot and attestation (R487-R489; log 11) -/

/-- R487: a verified image is measured and started; any other leaves the device in the recovery state, with the reason. -/
def State.verify (s : State) (image : List Byte) : State :=
  if Config.signatureValid image then State.measure { s with hub := { s.hub with recovery := false, reason := 0 } } 2 (sha256 image)
  else { s with hub := { s.hub with recovery := true, reason := Config.bootReason image } }

/-- R487: the boot ROM at reset; the trigger is armed (R479), and the debug path closed (R489). -/
def execBoot (image : List Byte) (s : State) : Host.Outcome State Fault Refusal :=
  let s := State.measure { s with hub := { s.hub with armed := true, debugOpen := false } } 1 (Config.measured 1 [])
  let s := s.measure 3 (Config.measured 3 [s.hub.microcode.toNat])
  .next (((s.measure 4 (Config.measured 4 [])).measure 5 [0]).verify image)

/-- R487: the start word of the recovery window. -/
def execRecoveryStart (image : List Byte) (s : State) : Host.Outcome State Fault Refusal :=
  .next (if s.hub.recovery then s.verify image else s)

/-- An SPDM reply: what the manual leaves to the standard is free, and what it states stands behind it. -/
def State.spdm (s : State) (stated : List Byte) : State :=
  State.answers { s with free := s.free + 1 } 0 (Config.spdmBody s.free ++ stated)

def execGetVersion (s : State) : Host.Outcome State Fault Refusal := .next (s.spdm [])

def execGetCapabilities (s : State) : Host.Outcome State Fault Refusal := .next (s.spdm [])

def execNegotiateAlgorithms (s : State) : Host.Outcome State Fault Refusal := .next (s.spdm [])

def execGetDigests (s : State) : Host.Outcome State Fault Refusal := .next (s.spdm [])

def execGetCertificate (s : State) : Host.Outcome State Fault Refusal := .next (s.spdm [])

/-- The signature under the identity key is part of the free reply. -/
def execChallenge (_nonce : List Byte) (s : State) : Host.Outcome State Fault Refusal := .next (s.spdm [])

/-- R488: the block of Table 21.4. -/
def execGetMeasurements (index : Nat) (s : State) : Host.Outcome State Fault Refusal := .next (s.spdm (s.hub.measurements.getD index []))

/-- R489: a signed token that names the device and the nonce opens the debug path; measurement 5 stays 1. -/
def execDebugAuthorisation (token : List Byte) (s : State) : Host.Outcome State Fault Refusal :=
  .next (
    if !s.hub.recovery && Config.signatureValid token && Config.tokenNames token s.hub.nonce then
      State.measure { s with hub := { s.hub with debugOpen := true, nonce := s.hub.nonce + 1 } } 5 [1]
    else s)

/-! ### Remap tables (R10, R12) -/

/-- Measurement 4 follows the tables. -/
def State.measureRemap (s : State) : State :=
  s.measure 4 (Config.measured 4 ((s.hub.remap.map fun (x : Nat × Option Nat) => x.1 * 512 + (x.2.getD 511))))

/-- The key of a physical tile: 296 times its die plus its number. -/
def physKey (die n : Nat) : Nat := 296 * die + n

/-- Whether a die may take a table. -/
def State.tableFits (s : State) (die : Nat) (entries : List (Option Nat)) : Bool :=
  let named := entries.filterMap id
  entries.length == 288 && decide (die < 4) && named.all (fun n => decide (n < 296) && !s.hub.failed.contains (physKey die n)) &&
    named.eraseDups.length == named.length

/-- The logical tile that a tile's physical tile becomes under a new table of its die; the tile itself on another die, none for a physical
tile that no entry names any more (R10). -/
def State.remapTarget (s : State) (die : Nat) (entries : List (Option Nat)) (tile : Nat) : Option Nat :=
  if dieOf tile ≠ die then some tile
  else (s.physical tile).bind fun n => ((List.range 288).find? fun k => entries.getD k none == some n).map (288 * die + ·)

/-- The contents of tiles follow their physical tiles: memories, code and registers by logical tile, after a table is rewritten. -/
def State.remapContents (s : State) (die : Nat) (entries : List (Option Nat)) : State :=
  let goes (tile : Nat) : Option Nat := s.remapTarget die entries tile
  let cell (unit per : Nat) (a : Nat) : Option Nat :=
    let tile := a / unit % per
    (goes tile).map fun t => a - tile * unit + t * unit
  let bytes (unit per : Nat) (outside : Nat → Bool) (m : Memory) : Memory :=
    Memory.writeAll [] (m.filterMap fun x => (if outside x.1 then some x.1 else cell unit per x.1).map fun a => (a, x.2))
  let away (a : Nat) : Bool := decide (2 ^ 48 ≤ a)
  { s with
    tiles := s.tiles.foldl (fun t x => match goes x.1 with | some k => Table.put t k x.2 | none => t) []
    mem := bytes (2 ^ 36) 2048 away s.mem
    poison := (s.poison.filterMap fun g => (if away (64 * g) then some g else (cell (2 ^ 36) 2048 (64 * g)).map (· / 64))).foldl NatSet.insert []
    code := bytes (2 ^ 16) 2048 (fun _ => false) s.code
    starts := (s.starts.filterMap (cell (2 ^ 16) 2048)).foldl NatSet.insert [] }

/-- Sets an entry; one that names the tile's own number is not listed. -/
def State.setRemap (s : State) (tile : Nat) (x : Option Nat) : State :=
  { s with hub := { s.hub with remap := s.hub.remap.set tile x (some (tile % 288)) } }

/-- R10: a table is written between launches, or refused. A tile that no valid entry names is in reset, its clocks stopped; one that is
named anew comes out of reset. -/
def execRemapTableWrite (die : Nat) (entries : List (Option Nat)) (s : State) : Host.Outcome State Fault Refusal :=
  .next (
    if s.launching || !s.tableFits die entries then s
    else ((List.range 288).foldl (fun (s : State) k => s.setRemap (288 * die + k) (entries.getD k none))
      (s.remapContents die entries)).measureRemap)

/-! ### Power and heat (R22, R298) -/

/-- Halts every launch of the package at its next bundle boundary, with a status: no context dispatches again, and each ends once its
bundles have taken effect; the package then waits until system software clears the EVENT bit. -/
def State.haltAll (s : State) (status bit : Nat) : State :=
  State.event { s with hub := { s.hub with
    waits := setBit s.hub.waits bit true, halting := some (s.hub.halting.getD status)
    haltAt := if s.hub.halting.isSome then s.hub.haltAt else s.cycle } } bit

/-- Whether every bundle that a context has dispatched has taken effect. -/
def Ctx.drained (c : Ctx) : Bool := !c.queued && c.sf.isNone && c.stopping.isNone

/-- R298: the vaults keep their contents, their rows closed. -/
def State.selfRefresh (s : State) : State :=
  { s with tiles := s.tiles.map fun (kt : Nat × Tile) => (kt.1, { kt.2 with vault := { kt.2.vault with
    opened := [], accruing := false, stepDue := false, window := none, forced := none } }) }

/-- What a cycle of a package that halts its launches ends: the contexts at a bundle boundary, and with the last one the halt (R22,
R298). -/
def State.haltDrained (s : State) : State :=
  match s.hub.halting with
  | none => s
  | some status =>
    let s := (s.allCtxs.filter fun x => decide (4 ≤ x.2.1) || x.2.2.drained).foldl
      (fun (s : State) x => s.killContextAt x.1 x.2.1 status 0 0 s.hub.haltAt) s
    if !s.ctxs.isEmpty then s
    else
      let s := { s with hub := { s.hub with halting := none } }
      if status = 5 then s.selfRefresh else s

def execThermalHalt (s : State) : Host.Outcome State Fault Refusal := .next (s.haltAll 5 1)

/-- R22. -/
def execPowerFaultHalt (s : State) : Host.Outcome State Fault Refusal := .next (s.haltAll 6 0)

/-- R22: the average of the last ten samples stops launch starts or lets them resume; a sample above 115% of the limit halts the
package. Before ten samples exist the manual gives no average; the model takes that of the samples there are (DESIGN CHOICE, log 48). -/
def State.samplePower (s : State) (watts : Nat) : State :=
  let limit := (s.reg 0x20).toNat
  let last := (watts :: s.hub.watts).take 10
  let sum := last.foldl (· + ·) 0
  let s := { s with hub := { s.hub with watts := last } }
  let s := if limit * last.length < sum then State.event { s with hub := { s.hub with stopped := true } } 0
    else if 100 * sum < 95 * limit * last.length then { s with hub := { s.hub with stopped := false } } else s
  if 115 * limit < 100 * watts then s.now .powerFaultHalt else s

def execPowerSample (watts : Nat) (s : State) : Host.Outcome State Fault Refusal := .next (s.samplePower watts)

/-! ### Faults (R482-R485) -/

/-- The physical tile of a logical tile, for the records of R485. -/
def State.physicalKey (s : State) (tile : Nat) : Nat := physKey (dieOf tile) ((s.physical tile).getD 511)

/-- A health record (R485): the structure by its row in Table 21.1, 0 for a correction and 1 for a detection. -/
def State.healthRecord (s : State) (tile structure_ class_ : Nat) : State :=
  { s with hub := { s.hub with health := s.hub.health ++ [(s.physicalKey tile, structure_, class_, s.cycle)] } }

/-- Marks a tile suspect. -/
def State.suspects (s : State) (tile : Nat) : State := { s with hub := { s.hub with suspect := NatSet.insert s.hub.suspect tile } }

/-- Corrections of a tile within the last 10 ms. -/
def State.corrections (s : State) (tile : Nat) : Nat :=
  (s.hub.health.filter fun r => r.1 == s.physicalKey tile && r.2.2.1 == 0 && decide ((s.cycle - r.2.2.2).toNat ≤ 18000000)).length

/-- The row of Table 21.1 that a stored word belongs to. -/
def protectionRow : StoredWord → Nat
  | .sram => 0
  | .vault => 3
  | .g _ | .handle _ | .latch _ | .bank | .row => 2
  | .code => 1
  | .beat => 4
  | .result _ => 7

/-- A beat that comes bad a second time is lost (R341, Table 21.1). -/
def State.dropBeat (s : State) (tile n : Nat) : State :=
  match (s.tile tile).incoming[n]? with
  | none => s
  | some x =>
    let b := x.2
    ((s.loseBeat tile b.launch b.num).updTile tile fun t =>
      { t with incoming := t.incoming.eraseIdx n, marks := t.marks ++ [(b.launch, b.num, b.flow, b.arrival)] }).wake tile

/-- A bad code word ends the contexts that run from its object (R484, Table 21.3). -/
def State.badCode (s : State) (tile a : Nat) : State :=
  ((s.tileCtxs tile).filter fun x => s.hub.objects.any fun o => o.2.covers a && o.2.heldBy tile x.2).foldl
    (fun (s : State) x => s.killContext tile x.1 3 causePoison 0x1501) (s.suspects tile)

/-- What becomes of an uncorrectable word: the poison bit of the granule, register, bank or row that holds it is set, and that of a result
(R135, R180, R270); a bad beat or code word acts as above. -/
def State.poisonWord (s : State) (tile : Nat) (w : StoredWord) (n : Nat) : State :=
  let reg (place : Nat) (r : Reg) : State :=
    s.updCtx tile place fun c => { c with regs := c.regs.setPoison r true }
  match w with
  | .sram => { s with poison := NatSet.insert s.poison (sramKey tile n / 64) }
  | .vault => { s with poison := NatSet.insert s.poison (vaultKey tile n / 64) }
  | .g place => if n = 0 || 64 ≤ n then s else reg place (.g n)
  | .handle place => if 16 ≤ n then s else reg place (.h n)
  | .latch place => if 12 ≤ n then s else reg place (.v n)
  | .bank => s.updTile tile fun t => { t with array := { t.array with bankPoison := setBit t.array.bankPoison n true } }
  | .row => s.updTile tile fun t => { t with array := { t.array with rowPoison := setBit t.array.rowPoison n true } }
  | .code => s.badCode tile n
  | .beat => s.dropBeat tile n
  | .result place => s.updCtx tile place fun c =>
    { c with writes := c.writes.take n ++ ((c.writes.drop n).take 1).map (fun w => { w with poison := some true }) ++ c.writes.drop (n + 1) }

/-- R482, R483, R485, R135: a correction is recorded and counted; an uncorrectable word poisons what holds it. A residue check corrects
nothing. -/
def execPatrolScrub (tile : Nat) (word : StoredWord) (addr : Nat) (finding : ScrubFinding) (s : State) : Host.Outcome State Fault Refusal :=
  let structure_ := protectionRow word
  let result := match word with | .result _ => true | _ => false
  .next (match (if finding == .corrected && result then .uncorrectable else finding) with
    | .clean => s
    | .corrected =>
      let s := s.healthRecord tile structure_ 0
      if 64 < s.corrections tile then s.suspects tile else s
    | .uncorrectable =>
      (s.poisonWord tile word addr).healthRecord tile structure_ 1)

/-- R484: a context whose control state a fault may have touched ends under R148; its tile is suspect. -/
def execControlStateFault (tile place : Nat) (code : Bool) (s : State) : Host.Outcome State Fault Refusal :=
  .next (((s.killContext tile place 3 causePoison (if code then 0x1501 else 0x1500)).healthRecord tile (if code then 1 else 8) 1).suspects tile)

/-- Table 21.1: a lockstep pair restarts the packet from its ring slot, which no one sees; else the package halts. -/
def execLockstepFailure (restartable : Bool) (s : State) : Host.Outcome State Fault Refusal :=
  .next (if restartable then s else State.event { s with hub := { s.hub with halted := true } } 4)

/-! ### Ageing and retirement (R490, R491) -/

/-- The lowest-numbered unused spare of a die. -/
def State.spare (s : State) (die : Nat) : Option Nat :=
  (List.range 8).findSome? fun k =>
    let n := 288 + k
    if s.hub.failed.contains (physKey die n) || (List.range 288).any (fun i => s.physical (288 * die + i) == some n) then none else some n

/-- R490: the supply is raised by a step of 10 mV, or the tile is marked failed and retired. -/
def State.checkAgeing (s : State) (tile : Nat) (marginLow : Bool) : State :=
  let suspect := s.hub.suspect.contains tile
  let steps := s.hub.supply.getD tile 0
  if !(marginLow || suspect) || s.hub.failed.contains (s.physicalKey tile) || (s.physical tile).isNone then s
  else if steps < 5 && !suspect then { s with hub := { s.hub with supply := s.hub.supply.put tile (steps + 1) } }
  else State.after { s with hub := { s.hub with failed := NatSet.insert s.hub.failed (s.physicalKey tile) } } 1 (.tileRetirement tile)

def execAgeingCheck (tile : Nat) (marginLow : Bool) (s : State) : Host.Outcome State Fault Refusal := .next (s.checkAgeing tile marginLow)

/-- R491: once the partition is not busy the tile is copied to the spare, and then the table is rewritten. The tile keeps its
memories, which are held by logical tile; the spare comes out of reset (R10). Without a spare its entry is no longer valid, and the tile
goes into reset. -/
def execTileRetirement (tile : Nat) (s : State) : Host.Outcome State Fault Refusal :=
  let die := dieOf tile
  .next (
    if s.hub.moving.contains tile then
      let s := { s.setRemap tile (s.spare die) with tiles := s.tiles.erase tile }
      State.measureRemap (State.event { s with hub := { s.hub with
        moving := NatSet.erase s.hub.moving tile, suspect := NatSet.erase s.hub.suspect tile, supply := s.hub.supply.erase tile } } 3)
    else if s.busyPart (partOf tile) then s.after 1 (.tileRetirement tile)
    else
      match s.spare die with
      | none =>
        ((s.remapContents die ((List.range 288).map fun k => if 288 * die + k = tile then none else s.physical (288 * die + k))).setRemap
          tile none).measureRemap
      | some _ =>
        let d := State.drawDelay { s with hub := { s.hub with moving := NatSet.insert s.hub.moving tile } } 4300000
        d.2.after d.1 (.tileRetirement tile))

end Sys2Proof.Machine
end

