-- ==== Sys2Proof/Machine/Cycle.lean ====
section
/-! DEFINITION. The package cycle (01_package R19; 03_execution R72; 07_issue R493; log 2): what a cycle leaves in its contexts, the
next cycle, the list of what that cycle has to do, and the choice of its next step. -/

namespace Sys2Proof.Machine

/-! ### The end of a cycle -/

/-- The cause and slot under which a context loses this cycle (R493); from the cycle after a BWAIT's dispatch 0xD (R365). -/
def Ctx.loses (c : Ctx) (clock place : Nat) : Option (Nat × Nat) :=
  if 4 ≤ place || c.away || c.heldByDebug then some (14, 7) else if c.awaits && c.stopping.isNone && decide (c.base < clock) then some (13, 6) else c.lost

/-- One cycle more under a cause, in the context's episode. -/
def Ctx.lose (c : Ctx) (n slot : Nat) (first : Word64) : Ctx :=
  { c.deviate n 1 with episode := some (match c.episode with
    | some e => { e with cycles := e.cycles + 1 }
    | none => ⟨c.pc, n, slot, first, 1⟩) }

/-- Counts what a context loses in this cycle; the cycles of a frozen tile are counted when it thaws (R342). An episode held by a
forced refresh begins with it (R297). -/
def State.account (s : State) (tile place : Nat) (c : Ctx) : State :=
  let s := s.updCtx tile place fun c => { c with lost := none }
  if decide (place < 4) && (s.stood tile || (s.tile tile).freeze.any fun f => decide (f.since ≤ s.time)) then s
  else
    match c.loses (s.clock tile) place with
    | none => s.endEpisode tile place
    | some (n, slot) =>
      let s := if (c.episode.map (·.cause)) == some n then s else s.endEpisode tile place
      let first := match (s.vault tile).forced with
        | some f => if n = 6 then s.cycle - BitVec.ofNat 64 (s.time - f.start) else s.cycle
        | none => s.cycle
      (s.updCtx tile place fun c => c.lose n slot first).count tile n 1

/-- Drops what no syllable still to act needs: results in the files, flights, old bytes, met orders. -/
def State.tidy (s : State) (tile place : Nat) : State :=
  s.updCtx tile place fun c0 =>
    let c := c0.fold (s.clock tile)
    let seqs := (c.allQueued.map (·.seq)) ++ (c.sf.map (·.seq)).toList
    let oldest := seqs.foldl min c.seq
    { c with
      flights := if c.stopping.isSome then c.flights else c.flights.filter fun f => oldest ≤ f.seq
      undo := c.undo.filter fun u => decide (oldest ≤ u.seq) && !c.allQueued.isEmpty
      fences := c.fences.filter fun f => s.olderAccess tile c f.seq f.mask }

/-- Every context, one after another. -/
def State.eachCtx (s : State) (f : State → Nat → Nat → Ctx → State) : State :=
  s.allCtxs.foldl (fun (s : State) x => f s x.1 x.2.1 x.2.2) s

/-! ### The next cycle -/

/-- A vault in a new cycle: the debt's accumulator (R295). -/
def Vault.next (v : Vault) : Vault :=
  let acc := if v.accruing then v.accumulator + 32 else v.accumulator
  { v with accumulator := acc, stepDue := v.accruing && decide (tRefi v.accrual ≤ acc), stepBand := v.accrual, landed := [] }

/-- A tile in a new cycle. -/
def Tile.next (t : Tile) (stood : Bool) : Tile :=
  { t with clock := if stood then t.clock else t.clock + 1, lines := [], scLines := [], ports := [], accepted := [], vault := t.vault.next }

/-- R19: the counter advances, and with it the clock of every tile that is not frozen; one with no physical tile is in reset (R10). -/
def State.tick (s : State) : State :=
  let stood := (s.tiles.map (·.1)).filter s.stood
  { s with
    cycle := s.cycle + 1
    time := s.time + 1
    tiles := (s.tiles.filter fun (kt : Nat × Tile) => (s.physical kt.1).isSome).map fun (kt : Nat × Tile) => (kt.1, kt.2.next (stood.contains kt.1))
    links := s.links.filter fun l => s.time < l.2 }

/-- What the host has stored by now (log 15). -/
def State.hostStores (s : State) : State :=
  let come := s.stores.filter fun x => x.1 ≤ s.time
  come.foldl (fun (s : State) x => s.write (hostKey x.2.1) x.2.2 false) { s with stores := s.stores.filter fun x => s.time < x.1 }

/-- Counted cycles of timed barrier waits (R366): the last one, but for that in which the BWAIT left, unless its tile stood still, or
the context was away or held. The last counted cycle is tried at its end. -/
def State.countWaits (s : State) : State × List Work :=
  s.allCtxs.foldl (fun (x : State × List Work) k =>
    let c := k.2.2
    let t := x.1.tile k.1
    let idle := 4 ≤ k.2.1 || c.heldByDebug || c.timed == some (s.time - 1) || t.thawed == s.time || t.freeze.any fun f => decide (f.stands < s.time)
    match c.wait with
    | some (.barrier seq addr present msg (some (n + 1)) none) =>
      let left := if n = 0 || idle then n + 1 else n
      (x.1.putCtx k.1 k.2.1 { c with wait := some (.barrier seq addr present msg (some left) none) },
        if left = 1 then x.2 ++ [.event (.bwaitTimeout k.1 k.2.1)] else x.2)
    | _ => x) (s, [])

/-- R340: a horizon on its way to the launch tiles when it has changed, or when it lets a held write through. -/
def State.startHorizons (s : State) : State :=
  s.hub.launches.foldl (fun (s : State) (x : Nat × Launch) =>
    let l := x.2
    if l.deterministic && l.start.isSome && !l.delivering &&
        (s.horizonOf x.1 != l.horizon || (s.heldFor x.1).any fun y => decide (y.2.q.stamp < l.horizon)) then
      let d := (s.updLaunch x.1 fun l => { l with delivering := true }).drawDelay 64
      d.2.after d.1 (.horizonUpdate x.1) 60
    else s) s

/-! ### Contexts that come back (R442) -/

/-- Whether a launch of higher priority than some waits for a tile. -/
def State.outranked (s : State) (tile priority : Nat) : Bool :=
  s.hub.launches.any fun (x : Nat × Launch) =>
    x.2.start.isNone && decide (priority < x.2.priority) && ((List.range x.2.tiles).filterMap x.2.localTile).contains tile

/-- The order in which contexts come back: priority, then start. -/
def State.backKey (s : State) (place : Nat) (c : Ctx) : List Nat :=
  match s.launchOf c with
  | some l => [4 - l.priority, (l.start.getD 0).toNat, c.num, place]
  | none => [5, 0, 0, place]

/-- The step that brings a context back to a tile, if one may. -/
def State.comesBack (s : State) (tile : Nat) : Option Instr :=
  let away := (s.tileCtxs tile).filter fun x => decide (4 ≤ x.1) &&
    (decide (x.1 < 8) || s.mayRestore tile tile x.2) && !((s.launchOf x.2).any fun l => s.outranked tile l.priority)
  if (s.freePlace tile [0, 1, 2, 3]).isNone then none
  else
    (away.foldl (fun (b : Option (Nat × Ctx)) x => match b with
      | none => some x
      | some y => if keyBefore (s.backKey x.1 x.2) (s.backKey y.1 y.2) then some x else b) none).map fun x =>
        let who : Who := ⟨tile, x.2.launch, x.2.num⟩
        if x.1 < 8 then .resumeParked who else .restore who tile

/-! ### What a cycle has to do (log 2) -/

/-- Inserts a step behind those with a key no greater. -/
def insertKeyed (k : Nat) (i : Instr) : List (Nat × Instr) → List (Nat × Instr)
  | [] => [(k, i)]
  | (a, j) :: r => if k < a then (k, i) :: (a, j) :: r else (a, j) :: insertKeyed k i r

/-- Takes the steps that are due off the lists, in the order of their keys; those of a frozen tile wait (R72). -/
def State.takeDue (s : State) : State × List (Nat × Instr) :=
  let mine := (s.due.filter fun d => d.1 ≤ s.time).map (·.2)
  let ripe (t : Tile) (d : Nat × Nat × Instr) : Bool := t.freeze.isNone && decide (d.1 ≤ t.clock)
  let theirs := s.tiles.flatMap fun (kt : Nat × Tile) => (kt.2.due.filter (ripe kt.2)).map (·.2)
  ({ s with
    due := s.due.filter fun d => s.time < d.1
    tiles := s.tiles.map fun (kt : Nat × Tile) => (kt.1, { kt.2 with due := kt.2.due.filter fun d => !ripe kt.2 d }) },
   (mine ++ theirs).foldl (fun l x => insertKeyed x.1 x.2 l) [])

/-- What a tile with contexts has to do: waits, the dispatch, the slots from X on, the C syllables that act last, and what ends or takes
a context. V is asked again after M, behind which it may have waited (R89). Slot 7 stands for a C syllable that acts last. -/
def tileWork (tile : Nat) : List Work :=
  ((List.range 4).map fun p => .waits tile p) ++ [.dispatch tile] ++
    ([0, 1, 2, 3, 4, 3, 5, 6, 7].flatMap fun k => (List.range 4).map fun p => .leave tile p k) ++ ((List.range 4).map fun p => .enter tile p)

/-- The tiles that have active contexts and are not frozen. -/
def State.liveTiles (s : State) : List Nat :=
  (((s.allCtxs.filter fun x => decide (x.2.1 < 4)).map (·.1)).eraseDups).filter fun t => (s.tile t).freeze.isNone && (s.physical t).isSome

/-- The tiles of the launches that may start in this cycle, whose contexts dispatch from it on (R59), but for frozen ones (R72). -/
def State.startingTiles (s : State) (due : List (Nat × Instr)) : List Nat :=
  due.flatMap fun x => match x.2 with
    | .launchStart l => ((s.hub.launches.find? l).map fun l =>
        ((List.range l.tiles).filterMap l.localTile).filter fun t => (s.tile t).freeze.isNone).getD []
    | _ => []

/-- What comes after everything else of a cycle: freezes at their limit (R343), Domes without progress (R384), quiescent launches
(R340). -/
def State.lateWork (s : State) : List Work :=
  let limit := (s.reg 0x18).toNat
  (s.tiles.filterMap fun (kt : Nat × Tile) =>
    if kt.2.freeze.any fun f => decide (limit ≤ s.time + 1 - f.since) then some (.event (.freezeLimit kt.1)) else none) ++
  (s.hub.launches.flatMap fun (l : Nat × Launch) =>
    ((s.liveTiles.filter fun t => s.domeStuck t l.1).map fun t => .event (.domeNoProgress t l.1)) ++
      (if (s.heldFor l.1).isEmpty then [] else [.event (.quiescentApply l.1)]))

/-- What comes before the tiles act: objects without a holder go (R459), contexts come back (R442). -/
def State.firstWork (s : State) : List Work :=
  (s.hub.objects.filterMap fun (o : Nat × CodeObject) =>
    if o.2.leaving && !s.held o.1 o.2 o.2.going then some (.event (.unloadPendingRemoval o.1)) else none) ++
  (((s.allCtxs.filter fun x => decide (4 ≤ x.2.1)).map (·.1)).eraseDups.filterMap fun t => (s.comesBack t).map .event)

/-- What the security and health controller reads of itself: the board power every 1 ms (R22), the tiles' margins every 10 ms (R490); what they
read is free (log 4). -/
def State.readHealth (s : State) : State :=
  let s := if s.time % 1800000 = 0 then s.samplePower (Config.watts s.time) else s
  if s.time % 18000000 = 0 then
    (List.range Config.tiles).foldl (fun (s : State) t => s.checkAgeing t (Config.marginLow s.time t)) s
  else s

/-- The measurements of the vaults, every 18,000 cycles (R298); what they read is free (log 4). -/
def State.measurements (s : State) : List Work :=
  if s.time % 18000 = 0 then (List.range Config.tiles).map fun t => .event (.temperatureMeasurement t (Config.celsius s.time t)) else []

/-- The commands of the debug path (Table 20.5), which act behind the tiles of their cycle: their accesses to a memory take what those leave
(R320, R478). -/
def debugs : Instr → Bool
  | .attach _ _ | .detach _ _ | .debugHalt _ _ | .step _ _ | .resume _ _ | .ctxrd _ | .ctxwr _ _ | .memrd _ _ _ _ | .memwr _ _ _ _
  | .brkset _ _ _ _ _ | .fiford _ _ | .trigger | .snaprd => true
  | _ => false

/-- The steps that the outside takes in this cycle (log 15); those of the debug path, which stay listed until they have acted, apart. -/
def State.takeInbox (s : State) : State × List Work × List Work :=
  let come := (s.inbox.filter fun x => x.1 ≤ s.time).map (·.2)
  let queue := s.hub.debugQueue ++ come.filter debugs
  ({ s with inbox := s.inbox.filter fun x => s.time < x.1, hub := { s.hub with debugQueue := queue, debugWaits := false } },
    (come.filter fun i => !debugs i).map .event, queue.map .event)

/-- Lists what the new cycle has to do; a halted package does only what the outside asks (Table 21.1). -/
def State.plan (s : State) : State :=
  let outside := s.takeInbox
  if s.hub.halted then { outside.1 with agenda := outside.2.1 ++ outside.2.2 }
  else
    let s := (outside.1.readHealth.hostStores.moveMessages.startReads).startHorizons
    let waits := s.countWaits
    let due := waits.1.takeDue
    let s := due.1
    let early := (due.2.filter fun x => x.1 < 50).map fun x => Work.event x.2
    let late := (due.2.filter fun x => !(x.1 < 50)).map fun x => Work.event x.2
    let steps := s.tiles.filterMap fun (kt : Nat × Tile) => if kt.2.vault.stepDue then some (Work.event (.debtIncrement kt.1)) else none
    let tiles := (s.liveTiles ++ s.startingTiles due.2).eraseDups.flatMap tileWork
    { s with agenda := outside.2.1 ++ s.measurements ++ s.firstWork ++ early ++ tiles ++ steps ++ late ++ outside.2.2 ++ waits.2 ++ s.lateWork }

/-- R19: the next package cycle. -/
def execPackageCycleAdvance (s : State) : Host.Outcome State Fault Refusal :=
  .next (
    if s.hub.halted then s.enterRecords.tick.plan
    else (((s.haltDrained.flushUnsent.vaultEngines.eachCtx State.account).enterRecords.tick).eachCtx fun (s : State) t p _ => s.tidy t p).plan)

/-! ### The next step of a cycle -/

/-- What the wait of a context, or a promise, makes it do now. -/
def State.waitStep (s : State) (tile place : Nat) : Option Instr :=
  match s.ctx? tile place with
  | none => none
  | some c =>
    let clock := s.clock tile
    let ends : Bool := match c.wait with
      | some (.tokens seq _ _ mask any _) => c.waitMet clock mask any || !(c.raises clock seq (maskTokens mask)).isEmpty
      | some (.until _ _ _ v) => decide (v ≤ s.cycle)
      | some (.halt seq _ _) => !(c.raises clock seq (List.range 8)).isEmpty
      | some (.barrier _ _ _ _ _ (some a)) => decide (a.2.2 < clock)
      | _ => false
    if c.heldByDebug || c.stopping.isSome then none
    else if ends then some (.waitRelease tile place)
    else if (s.missedPromise tile c).isSome && c.take != some false then some (.promiseMissed tile place)
    else none

/-- The head bundle of a context that dispatches: its header, or its first refusal (R35). -/
def State.dispatchStep (s : State) (tile place : Nat) : Option Instr :=
  match s.ctx? tile place with
  | none => none
  | some c =>
    let b := s.bundleAt tile c.pc
    match s.refusal c b with
    | some (slot, true, _) => some (.illegalOpcode tile place slot)
    | some (slot, false, d) => some (.illegalEncoding tile place slot d)
    | none => (decodeHeader b.word b.lend).toOption

/-- The place of the context with the n-th lowest number of a tile, whose D syllable is asked n-th (R290). -/
def State.vaultTurn (s : State) (tile n : Nat) : Nat :=
  let key (p : Nat) : Nat := ((s.ctx? tile p).map fun c => 4 * c.num + p).getD (64 + p)
  let insert (l : List Nat) (p : Nat) : List Nat := l.takeWhile (fun x => decide (key x < key p)) ++ p :: l.dropWhile fun x => decide (key x < key p)
  (((List.range 4).foldl insert [])[n]?).getD n

/-- Whether the head of a slot queue is to leave now: a C syllable that acts last is asked as slot 7. -/
def State.leaveStep (s : State) (tile place slot : Nat) : Option Instr :=
  match s.ctx? tile place with
  | none => none
  | some c =>
    let k := if slot = 7 then 0 else slot
    match c.queue k with
    | [] => none
    | q :: _ =>
      let last := k == 0 && (match decode q.slot q.lend q.word with | .ok i => actsLast i | .error _ => false)
      if last == (slot == 7) && (slot != 7 || k == 0) then some (.slotQueueLeave tile place k) else none

/-- What ends a context, or takes it, in this cycle (R76, R77, R128, R141, R142, R477). -/
def State.enterStep (s : State) (tile place : Nat) : State × Option Instr :=
  match s.ctx? tile place with
  | none => (s, none)
  | some c =>
    match c.stopping with
    | some st => (s, if c.settled st then some (.trapEntry tile place) else none)
    | none =>
      match c.debugStop with
      | some d => (s.stopForDebug tile place d, some (.trapEntry tile place))
      | none =>
        (s,
          if c.mayRetire && (c.unreported (s.clock tile) (List.range 8)).isEmpty then some (.haltRetire tile place)
          else if !c.atBoundary then none
          else if c.take = some true then some (.park tile place)
          else if c.take = some false && c.savable then some (.fullSave tile place)
          else none)

/-- What an item of the list comes to. -/
def State.workStep (s : State) : Work → State × Option Instr
  | .event i => (s, some i)
  | .waits tile place => (s, s.waitStep tile place)
  | .dispatch tile =>
    match s.dispatchTurn tile with
    | (s1, none) => (s1, none)
    | (s1, some place) =>
      if ((s1.ctx? tile place).bind (·.cigon)).isSome then (s1.cigonDispatch tile place, none)
      else ({ s1 with issuing := some (tile, place) }, s1.dispatchStep tile place)
  | .leave tile place slot => (s, s.leaveStep tile (if slot = 5 then s.vaultTurn tile place else place) slot)
  | .enter tile place => s.enterStep tile place

/-- The next step of the list, what comes to nothing left out; at its end the cycle ends. The number is that of the items listed: what an
item that comes to nothing adds to the list is a step, at which this ends. -/
def State.pick : Nat → State → State × Instr
  | 0, s =>
    match s.agenda with
    | .event i :: rest => ({ s with agenda := rest }, i)
    | _ => ({ s with agenda := [] }, .packageCycleAdvance)
  | n + 1, s =>
    match s.agenda with
    | [] => (s, .packageCycleAdvance)
    | w :: rest =>
      match State.workStep { s with agenda := rest } w with
      | (s1, some i) => (s1, i)
      | (s1, none) => State.pick n s1

/-- The next step of the machine: the syllable at its engine, or the next of the cycle's list. -/
def State.fetch (s : State) : State × Instr :=
  match s.engine with
  | some e =>
    match decode e.q.slot e.q.lend e.q.word with
    | .ok i => (s, i)
    | .error (.encoding d) => ({ s with engine := none }, .illegalEncoding e.tile e.place e.q.slot d)
    | .error .opcode => ({ s with engine := none }, .illegalOpcode e.tile e.place e.q.slot)
  | none => State.pick s.agenda.length s

/-! ### A context to run an instruction in (log 6) -/

/-- A launch of one partition with nothing declared. -/
def Launch.plain : Launch :=
  { partitions := [(0, 0)], ordinal := 0, packages := 1, place := [], claimed := [], contexts := 1, deterministic := false, trusted := false
    sets := none, levels := [], variants := [], packet := 0, priority := 0, order := 0, object := 0, entry := 0, centry := none, argAddr := 0, argBytes := 0
    seed := 0, high := false, data := [], banks := [], flows := [], start := some 0, live := [(0, 0)], ending := none, far := ⟨0, false, [], false⟩, horizon := 0
    delivering := false }

/-- The state with a context at place 0 of tile 0 whose head bundle is free to dispatch: the one that is there, or that of a launch of
partition 0. -/
def State.readyContext (s : State) : State :=
  let s := match s.ctx? 0 0 with
    | some _ => s
    | none => State.putCtx { s with hub := { s.hub with launches := s.hub.launches.put 0 Launch.plain } } 0 0 (Launch.plain.context 0 0 0 s.cycle 0)
  let s := s.updTile 0 fun t => { t with clock := t.clock + 32, freeze := none }
  s.updCtx 0 0 fun c => { c with base := s.clock 0 - 32, wait := none, stopping := none, heldByDebug := false, take := none, haltRequest := false }

end Sys2Proof.Machine
end

