-- ==== Sys2Proof/Machine/Dispatch.lean ====
section
/-! DEFINITION. The meaning of every step of the opcode table: one arm per constructor. -/

namespace Sys2Proof.Machine

def exec (i : Instr) (s : State) : Host.Outcome State Fault Refusal :=
  match i with
  | .plainBundle h => Sys2Proof.Machine.execPlainBundle h s
  | .plainBundleWithLend h lend => Sys2Proof.Machine.execPlainBundleWithLend h lend s
  | .emptyRun count => Sys2Proof.Machine.execEmptyRun count s
  | .nop => Sys2Proof.Machine.execNop s
  | .extensionOpcode op rest => Sys2Proof.Machine.execExtensionOpcode op rest s
  | .br disp neg guard => Sys2Proof.Machine.execBr disp neg guard s
  | .call disp neg guard => Sys2Proof.Machine.execCall disp neg guard s
  | .ret ga => Sys2Proof.Machine.execRet ga s
  | .jmp ga imm => Sys2Proof.Machine.execJmp ga imm s
  | .loop n imm => Sys2Proof.Machine.execLoop n imm s
  | .loopr n imm => Sys2Proof.Machine.execLoopr n imm s
  | .lexit n neg p imm => Sys2Proof.Machine.execLexit n neg p imm s
  | .setrrb v => Sys2Proof.Machine.execSetrrb v s
  | .halt => Sys2Proof.Machine.execHalt s
  | .yield => Sys2Proof.Machine.execYield s
  | .sleept t => Sys2Proof.Machine.execSleept t s
  | .sleeptCyc ga => Sys2Proof.Machine.execSleeptCyc ga s
  | .waitt ga any mask => Sys2Proof.Machine.execWaitt ga any mask s
  | .fencex mask => Sys2Proof.Machine.execFencex mask s
  | .phase group => Sys2Proof.Machine.execPhase group s
  | .trap code => Sys2Proof.Machine.execTrap code s
  | .eret => Sys2Proof.Machine.execEret s
  | .csrr ga csr => Sys2Proof.Machine.execCsrr ga csr s
  | .csrw ga csr => Sys2Proof.Machine.execCsrw ga csr s
  | .temit ga tag => Sys2Proof.Machine.execTemit ga tag s
  | .shape ga pd z => Sys2Proof.Machine.execShape ga pd z s
  | .shapeq ga z => Sys2Proof.Machine.execShapeq ga z s
  | .shapeqCap ga => Sys2Proof.Machine.execShapeqCap ga s
  | .plog pd pa pb tt => Sys2Proof.Machine.execPlog pd pa pb tt s
  | .pmovg ga => Sys2Proof.Machine.execPmovg ga s
  | .pmovp ga gb => Sys2Proof.Machine.execPmovp ga gb s
  | .rdcyc ga => Sys2Proof.Machine.execRdcyc ga s
  | .setpri level => Sys2Proof.Machine.execSetpri level s
  | .slice ga pd k => Sys2Proof.Machine.execSlice ga pd k s
  | .replan ga => Sys2Proof.Machine.execReplan ga s
  | .bkpt code => Sys2Proof.Machine.execBkpt code s
  | .add o => Sys2Proof.Machine.execAdd o s
  | .sub o => Sys2Proof.Machine.execSub o s
  | .and o => Sys2Proof.Machine.execAnd o s
  | .or o => Sys2Proof.Machine.execOr o s
  | .xor o => Sys2Proof.Machine.execXor o s
  | .shl o => Sys2Proof.Machine.execShl o s
  | .shr o => Sys2Proof.Machine.execShr o s
  | .sra o => Sys2Proof.Machine.execSra o s
  | .mul o => Sys2Proof.Machine.execMul o s
  | .mulh o => Sys2Proof.Machine.execMulh o s
  | .mulhu o => Sys2Proof.Machine.execMulhu o s
  | .min o => Sys2Proof.Machine.execMin o s
  | .max o => Sys2Proof.Machine.execMax o s
  | .minu o => Sys2Proof.Machine.execMinu o s
  | .maxu o => Sys2Proof.Machine.execMaxu o s
  | .addi o => Sys2Proof.Machine.execAddi o s
  | .andi o => Sys2Proof.Machine.execAndi o s
  | .ori o => Sys2Proof.Machine.execOri o s
  | .xori o => Sys2Proof.Machine.execXori o s
  | .shli o => Sys2Proof.Machine.execShli o s
  | .shri o => Sys2Proof.Machine.execShri o s
  | .srai o => Sys2Proof.Machine.execSrai o s
  | .ldi o => Sys2Proof.Machine.execLdi o s
  | .ldih o => Sys2Proof.Machine.execLdih o s
  | .cmp o => Sys2Proof.Machine.execCmp o s
  | .cmpi o => Sys2Proof.Machine.execCmpi o s
  | .sel o => Sys2Proof.Machine.execSel o s
  | .bfx o => Sys2Proof.Machine.execBfx o s
  | .bfi o => Sys2Proof.Machine.execBfi o s
  | .fshl o => Sys2Proof.Machine.execFshl o s
  | .fshr o => Sys2Proof.Machine.execFshr o s
  | .popc o => Sys2Proof.Machine.execPopc o s
  | .clz o => Sys2Proof.Machine.execClz o s
  | .ctz o => Sys2Proof.Machine.execCtz o s
  | .brev o => Sys2Proof.Machine.execBrev o s
  | .div o => Sys2Proof.Machine.execDiv o s
  | .divu o => Sys2Proof.Machine.execDivu o s
  | .remu o => Sys2Proof.Machine.execRemu o s
  | .ld o => Sys2Proof.Machine.execLd o s
  | .st o => Sys2Proof.Machine.execSt o s
  | .ldacq o => Sys2Proof.Machine.execLdacq o s
  | .strel o => Sys2Proof.Machine.execStrel o s
  | .ldx o => Sys2Proof.Machine.execLdx o s
  | .stx o => Sys2Proof.Machine.execStx o s
  | .hld o => Sys2Proof.Machine.execHld o s
  | .hst o => Sys2Proof.Machine.execHst o s
  | .hset h rs code => Sys2Proof.Machine.execHset h rs code s
  | .hget rd h code => Sys2Proof.Machine.execHget rd h code s
  | .fadd o => Sys2Proof.Machine.execFadd o s
  | .fsub o => Sys2Proof.Machine.execFsub o s
  | .fmul o => Sys2Proof.Machine.execFmul o s
  | .fma o => Sys2Proof.Machine.execFma o s
  | .fms o => Sys2Proof.Machine.execFms o s
  | .fmin o => Sys2Proof.Machine.execFmin o s
  | .fmax o => Sys2Proof.Machine.execFmax o s
  | .fdiv o => Sys2Proof.Machine.execFdiv o s
  | .fsqrt o => Sys2Proof.Machine.execFsqrt o s
  | .frcp o => Sys2Proof.Machine.execFrcp o s
  | .frsq o => Sys2Proof.Machine.execFrsq o s
  | .fexp2 o => Sys2Proof.Machine.execFexp2 o s
  | .flog2 o => Sys2Proof.Machine.execFlog2 o s
  | .fcmp o => Sys2Proof.Machine.execFcmp o s
  | .fclass o => Sys2Proof.Machine.execFclass o s
  | .iadd o => Sys2Proof.Machine.execIadd o s
  | .isub o => Sys2Proof.Machine.execIsub o s
  | .imul o => Sys2Proof.Machine.execImul o s
  | .iand o => Sys2Proof.Machine.execIand o s
  | .ior o => Sys2Proof.Machine.execIor o s
  | .ixor o => Sys2Proof.Machine.execIxor o s
  | .ishl o => Sys2Proof.Machine.execIshl o s
  | .ishr o => Sys2Proof.Machine.execIshr o s
  | .isra o => Sys2Proof.Machine.execIsra o s
  | .icmp o => Sys2Proof.Machine.execIcmp o s
  | .imin o => Sys2Proof.Machine.execImin o s
  | .imax o => Sys2Proof.Machine.execImax o s
  | .vsel o => Sys2Proof.Machine.execVsel o s
  | .movl o => Sys2Proof.Machine.execMovl o s
  | .vbcast o => Sys2Proof.Machine.execVbcast o s
  | .vperm o => Sys2Proof.Machine.execVperm o s
  | .cvt o => Sys2Proof.Machine.execCvt o s
  | .qpack o => Sys2Proof.Machine.execQpack o s
  | .vreds o => Sys2Proof.Machine.execVreds o s
  | .vredm o => Sys2Proof.Machine.execVredm o s
  | .vscan o => Sys2Proof.Machine.execVscan o s
  | .vcompress o => Sys2Proof.Machine.execVcompress o s
  | .vlut o => Sys2Proof.Machine.execVlut o s
  | .vbfx o => Sys2Proof.Machine.execVbfx o s
  | .vfsh o => Sys2Proof.Machine.execVfsh o s
  | .vldx o => Sys2Proof.Machine.execVldx o s
  | .vstx o => Sys2Proof.Machine.execVstx o s
  | .vrng o => Sys2Proof.Machine.execVrng o s
  | .vdrop o => Sys2Proof.Machine.execVdrop o s
  | .vdigestInit => Sys2Proof.Machine.execVdigestInit s
  | .vdigestAbsorb a lend => Sys2Proof.Machine.execVdigestAbsorb a lend s
  | .vdigestFinish dst => Sys2Proof.Machine.execVdigestFinish dst s
  | .vmovg gd a lend => Sys2Proof.Machine.execVmovg gd a lend s
  | .vmovgM gd m => Sys2Proof.Machine.execVmovgM gd m s
  | .vmovgSetm m lend => Sys2Proof.Machine.execVmovgSetm m lend s
  | .wfmt fmt => Sys2Proof.Machine.execWfmt fmt s
  | .wload stream plane bank k => Sys2Proof.Machine.execWload stream plane bank k s
  | .wswap => Sys2Proof.Machine.execWswap s
  | .push row stream bank first => Sys2Proof.Machine.execPush row stream bank first s
  | .pushx row h bank first adv => Sys2Proof.Machine.execPushx row h bank first adv s
  | .pushg row h bank first adv => Sys2Proof.Machine.execPushg row h bank first adv s
  | .accz row fp all => Sys2Proof.Machine.execAccz row fp all s
  | .shift row count => Sys2Proof.Machine.execShift row count s
  | .drain row stream scale ty zero => Sys2Proof.Machine.execDrain row stream scale ty zero s
  | .afmt stream fmt code => Sys2Proof.Machine.execAfmt stream fmt code s
  | .act bank row => Sys2Proof.Machine.execAct bank row s
  | .pre bank => Sys2Proof.Machine.execPre bank s
  | .prea => Sys2Proof.Machine.execPrea s
  | .rd o => Sys2Proof.Machine.execRd o s
  | .rdx o => Sys2Proof.Machine.execRdx o s
  | .wr o => Sys2Proof.Machine.execWr o s
  | .wrm o => Sys2Proof.Machine.execWrm o s
  | .refpb bank => Sys2Proof.Machine.execRefpb bank s
  | .refab => Sys2Proof.Machine.execRefab s
  | .vstat bank gd sel => Sys2Proof.Machine.execVstat bank gd sel s
  | .bind ga h port narrow => Sys2Proof.Machine.execBind ga h port narrow s
  | .bindg ga h port narrow => Sys2Proof.Machine.execBindg ga h port narrow s
  | .unbind port post t => Sys2Proof.Machine.execUnbind port post t s
  | .sskip ga port => Sys2Proof.Machine.execSskip ga port s
  | .sqry ga port sel => Sys2Proof.Machine.execSqry ga port sel s
  | .cpy ga gb dkind skind t len => Sys2Proof.Machine.execCpy ga gb dkind skind t len s
  | .cpyb hd hs t => Sys2Proof.Machine.execCpyb hd hs t s
  | .cpych ga ch t kind => Sys2Proof.Machine.execCpych ga ch t kind s
  | .accw ga gb op t ty kind rel => Sys2Proof.Machine.execAccw ga gb op t ty kind rel s
  | .casw ga gb t ty kind rel => Sys2Proof.Machine.execCasw ga gb t ty kind rel s
  | .tokq ga t sel => Sys2Proof.Machine.execTokq ga t sel s
  | .tokclr t => Sys2Proof.Machine.execTokclr t s
  | .msend ga gb n t flow post => Sys2Proof.Machine.execMsend ga gb n t flow post s
  | .mcast ga gb n t flow post => Sys2Proof.Machine.execMcast ga gb n t flow post s
  | .mland ga gb n flow => Sys2Proof.Machine.execMland ga gb n flow s
  | .mqry ga sel flow => Sys2Proof.Machine.execMqry ga sel flow s
  | .binit ga gb t => Sys2Proof.Machine.execBinit ga gb t s
  | .barr ga gb t pd => Sys2Proof.Machine.execBarr ga gb t pd s
  | .bwait ga gb pd timed => Sys2Proof.Machine.execBwait ga gb pd timed s
  | .binv ga t => Sys2Proof.Machine.execBinv ga t s
  | .bqry ga gb t sel => Sys2Proof.Machine.execBqry ga gb t sel s
  | .pgsub ga gb t d128 => Sys2Proof.Machine.execPgsub ga gb t d128 s
  | .pgunsub ga => Sys2Proof.Machine.execPgunsub ga s
  | .pgcast ga gb t d128 catchUp => Sys2Proof.Machine.execPgcast ga gb t d128 catchUp s
  | .mrgopen ga d128 => Sys2Proof.Machine.execMrgopen ga d128 s
  | .mrg ga gb => Sys2Proof.Machine.execMrg ga gb s
  | .mrgfin ga gb bf16 raw => Sys2Proof.Machine.execMrgfin ga gb bf16 raw s
  | .domeq ga gb entry sel => Sys2Proof.Machine.execDomeq ga gb entry sel s
  | .sfload ga gb reset ns => Sys2Proof.Machine.execSfload ga gb reset ns s
  | .sfclamp ga gb => Sys2Proof.Machine.execSfclamp ga gb s
  | .sfseed ga gb keep entropy m => Sys2Proof.Machine.execSfseed ga gb keep entropy m s
  | .sfsweep ga gb t k => Sys2Proof.Machine.execSfsweep ga gb t k s
  | .sfread ga gb => Sys2Proof.Machine.execSfread ga gb s
  | .sfwrite ga gb => Sys2Proof.Machine.execSfwrite ga gb s
  | .sfqry ga t sel => Sys2Proof.Machine.execSfqry ga t sel s
  | .slotQueueLeave tile place slot => Sys2Proof.Machine.execSlotQueueLeave tile place slot s
  | .trapEntry tile place => Sys2Proof.Machine.execTrapEntry tile place s
  | .waitRelease tile place => Sys2Proof.Machine.execWaitRelease tile place s
  | .promiseMissed tile place => Sys2Proof.Machine.execPromiseMissed tile place s
  | .haltRetire tile place => Sys2Proof.Machine.execHaltRetire tile place s
  | .streamRowArrival who port => Sys2Proof.Machine.execStreamRowArrival who port s
  | .outputRowWrite who => Sys2Proof.Machine.execOutputRowWrite who s
  | .vaultReadLands tile => Sys2Proof.Machine.execVaultReadLands tile s
  | .debtIncrement tile => Sys2Proof.Machine.execDebtIncrement tile s
  | .forcedPrecharge tile => Sys2Proof.Machine.execForcedPrecharge tile s
  | .forcedRefab tile => Sys2Proof.Machine.execForcedRefab tile s
  | .forcedReactivate tile => Sys2Proof.Machine.execForcedReactivate tile s
  | .forcedRefreshRelease tile => Sys2Proof.Machine.execForcedRefreshRelease tile s
  | .temperatureMeasurement tile celsius => Sys2Proof.Machine.execTemperatureMeasurement tile celsius s
  | .graceWindowTimeout tile => Sys2Proof.Machine.execGraceWindowTimeout tile s
  | .thermalHalt => Sys2Proof.Machine.execThermalHalt s
  | .powerSample watts => Sys2Proof.Machine.execPowerSample watts s
  | .powerFaultHalt => Sys2Proof.Machine.execPowerFaultHalt s
  | .arrayHandover tile place => Sys2Proof.Machine.execArrayHandover tile place s
  | .park tile place => Sys2Proof.Machine.execPark tile place s
  | .fullSave tile place => Sys2Proof.Machine.execFullSave tile place s
  | .resumeParked who => Sys2Proof.Machine.execResumeParked who s
  | .restore who onTile => Sys2Proof.Machine.execRestore who onTile s
  | .preemptVictims launch => Sys2Proof.Machine.execPreemptVictims launch s
  | .beatDeparture tile => Sys2Proof.Machine.execBeatDeparture tile s
  | .beatArrival tile => Sys2Proof.Machine.execBeatArrival tile s
  | .freezeLimit tile => Sys2Proof.Machine.execFreezeLimit tile s
  | .flitReceive port crcOk depart payload => Sys2Proof.Machine.execFlitReceive port crcOk depart payload s
  | .alignmentLoss => Sys2Proof.Machine.execAlignmentLoss s
  | .horizonUpdate launch => Sys2Proof.Machine.execHorizonUpdate launch s
  | .quiescentApply launch => Sys2Proof.Machine.execQuiescentApply launch s
  | .copyBeatArrival op => Sys2Proof.Machine.execCopyBeatArrival op s
  | .caswReturnWrite op => Sys2Proof.Machine.execCaswReturnWrite op s
  | .walkComplete root va => Sys2Proof.Machine.execWalkComplete root va s
  | .hostReadCompletion op => Sys2Proof.Machine.execHostReadCompletion op s
  | .chainRecordStep tile ch => Sys2Proof.Machine.execChainRecordStep tile ch s
  | .barrierMessageApply tile => Sys2Proof.Machine.execBarrierMessageApply tile s
  | .barrierReplyLands who => Sys2Proof.Machine.execBarrierReplyLands who s
  | .bwaitReleaseLands who => Sys2Proof.Machine.execBwaitReleaseLands who s
  | .bwaitTimeout tile place => Sys2Proof.Machine.execBwaitTimeout tile place s
  | .pageMessageApply tile => Sys2Proof.Machine.execPageMessageApply tile s
  | .castBeatRead tile => Sys2Proof.Machine.execCastBeatRead tile s
  | .castBeatLanding tile => Sys2Proof.Machine.execCastBeatLanding tile s
  | .domeMerge tile => Sys2Proof.Machine.execDomeMerge tile s
  | .domeNoProgress tile launch => Sys2Proof.Machine.execDomeNoProgress tile launch s
  | .sfCommandApply die field => Sys2Proof.Machine.execSfCommandApply die field s
  | .colourStep die field => Sys2Proof.Machine.execColourStep die field s
  | .sfReplyLands who => Sys2Proof.Machine.execSfReplyLands who s
  | .qnotify fn q index => Sys2Proof.Machine.execQnotify fn q index s
  | .ringSlotRead fn q => Sys2Proof.Machine.execRingSlotRead fn q s
  | .ringSlotRepoll fn q => Sys2Proof.Machine.execRingSlotRepoll fn q s
  | .launch packet => Sys2Proof.Machine.execLaunch packet s
  | .launchStart launch => Sys2Proof.Machine.execLaunchStart launch s
  | .launchCompletion launch => Sys2Proof.Machine.execLaunchCompletion launch s
  | .copy packet => Sys2Proof.Machine.execCopy packet s
  | .waitSignal packet => Sys2Proof.Machine.execWaitSignal packet s
  | .waitSignalPoll packet => Sys2Proof.Machine.execWaitSignalPoll packet s
  | .waitSignalTimeout packet => Sys2Proof.Machine.execWaitSignalTimeout packet s
  | .signal packet => Sys2Proof.Machine.execSignal packet s
  | .packetCompletion packet => Sys2Proof.Machine.execPacketCompletion packet s
  | .queueEnable fn q on => Sys2Proof.Machine.execQueueEnable fn q on s
  | .queueResume fn q => Sys2Proof.Machine.execQueueResume fn q s
  | .pvfWrite partition lent => Sys2Proof.Machine.execPvfWrite partition lent s
  | .pwrlimitWrite value => Sys2Proof.Machine.execPwrlimitWrite value s
  | .eventWrite value => Sys2Proof.Machine.execEventWrite value s
  | .linkpadWrite port value => Sys2Proof.Machine.execLinkpadWrite port value s
  | .domctlStartAlignment => Sys2Proof.Machine.execDomctlStartAlignment s
  | .invctlStart => Sys2Proof.Machine.execInvctlStart s
  | .invalidationComplete => Sys2Proof.Machine.execInvalidationComplete s
  | .killGo partition => Sys2Proof.Machine.execKillGo partition s
  | .registerWrite fn bar offset size value => Sys2Proof.Machine.execRegisterWrite fn bar offset size value s
  | .windowRead offset size => Sys2Proof.Machine.execWindowRead offset size s
  | .windowWrite offset data => Sys2Proof.Machine.execWindowWrite offset data s
  | .windowFetchadd offset size value => Sys2Proof.Machine.execWindowFetchadd offset size value s
  | .windowSwap offset size value => Sys2Proof.Machine.execWindowSwap offset size value s
  | .windowCas offset size compare value => Sys2Proof.Machine.execWindowCas offset size compare value s
  | .functionLevelReset fn => Sys2Proof.Machine.execFunctionLevelReset fn s
  | .load packet => Sys2Proof.Machine.execLoad packet s
  | .unload packet => Sys2Proof.Machine.execUnload packet s
  | .unloadPendingRemoval object => Sys2Proof.Machine.execUnloadPendingRemoval object s
  | .microcodeInstall id entries image => Sys2Proof.Machine.execMicrocodeInstall id entries image s
  | .remapTableWrite die entries => Sys2Proof.Machine.execRemapTableWrite die entries s
  | .boot image => Sys2Proof.Machine.execBoot image s
  | .recoveryStart image => Sys2Proof.Machine.execRecoveryStart image s
  | .getVersion => Sys2Proof.Machine.execGetVersion s
  | .getCapabilities => Sys2Proof.Machine.execGetCapabilities s
  | .negotiateAlgorithms => Sys2Proof.Machine.execNegotiateAlgorithms s
  | .getDigests => Sys2Proof.Machine.execGetDigests s
  | .getCertificate => Sys2Proof.Machine.execGetCertificate s
  | .challenge nonce => Sys2Proof.Machine.execChallenge nonce s
  | .getMeasurements index => Sys2Proof.Machine.execGetMeasurements index s
  | .debugAuthorisation token => Sys2Proof.Machine.execDebugAuthorisation token s
  | .attach tile place => Sys2Proof.Machine.execAttach tile place s
  | .detach tile place => Sys2Proof.Machine.execDetach tile place s
  | .debugHalt tile place => Sys2Proof.Machine.execDebugHalt tile place s
  | .step tile place => Sys2Proof.Machine.execStep tile place s
  | .resume tile place => Sys2Proof.Machine.execResume tile place s
  | .ctxrd who => Sys2Proof.Machine.execCtxrd who s
  | .ctxwr who image => Sys2Proof.Machine.execCtxwr who image s
  | .memrd tile space addr size => Sys2Proof.Machine.execMemrd tile space addr size s
  | .memwr tile space addr data => Sys2Proof.Machine.execMemwr tile space addr data s
  | .brkset tile k addr mask on => Sys2Proof.Machine.execBrkset tile k addr mask on s
  | .fiford tile count => Sys2Proof.Machine.execFiford tile count s
  | .trigger => Sys2Proof.Machine.execTrigger s
  | .snaprd => Sys2Proof.Machine.execSnaprd s
  | .patrolScrub tile word addr finding => Sys2Proof.Machine.execPatrolScrub tile word addr finding s
  | .ageingCheck tile marginLow => Sys2Proof.Machine.execAgeingCheck tile marginLow s
  | .tileRetirement tile => Sys2Proof.Machine.execTileRetirement tile s
  | .controlStateFault tile place code => Sys2Proof.Machine.execControlStateFault tile place code s
  | .lockstepFailure restartable => Sys2Proof.Machine.execLockstepFailure restartable s
  | .packageCycleAdvance => Sys2Proof.Machine.execPackageCycleAdvance s
  | .illegalOpcode tile place slot => Sys2Proof.Machine.execIllegalOpcode tile place slot s
  | .illegalEncoding tile place slot detail => Sys2Proof.Machine.execIllegalEncoding tile place slot detail s
  | .lateLanding tile place => Sys2Proof.Machine.execLateLanding tile place s
  | .linkTrainingDone port raw => Sys2Proof.Machine.execLinkTrainingDone port raw s
  | .alignmentComplete => Sys2Proof.Machine.execAlignmentComplete s
  | .copySourceRead op => Sys2Proof.Machine.execCopySourceRead op s
  | .copyService tile op => Sys2Proof.Machine.execCopyService tile op s

end Sys2Proof.Machine
end

