-- ==== Sys2Proof/Machine/Step.lean ====
section
/-! DEFINITION. One step of the machine: the instruction that fetch finds, executed; and the state in which a given word is that
instruction (log 6). -/

namespace Sys2Proof.Machine

/-- One step: the syllable at its engine, or the next thing that this package cycle has to do. -/
def step (s : State) : Host.Outcome State Fault Refusal := exec s.fetch.2 s.fetch.1

/-- The slot whose decoder reads the table's instruction from a word, if it is an op syllable. -/
def slotOfWord (w : Word32) (i : Instr) : Option Nat :=
  [0, 1, 3, 4, 5, 6].find? fun k => (decode k (lendOf i) w).toOption == some i

/-- Puts a word where the next step takes its instruction from: an op syllable at its engine, in the context at place 0 of tile 0; a
header, with the syllables that its bundle has as zero words, at that context's pc, with the tile about to dispatch (log 6). -/
def State.withFetchWord (s : State) (nbits w : Nat) : State :=
  let word : Word32 := BitVec.ofNat 32 w
  let s := s.readyContext
  match decodeTableWord nbits w, s.ctx? 0 0 with
  | some i, some c =>
    match slotOfWord word i with
    | some k =>
      let q : Queued := { Queued.none_ with slot := k, word := word, lend := lendOf i, seq := c.seq, disp := s.clock 0, addr := c.pc, left := s.clock 0 }
      { s with engine := some ⟨0, 0, q⟩ }
    | none =>
      { s with
        engine := none
        agenda := [.dispatch 0]
        code := s.code.writeN (codeKey 0 c.pc) (leBytes 4 word.toNat ++ List.replicate 32 0) }
  | _, _ => { s with engine := some ⟨0, 0, { Queued.none_ with slot := 0, word := word }⟩ }

end Sys2Proof.Machine
end

