-- ==== Sys2Proof/Safety.lean ====
section
/-! DEFINITION. What the statements speak of: a step that goes on, storage in its canonical form, a syllable at its engine, the
state that it leaves, and what a syllable leaves alone. -/

namespace Sys2Proof.Machine

/-! ### Runs and storage -/

/-- The byte memory and the code memory hold one form for each content. -/
def State.Canonical (s : State) : Prop := Memory.wf s.mem = true ∧ Memory.wf s.code = true

/-- A step goes on: it neither faults nor is refused. -/
def State.GoesOn (s : State) : Prop := ∃ t, step s = .next t

/-- Every register table of a file lists its registers in order, one entry for each. -/
def RegFile.Ordered (f : RegFile) : Prop :=
  Table.sorted f.g = true ∧ Table.sorted f.h = true ∧ Table.sorted f.v = true ∧ Table.sorted f.m = true ∧
    Table.sorted f.z = true ∧ Table.sorted f.csr = true

/-- The results on their way stand in the order of R52. -/
def Ctx.Ordered (c : Ctx) : Prop := c.regs.Ordered ∧ c.writes.Pairwise fun a b => a.before b = true

/-- g0 reads as zero without poison, and p0 as true (R46, R59, R171): nothing is on its way to them. -/
def Ctx.HardWired (c : Ctx) : Prop :=
  c.regs.get (.g 0) = 0 ∧ c.regs.gPoison.getLsbD 0 = false ∧ c.regs.p.getLsbD 0 = true ∧ ∀ w ∈ c.writes, w.reg.discards = false

/-! ### A syllable at its engine -/

/-- The syllable e of context c is at its engine. -/
def State.AtEngine (s : State) (e : Issued) (c : Ctx) : Prop := s.engine = some e ∧ s.ctx? e.tile e.place = some c

/-- The state once that syllable has taken effect and left its context as c': the engine is free and the slot of its bundle is done. -/
def State.finish (s : State) (e : Issued) (c' : Ctx) : State :=
  { s with engine := none, ctxs := s.ctxs.put (ctxKey e.tile e.place) (c'.markDone e.q.seq e.q.slot) }

/-- The state once that syllable has raised a trap in its context c (R75). -/
def State.raise (s : State) (e : Issued) (c : Ctx) (t : Trap) : State :=
  { s with engine := none, ctxs := s.ctxs.put (ctxKey e.tile e.place) (c.trapAt s.cycle e.q.seq e.q.slot t) }

/-- A source g register is not poisoned for a syllable. -/
def Ctx.CleanG (c : Ctx) (q : Queued) (n : BitVec 6) : Prop := c.gPoisoned q n = false

/-- The instruction goes on, takes effect on the context of its syllable alone, and leaves that context as c'. -/
def Completes (i : Instr) (s : State) (e : Issued) (c' : Ctx) : Prop := exec i s = .next (s.finish e c')

/-- The instruction raises a trap for its syllable and nothing else happens. -/
def Raises (i : Instr) (s : State) (e : Issued) (c : Ctx) (t : Trap) : Prop := exec i s = .next (s.raise e c t)

/-- The instruction goes on; then the engine is free, and P holds of the state and of the context of its syllable. -/
def Leaves (i : Instr) (s : State) (e : Issued) (P : State → Ctx → Prop) : Prop :=
  ∃ t c', exec i s = .next t ∧ t.engine = none ∧ t.ctx? e.tile e.place = some c' ∧ P t c'

/-- The address of a bundle start of a tile's code (R25). -/
def State.Target (s : State) (tile : Nat) (a : Nat) : Prop := a < 0x10000 ∧ a % 4 = 0 ∧ s.startBit tile a = true

/-! ### What a syllable leaves alone -/

/-- A context holds a register, its poison and every result on its way to it as another does. -/
def Ctx.SameReg (c c' : Ctx) (r : Reg) : Prop :=
  c'.regs.get r = c.regs.get r ∧ c'.regs.poison r = c.regs.poison r ∧
    c'.writes.filter (fun w => w.reg == r) = c.writes.filter (fun w => w.reg == r)

/-- All of memory reads as before, and its poison stands as before. -/
def State.SameMemory (s t : State) : Prop := (∀ a, t.mem.read a = s.mem.read a) ∧ t.poison = s.poison ∧ t.code = s.code

/-- Every byte outside n bytes from a key reads as before. -/
def State.SameMemoryBut (s t : State) (key n : Nat) : Prop :=
  ∀ a, (a < key ∨ key + n ≤ a) → t.mem.read a = s.mem.read a

/-- Every context but the one at a place is as before. -/
def State.SameOthers (s t : State) (tile place : Nat) : Prop :=
  ∀ k, k ≠ ctxKey tile place → t.ctxs.find? k = s.ctxs.find? k

end Sys2Proof.Machine
end

