-- ==== Sys2Proof/Certificates/Slice0/Obligations.lean ====
section
/-! DEFINITION. The statements for the provers, from the numbered rules of the manual. -/

open Sys2Proof Sys2Proof.Machine

/-! ### The scalar pair (08_scalar) -/

/-- R186: ADD and SUB wrap; .w acts on the low halves and sign-extends; .sat clamps to the signed range and sets SATURATED only
then. The result is visible one cycle after dispatch (Table 8.2). -/
def Sys2Proof.Machine.AddSubRule : Prop :=
  ∀ (s : State) (e : Issued) (c : Ctx) (o : R3), s.AtEngine e c → guardHolds c e.q o.guard o.neg = true →
    c.CleanG e.q o.rs1 → c.CleanG e.q o.rs2 →
    let a := c.gRaw e.q o.rs1
    let b := c.gRaw e.q o.rs2
    let low (v : Word64) : Word64 := (v.setWidth 32).signExtend 64
    let clamps (i : Instr) (exact : Int) : Prop :=
      (-(2 ^ 63) ≤ exact → exact < 2 ^ 63 → Completes i s e (c.resultG e.q 1 o.rd (BitVec.ofInt 64 exact))) ∧
      (exact < -(2 ^ 63) →
        Completes i s e ((c.resultG e.q 1 o.rd 0x8000000000000000).setFlags e.q 1 0x48 1)) ∧
      (2 ^ 63 ≤ exact →
        Completes i s e ((c.resultG e.q 1 o.rd 0x7FFFFFFFFFFFFFFF).setFlags e.q 1 0x48 1))
    (o.var = 0 → Completes (.add o) s e (c.resultG e.q 1 o.rd (a + b)) ∧ Completes (.sub o) s e (c.resultG e.q 1 o.rd (a - b))) ∧
    (o.var = 1 → Completes (.add o) s e (c.resultG e.q 1 o.rd (low (a + b))) ∧
      Completes (.sub o) s e (c.resultG e.q 1 o.rd (low (a - b)))) ∧
    (o.var = 2 → clamps (.add o) (a.toInt + b.toInt) ∧ clamps (.sub o) (a.toInt - b.toInt))

/-- R186: the bitwise operations, and MIN, MAX, MINU and MAXU in their 64-bit and .w forms. -/
def Sys2Proof.Machine.LogicRule : Prop :=
  ∀ (s : State) (e : Issued) (c : Ctx) (o : R3), s.AtEngine e c → guardHolds c e.q o.guard o.neg = true →
    c.CleanG e.q o.rs1 → c.CleanG e.q o.rs2 →
    let a := c.gRaw e.q o.rs1
    let b := c.gRaw e.q o.rs2
    let la : BitVec 32 := a.setWidth 32
    let lb : BitVec 32 := b.setWidth 32
    let gives (i : Instr) (v : Word64) : Prop := Completes i s e (c.resultG e.q 1 o.rd v)
    gives (.and o) (a &&& b) ∧ gives (.or o) (a ||| b) ∧ gives (.xor o) (a ^^^ b) ∧
    (o.var = 0 →
      gives (.min o) (BitVec.ofInt 64 (min a.toInt b.toInt)) ∧ gives (.max o) (BitVec.ofInt 64 (max a.toInt b.toInt)) ∧
      gives (.minu o) (BitVec.ofNat 64 (min a.toNat b.toNat)) ∧ gives (.maxu o) (BitVec.ofNat 64 (max a.toNat b.toNat))) ∧
    (o.var = 1 →
      gives (.min o) (BitVec.ofInt 64 (min la.toInt lb.toInt)) ∧ gives (.max o) (BitVec.ofInt 64 (max la.toInt lb.toInt)) ∧
      gives (.minu o) (BitVec.ofNat 64 (min la.toNat lb.toNat)) ∧ gives (.maxu o) (BitVec.ofNat 64 (max la.toNat lb.toNat)))

/-- R186: ADD and SUB in their variants, the bitwise operations, and the minima and maxima. -/
def Obligations.ArithmeticAndLogicResults : Prop := AddSubRule ∧ LogicRule

/-- R187: the products, visible three cycles after dispatch. MULH and MULHU give bits [127:64] of the exact product. -/
def Sys2Proof.Machine.MultiplyRule : Prop :=
  ∀ (s : State) (e : Issued) (c : Ctx) (o : R3), s.AtEngine e c → guardHolds c e.q o.guard o.neg = true →
    c.CleanG e.q o.rs1 → c.CleanG e.q o.rs2 →
    let a := c.gRaw e.q o.rs1
    let b := c.gRaw e.q o.rs2
    let gives (i : Instr) (v : Word64) : Prop := Completes i s e (c.resultG e.q 3 o.rd v)
    (o.var = 0 → gives (.mul o) (a * b)) ∧
    (o.var = 1 → gives (.mul o) ((a.setWidth 32 * b.setWidth 32 : BitVec 32).signExtend 64)) ∧
    gives (.mulh o) ((a.signExtend 128 * b.signExtend 128 : BitVec 128).extractLsb' 64 64) ∧
    gives (.mulhu o) ((a.setWidth 128 * b.setWidth 128 : BitVec 128).extractLsb' 64 64)

/-- R188 and Table 8.3a: DIV, DIVU and REMU in both widths, with division by zero (DIV_ZERO, bit 9 of FLAGS_S) and the signed
overflow (DIV_OVERFLOW, bit 10). The result is visible 20 cycles after dispatch. -/
def Sys2Proof.Machine.DivisionRule : Prop :=
  ∀ (s : State) (e : Issued) (c : Ctx) (o : R3), s.AtEngine e c → guardHolds c e.q o.guard o.neg = true →
    c.CleanG e.q o.rs1 → c.CleanG e.q o.rs2 →
    let a := c.gRaw e.q o.rs1
    let b := c.gRaw e.q o.rs2
    let la : BitVec 32 := a.setWidth 32
    let lb : BitVec 32 := b.setWidth 32
    let gives (i : Instr) (v : Word64) : Prop := Completes i s e (c.resultG e.q 20 o.rd v)
    let flags (i : Instr) (v : Word64) (f : Nat) : Prop := Completes i s e ((c.resultG e.q 20 o.rd v).setFlags e.q 20 0x48 f)
    (o.var = 0 → b = 0 →
      flags (.div o) (BitVec.allOnes 64) 0x200 ∧ flags (.divu o) (BitVec.allOnes 64) 0x200 ∧ flags (.remu o) a 0x200) ∧
    (o.var = 0 → b ≠ 0 →
      (¬ (a = BitVec.intMin 64 ∧ b = -1) → gives (.div o) (a.sdiv b)) ∧
      (a = BitVec.intMin 64 → b = -1 → flags (.div o) a 0x400) ∧
      gives (.divu o) (a / b) ∧ gives (.remu o) (a % b)) ∧
    (o.var = 1 → lb = 0 →
      flags (.div o) (BitVec.allOnes 64) 0x200 ∧ flags (.divu o) 0xFFFFFFFF 0x200 ∧ flags (.remu o) (la.setWidth 64) 0x200) ∧
    (o.var = 1 → lb ≠ 0 →
      (¬ (la = BitVec.intMin 32 ∧ lb = -1) → gives (.div o) ((la.sdiv lb).signExtend 64)) ∧
      (la = BitVec.intMin 32 → lb = -1 → flags (.div o) (la.signExtend 64) 0x400) ∧
      gives (.divu o) ((la / lb).setWidth 64) ∧ gives (.remu o) ((la % lb).setWidth 64))

/-- R187, R188: the products and the divisions. -/
def Obligations.MultiplyAndDivideResults : Prop := MultiplyRule ∧ DivisionRule

/-- R189: the shifts by a register and by an immediate, with the counts and the .w forms. -/
def Obligations.ShiftResults : Prop :=
  ∀ (s : State) (e : Issued) (c : Ctx), s.AtEngine e c →
    (∀ o : R3, guardHolds c e.q o.guard o.neg = true → c.CleanG e.q o.rs1 → c.CleanG e.q o.rs2 →
      let a := c.gRaw e.q o.rs1
      let b := c.gRaw e.q o.rs2
      let la : BitVec 32 := a.setWidth 32
      let n := (b.extractLsb' 0 6 : BitVec 6).toNat
      let nw := (b.extractLsb' 0 5 : BitVec 5).toNat
      let gives (i : Instr) (v : Word64) : Prop := Completes i s e (c.resultG e.q 1 o.rd v)
      (o.var = 0 → gives (.shl o) (a <<< n) ∧ gives (.shr o) (a >>> n) ∧ gives (.sra o) (a.sshiftRight n)) ∧
      (o.var = 1 → gives (.shl o) ((la <<< nw).setWidth 64) ∧ gives (.shr o) ((la >>> nw).setWidth 64) ∧
        gives (.sra o) ((la.sshiftRight nw).signExtend 64))) ∧
    (∀ o : ShiftI, c.CleanG e.q o.rs1 →
      let a := c.gRaw e.q o.rs1
      let la : BitVec 32 := a.setWidth 32
      let n := o.count.toNat
      let gives (i : Instr) (v : Word64) : Prop := Completes i s e (c.resultG e.q 1 o.rd v)
      (o.narrow = false → gives (.shli o) (a <<< n) ∧ gives (.shri o) (a >>> n) ∧ gives (.srai o) (a.sshiftRight n)) ∧
      (o.narrow = true → gives (.shli o) ((la <<< n).setWidth 64) ∧ gives (.shri o) ((la >>> n).setWidth 64) ∧
        gives (.srai o) ((la.sshiftRight n).signExtend 64)))

/-- R190, R191: bit by bit, what BFX, BFX.s and BFI do with the field of w bits at pos that g[rs2] describes, and the half of the
128-bit pair that FSHL and FSHR write. -/
def Sys2Proof.Machine.FieldRule : Prop :=
  ∀ (s : State) (e : Issued) (c : Ctx) (o : R3), s.AtEngine e c → guardHolds c e.q o.guard o.neg = true →
    c.CleanG e.q o.rs1 → c.CleanG e.q o.rs2 →
    let a := c.gRaw e.q o.rs1
    let b := c.gRaw e.q o.rs2
    let d := c.gRaw e.q o.rd
    let pos := (b.extractLsb' 0 6 : BitVec 6).toNat
    let w := (b.extractLsb' 8 6 : BitVec 6).toNat + 1
    let n := (b.extractLsb' 0 6 : BitVec 6).toNat
    let gives (i : Instr) (v : Word64) : Prop := Completes i s e (c.resultG e.q 1 o.rd v)
    (∃ r : Word64, gives (.bfx o) r ∧
      (∀ j, j < w → r.getLsbD j = a.getLsbD (pos + j)) ∧
      ∀ j, w ≤ j → j < 64 → r.getLsbD j = (o.var == 1 && a.getLsbD (pos + w - 1))) ∧
    (c.CleanG e.q o.rd →
      (∃ r : Word64, gives (.bfi o) r ∧
        ∀ j, j < 64 → r.getLsbD j = if pos ≤ j ∧ j < pos + w then a.getLsbD (j - pos) else d.getLsbD j) ∧
      gives (.fshl o) (((d ++ a : BitVec 128) <<< n).extractLsb' 64 64) ∧
      gives (.fshr o) (((a ++ d : BitVec 128) >>> n).extractLsb' 0 64))

/-- R192: POPC, CLZ, CTZ and BREV over the low n bits of g[rs1], 64 or 32 of them. -/
def Sys2Proof.Machine.CountRule : Prop :=
  ∀ (s : State) (e : Issued) (c : Ctx) (o : R3), s.AtEngine e c → guardHolds c e.q o.guard o.neg = true →
    c.CleanG e.q o.rs1 → c.CleanG e.q o.rs2 →
    let a := c.gRaw e.q o.rs1
    let n := if o.var = 0 then 64 else 32
    let gives (i : Instr) (v : Word64) : Prop := Completes i s e (c.resultG e.q 1 o.rd v)
    gives (.popc o) (BitVec.ofNat 64 ((List.range n).filter fun j => a.getLsbD j).length) ∧
    (∃ k, k ≤ n ∧ gives (.clz o) (BitVec.ofNat 64 k) ∧ (∀ j, j < k → a.getLsbD (n - 1 - j) = false) ∧
      (k < n → a.getLsbD (n - 1 - k) = true)) ∧
    (∃ k, k ≤ n ∧ gives (.ctz o) (BitVec.ofNat 64 k) ∧ (∀ j, j < k → a.getLsbD j = false) ∧ (k < n → a.getLsbD k = true)) ∧
    (∃ r : Word64, gives (.brev o) r ∧ ∀ j, j < 64 → r.getLsbD j = (decide (j < n) && a.getLsbD (n - 1 - j)))

/-- R190-R192: bit fields, funnel shifts and counts. -/
def Obligations.FieldAndCountResults : Prop := FieldRule ∧ CountRule

/-- R193: the immediate forms, whose constant is imm14, or imm22 with a lend byte (R40), sign-extended. -/
def Obligations.ImmediateResults : Prop :=
  ∀ (s : State) (e : Issued) (c : Ctx), s.AtEngine e c →
    (∀ o : RI, c.CleanG e.q o.rs1 →
      let a := c.gRaw e.q o.rs1
      let k : Word64 := match o.lend with
        | none => o.imm.signExtend 64
        | some b => (b ++ o.imm : BitVec 22).signExtend 64
      let gives (i : Instr) (v : Word64) : Prop := Completes i s e (c.resultG e.q 1 o.rd v)
      gives (.addi o) (a + k) ∧ gives (.andi o) (a &&& k) ∧ gives (.ori o) (a ||| k) ∧ gives (.xori o) (a ^^^ k)) ∧
    (∀ o : LoadI,
      let k : Word64 := match o.lend with
        | none => o.imm.signExtend 64
        | some b => (b ++ o.imm : BitVec 22).signExtend 64
      Completes (.ldi o) s e (c.resultG e.q 1 o.rd k) ∧
      (c.CleanG e.q o.rd → Completes (.ldih o) s e
        (c.resultG e.q 1 o.rd (((c.gRaw e.q o.rd).extractLsb' 0 42 ++ (k.extractLsb' 0 22 : BitVec 22) : BitVec 64)))))

/-- R194, R195: the conditions of Table 8.3, the immediate of CMPI, and SEL, which writes in either case and consumes only the register that it
selects. -/
def Obligations.CompareSelectResults : Prop :=
  ∀ (s : State) (e : Issued) (c : Ctx), s.AtEngine e c →
    (∀ o : R3, guardHolds c e.q o.guard o.neg = true → c.CleanG e.q o.rs1 → c.CleanG e.q o.rs2 →
      let a := c.gRaw e.q o.rs1
      let b := c.gRaw e.q o.rs2
      let gives (v : Bool) : Prop := Completes (.cmp o) s e (c.resultP e.q 1 (o.rd.setWidth 5).toNat v)
      (o.var = 0 → gives (decide (a = b))) ∧ (o.var = 1 → gives (decide (a ≠ b))) ∧
      (o.var = 2 → o.rd.getLsbD 5 = false → gives (decide (a.toInt < b.toInt))) ∧
      (o.var = 3 → o.rd.getLsbD 5 = false → gives (decide (b.toInt ≤ a.toInt))) ∧
      (o.var = 2 → o.rd.getLsbD 5 = true → gives (decide (a.toNat < b.toNat))) ∧
      (o.var = 3 → o.rd.getLsbD 5 = true → gives (decide (b.toNat ≤ a.toNat)))) ∧
    (∀ o : RI, c.CleanG e.q o.rs1 →
      let a := c.gRaw e.q o.rs1
      let i12 : BitVec 12 := o.imm.extractLsb' 0 12
      let b : Word64 := match o.lend with
        | none => i12.signExtend 64
        | some x => (x ++ i12 : BitVec 20).signExtend 64
      let cond : BitVec 2 := o.imm.extractLsb' 12 2
      let gives (v : Bool) : Prop := Completes (.cmpi o) s e (c.resultP e.q 1 (o.rd.setWidth 5).toNat v)
      (cond = 0 → gives (decide (a = b))) ∧ (cond = 1 → gives (decide (a ≠ b))) ∧
      (cond = 2 → o.rd.getLsbD 5 = false → gives (decide (a.toInt < b.toInt))) ∧
      (cond = 3 → o.rd.getLsbD 5 = false → gives (decide (b.toInt ≤ a.toInt))) ∧
      (cond = 2 → o.rd.getLsbD 5 = true → gives (decide (a.toNat < b.toNat))) ∧
      (cond = 3 → o.rd.getLsbD 5 = true → gives (decide (b.toNat ≤ a.toNat)))) ∧
    (∀ o : R3,
      let picked := if guardHolds c e.q o.guard o.neg then o.rs1 else o.rs2
      (c.CleanG e.q picked → Completes (.sel o) s e (c.resultG e.q 1 o.rd (c.gRaw e.q picked))) ∧
      (¬ c.CleanG e.q picked → Raises (.sel o) s e c { cause := 0x05, detail := 0x20, value := picked.setWidth 48 }))

/-- R181, R182, R138: under a false guard a guarded form does nothing and raises nothing; under a true one its first poisoned source raises
POISON with detail 0x0020 and the register as encoded, rs1 before rs2. -/
def Obligations.GuardsAndPoison : Prop :=
  ∀ (s : State) (e : Issued) (c : Ctx) (i : Instr) (o : R3), s.AtEngine e c → r3Of i = some o → (∀ o', i ≠ .sel o') →
    (guardHolds c e.q o.guard o.neg = false → Completes i s e c) ∧
    (guardHolds c e.q o.guard o.neg = true → ¬ c.CleanG e.q o.rs1 →
      Raises i s e c { cause := 0x05, detail := 0x20, value := o.rs1.setWidth 48 }) ∧
    (guardHolds c e.q o.guard o.neg = true → c.CleanG e.q o.rs1 → ¬ c.CleanG e.q o.rs2 →
      Raises i s e c { cause := 0x05, detail := 0x20, value := o.rs2.setWidth 48 })

/-- R202, R180: HGET gives a field zero-extended; HSET replaces that field alone, keeps the poison and reports dropped bits; a poisoned
handle or register raises POISON. lo and w are the first bit and the width of the field (Tables 9.2, 9.4). -/
def Obligations.HandleFieldResults : Prop :=
  ∀ (s : State) (e : Issued) (c : Ctx) (code : BitVec 14), s.AtEngine e c →
    let lo := (handleField code.toNat).1
    let w := (handleField code.toNat).2
    (∀ (rd : BitVec 6) (h : BitVec 4),
      let v : Handle := (c.regsAt e.q.disp).h.getD h.toNat 0
      ((c.regsAt e.q.disp).hPoison.getLsbD h.toNat = false → ∃ r : Word64,
        Completes (.hget rd h code) s e (c.resultG e.q 1 rd r) ∧
          ∀ j, j < 64 → r.getLsbD j = (decide (j < w) && v.getLsbD (lo + j))) ∧
      ((c.regsAt e.q.disp).hPoison.getLsbD h.toNat = true →
        Raises (.hget rd h code) s e c { cause := 0x05, detail := 0x24, value := h.setWidth 48 })) ∧
    (∀ (h : BitVec 4) (rs : BitVec 6),
      let v := c.gRaw e.q rs
      (c.CleanG e.q rs → ∃ x : RegWrite,
        Completes (.hset h rs code) s e ((c.post x).setFlags e.q 1 0x48 (if v.toNat < 2 ^ w then 0 else 0x100)) ∧
          x.reg = .h h.toNat ∧ x.vis = e.q.disp + 1 ∧ x.poison = none ∧
          ∀ j, j < 256 → x.mask.getLsbD j = (decide (lo ≤ j) && decide (j < lo + w)) ∧
            (x.mask.getLsbD j = true → x.val.getLsbD j = v.getLsbD (j - lo))) ∧
      (¬ c.CleanG e.q rs → Raises (.hset h rs code) s e c { cause := 0x05, detail := 0x20, value := rs.setWidth 48 }))

/-- The checks that R196 makes of n bytes at an address, in its order: alignment, data SRAM, reserved window; then the set check of R104 and
the address registers. All pass. -/
def Sys2Proof.Machine.ScAllowed (s : State) (e : Issued) (c : Ctx) (ea : Word64) (n : Nat) (write sync : Bool) : Prop :=
  ea.toNat % n = 0 ∧ ea.toNat + n ≤ 0x0FB000 ∧ s.setCheck e.tile c e.q.group 0 (!write) write sync false ea.toNat n = none

/-- The number v is the n bytes at an address of the tile's SRAM, least significant first; a byte that a write of the syllable's own bundle
has overwritten counts as it was before (R90). -/
def Sys2Proof.Machine.ScBytes (s : State) (e : Issued) (c : Ctx) (ea : Word64) (n v : Nat) : Prop :=
  v < 256 ^ n ∧ ∀ j, j < n → v / 256 ^ j % 256 =
    (beforeHidden (fun u => u.seq == e.q.seq)
      (s.mem.read (sramKey e.tile (ea.toNat + j)), s.poison.contains (sramKey e.tile (ea.toNat + j) / 64))
      (c.undo.filter fun u => u.addr == ea.toNat + j).reverse).1.toNat

/-- Whether one of those bytes is poisoned, as it was before the bundle's own writes (R90, R200). -/
def Sys2Proof.Machine.ScPoison (s : State) (e : Issued) (c : Ctx) (ea : Word64) (n : Nat) : Bool :=
  (List.range n).any fun j =>
    (beforeHidden (fun u => u.seq == e.q.seq)
      (s.mem.read (sramKey e.tile (ea.toNat + j)), s.poison.contains (sramKey e.tile (ea.toNat + j) / 64))
      (c.undo.filter fun u => u.addr == ea.toNat + j).reverse).2

/-- A register value is n bytes of a size code extended to 64 bits (Table 2.9): zeros, or copies of the top bit for the codes 100 to 110. -/
def Sys2Proof.Machine.Extended (size : BitVec 3) (v : Nat) (r : Word64) : Prop :=
  let bits := 8 * 2 ^ (size.toNat % 4)
  r.toNat % 2 ^ bits = v ∧ ∀ j, bits ≤ j → j < 64 → r.getLsbD j = (decide (4 ≤ size.toNat) && r.getLsbD (bits - 1))

/-- R196, R197, R200, R201: an allowed load from clean address registers gives its bytes, extended, with their poison: four cycles after
dispatch, five for HLD. LDACQ is the load that a sync region allows (R198). -/
def Obligations.LoadResults : Prop :=
  ∀ (s : State) (e : Issued) (c : Ctx), s.AtEngine e c →
    (∀ o : MemOff, o.size.toNat < 7 → c.CleanG e.q o.base →
      let ea := c.gRaw e.q o.base + off19 o.off o.lend
      let n := 2 ^ (o.size.toNat % 4)
      let gives (i : Instr) : Prop := ∃ v r, ScBytes s e c ea n v ∧ Extended o.size v r ∧
        Completes i s e (c.resultG e.q 4 o.data r (ScPoison s e c ea n))
      (ScAllowed s e c ea n false false → gives (.ld o)) ∧ (ScAllowed s e c ea n false true → gives (.ldacq o))) ∧
    (∀ o : MemIdx, o.size.toNat < 7 → c.CleanG e.q o.base → c.CleanG e.q o.idx →
      let ea := c.gRaw e.q o.base + (c.gRaw e.q o.idx <<< o.shift.toNat)
      let n := 2 ^ (o.size.toNat % 4)
      ScAllowed s e c ea n false false → ∃ v r, ScBytes s e c ea n v ∧ Extended o.size v r ∧
        Completes (.ldx o) s e (c.resultG e.q 4 o.data r (ScPoison s e c ea n))) ∧
    (∀ o : MemHandle, c.CleanG e.q o.base →
      let ea := c.gRaw e.q o.base + off19 o.off o.lend
      ScAllowed s e c ea 32 false false → ∃ v, ScBytes s e c ea 32 v ∧
        Completes (.hld o) s e
          (c.result e.q 5 (.h o.h.toNat) (BitVec.ofNat 2048 v) (some (ScPoison s e c ea 32))))

/-- A store of n bytes of v at an address of the tile's SRAM: the machine goes on, the bytes are those of v, least significant first, no
other byte changes, every granule written is poisoned where the data are and none otherwise gains poison, and no register and no other
context changes. -/
def Sys2Proof.Machine.ScStores (i : Instr) (s : State) (e : Issued) (c : Ctx) (ea : Word64) (n v : Nat) (poison : Bool) : Prop :=
  ∃ t c', exec i s = .next t ∧ t.engine = none ∧ t.ctx? e.tile e.place = some c' ∧
    (∀ j, j < n → (t.mem.read (sramKey e.tile (ea.toNat + j))).toNat = v / 256 ^ j % 256) ∧
    s.SameMemoryBut t (sramKey e.tile ea.toNat) n ∧
    (∀ k, k ∈ t.poison ↔ k ∈ s.poison ∨ (poison = true ∧ k = (sramKey e.tile ea.toNat) / 64)) ∧
    c'.regs = c.regs ∧ c'.writes = c.writes ∧ c'.pc = c.pc ∧ s.SameOthers t e.tile e.place ∧ t.tiles = s.tiles ∧ t.hub = s.hub

/-- R196, R197, R200, R201: an allowed store from clean address registers, in a memory of canonical form. -/
def Obligations.StoreResults : Prop :=
  ∀ (s : State) (e : Issued) (c : Ctx), s.AtEngine e c → s.Canonical →
    (∀ o : MemOff, o.size.toNat < 4 → c.CleanG e.q o.base →
      let ea := c.gRaw e.q o.base + off19 o.off o.lend
      let n := 2 ^ o.size.toNat
      let v := (c.gRaw e.q o.data).toNat
      (ScAllowed s e c ea n true false → ScStores (.st o) s e c ea n v (c.gPoisoned e.q o.data)) ∧
      (ScAllowed s e c ea n true true → ScStores (.strel o) s e c ea n v (c.gPoisoned e.q o.data))) ∧
    (∀ o : MemIdx, o.size.toNat < 4 → c.CleanG e.q o.base → c.CleanG e.q o.idx →
      let ea := c.gRaw e.q o.base + (c.gRaw e.q o.idx <<< o.shift.toNat)
      let n := 2 ^ o.size.toNat
      ScAllowed s e c ea n true false →
        ScStores (.stx o) s e c ea n (c.gRaw e.q o.data).toNat (c.gPoisoned e.q o.data)) ∧
    (∀ o : MemHandle, c.CleanG e.q o.base →
      let ea := c.gRaw e.q o.base + off19 o.off o.lend
      let f := c.regsAt e.q.disp
      ScAllowed s e c ea 32 true false →
        ScStores (.hst o) s e c ea 32 (f.h.getD o.h.toNat 0).toNat (f.hPoison.getLsbD o.h.toNat))

/-- R196, R130: a failing access of base plus offset raises SRAM_RANGE with the first detail that holds, the address in the record, and a
poisoned base after those and the set check; nothing is read or written. n is the access size. -/
def Obligations.ScalarAccessTraps : Prop :=
  ∀ (s : State) (e : Issued) (c : Ctx) (i : Instr) (base : BitVec 6) (off : BitVec 11) (lend : Option Byte) (n : Nat),
    s.AtEngine e c →
    ((∃ o : MemOff, o.base = base ∧ o.off = off ∧ o.lend = lend ∧ n = 2 ^ (o.size.toNat % 4) ∧
        (i = .ld o ∨ i = .ldacq o ∨ i = .st o ∨ i = .strel o)) ∨
      ∃ o : MemHandle, o.base = base ∧ o.off = off ∧ o.lend = lend ∧ n = 32 ∧ (i = .hld o ∨ i = .hst o)) →
    let ea := c.gRaw e.q base + off19 off lend
    let write := (pathsOf i == [(0, true)])
    let sync := (match i with | .ldacq _ | .strel _ => true | _ => false)
    (ea.toNat % n ≠ 0 → Raises i s e c { cause := 0x04, detail := 0x0800, address := ea }) ∧
    (ea.toNat % n = 0 → 0x100000 < ea.toNat + n → Raises i s e c { cause := 0x04, detail := 0x0801, address := ea }) ∧
    (ea.toNat % n = 0 → ea.toNat + n ≤ 0x100000 → 0x0FB000 < ea.toNat + n →
      Raises i s e c { cause := 0x04, detail := 0x0002, address := ea }) ∧
    (∀ t, ea.toNat % n = 0 → ea.toNat + n ≤ 0x0FB000 →
      s.setCheck e.tile c e.q.group 0 (!write) write sync false ea.toNat n = some t → Raises i s e c t) ∧
    (ScAllowed s e c ea n write sync → ¬ c.CleanG e.q base →
      Raises i s e c { cause := 0x05, detail := 0x20, value := base.setWidth 48 })

/-- The X and Y syllables that touch registers alone. -/
def Sys2Proof.Machine.registerScalar (i : Instr) : Bool := slotOf i == some 1 && (pathsOf i).isEmpty

/-- R52, R181, R186-R195, R202: a register syllable of the scalar pair, whichever way it ends, changes no byte of memory, no other context, no
tile and nothing of the package, not the pc, and no register of its context but those that it writes (writesOf) and FLAGS_S. -/
def Sys2Proof.Machine.RegisterFrameRule : Prop :=
  ∀ (s t : State) (e : Issued) (c : Ctx) (i : Instr), registerScalar i = true → s.AtEngine e c → exec i s = .next t →
    s.SameMemory t ∧ s.SameOthers t e.tile e.place ∧ t.tiles = s.tiles ∧ t.hub = s.hub ∧ t.copies = s.copies ∧
    ∃ c', t.ctx? e.tile e.place = some c' ∧ c'.pc = c.pc ∧ c'.tokens = c.tokens ∧ c'.ports = c.ports ∧
      ∀ r, r ∉ (writesOf e.q.rrb i).map (·.1) → r ≠ .csr 0x48 → c.SameReg c' r

/-- R197, R201: a store of the scalar pair, whichever way it ends, changes no register and no byte but the n bytes at the address that it forms. -/
def Sys2Proof.Machine.StoreFrameRule : Prop :=
  ∀ (s t : State) (e : Issued) (c : Ctx) (i : Instr) (ea : Word64) (n : Nat), s.Canonical → s.AtEngine e c → exec i s = .next t →
    ((∃ o : MemOff, ea = eaOff c e.q o.base o.off o.lend ∧ n = 2 ^ (o.size.toNat % 4) ∧ (i = .st o ∨ i = .strel o)) ∨
      (∃ o : MemIdx, ea = eaIdx c e.q o ∧ n = 2 ^ (o.size.toNat % 4) ∧ i = .stx o) ∨
      ∃ o : MemHandle, ea = eaOff c e.q o.base o.off o.lend ∧ n = 32 ∧ i = .hst o) →
    s.SameMemoryBut t (sramKey e.tile ea.toNat) n ∧ t.code = s.code ∧ s.SameOthers t e.tile e.place ∧ t.tiles = s.tiles ∧
    t.hub = s.hub ∧ ∃ c', t.ctx? e.tile e.place = some c' ∧ c'.pc = c.pc ∧ ∀ r, c.SameReg c' r

/-- What the register syllables and the stores of the scalar pair leave unchanged. -/
def Obligations.ScalarFrames : Prop := RegisterFrameRule ∧ StoreFrameRule


/-! ### The C slot (07_issue) -/

/-- R156, R25: a taken BR or CALL, a JMP and a RET send the context to a bundle start; CALL links the address after its bundle in g31, which
a bundle dispatched one cycle later reads; under a false guard BR and CALL do nothing. A target that is no bundle start raises
MISALIGNED_TARGET: detail 0, or 1 (outside code) for one below 0 or from 0x1_0000 up, and for JMP and RET detail 0 first where the
target is no multiple of 4. -/
def Obligations.BranchResults : Prop :=
  ∀ (s : State) (e : Issued) (c : Ctx), s.AtEngine e c →
    (∀ (disp : BitVec 20) (neg : Bool) (guard : BitVec 5),
      let target : Int := e.q.addr + 4 * disp.toInt
      let stops (d : Nat) : Prop := Raises (.br disp neg guard) s e c { cause := 0x03, detail := d }
      (guardHolds c e.q guard neg = false → Completes (.br disp neg guard) s e c ∧ Completes (.call disp neg guard) s e c) ∧
      (guardHolds c e.q guard neg = true → ∀ a : Nat, target = a → s.Target e.tile a →
        Completes (.br disp neg guard) s e { c with pc := a } ∧
        Leaves (.call disp neg guard) s e fun t c' =>
          c'.pc = a ∧ c'.writes = (c.resultG e.q 1 31 (BitVec.ofNat 64 c.pc)).writes ∧ s.SameMemory t ∧
            s.SameOthers t e.tile e.place ∧ ∀ r, r ≠ .g 31 → c.SameReg c' r) ∧
      (guardHolds c e.q guard neg = true → target < 0 ∨ 0x10000 ≤ target → stops 1) ∧
      (guardHolds c e.q guard neg = true → ∀ a : Nat, target = a → a < 0x10000 →
        (a % 4 ≠ 0 ∨ s.startBit e.tile a = false) → stops 0)) ∧
    (∀ (ga : BitVec 6) (imm : BitVec 14),
      let target : Word64 := c.gRaw e.q ga + 4 * imm.signExtend 64
      let stops (i : Instr) (d : Nat) : Prop := Raises i s e c { cause := 0x03, detail := d }
      (c.CleanG e.q ga → s.Target e.tile target.toNat → Completes (.jmp ga imm) s e { c with pc := target.toNat }) ∧
      (¬ c.CleanG e.q ga → s.Target e.tile target.toNat →
        Raises (.jmp ga imm) s e c { cause := 0x05, detail := 0x20, value := ga.setWidth 48 }) ∧
      (target.toNat % 4 ≠ 0 → stops (.jmp ga imm) 0) ∧
      (target.toNat % 4 = 0 → 0x10000 ≤ target.toNat → stops (.jmp ga imm) 1) ∧
      (imm = 0 → c.CleanG e.q ga → s.Target e.tile target.toNat →
        Leaves (.ret ga) s e fun t c' => c'.pc = target.toNat ∧ c'.writes = c.writes ∧ s.SameMemory t ∧
          s.SameOthers t e.tile e.place ∧ ∀ r, c.SameReg c' r) ∧
      (imm = 0 → target.toNat % 4 ≠ 0 → stops (.ret ga) 0) ∧
      (imm = 0 → target.toNat % 4 = 0 → 0x10000 ≤ target.toNat → stops (.ret ga) 1))

/-- R157, R158: LOOP and LOOPR count LCn down and send the context back while more than one iteration remains, LOOPR adding 2 to RRB; else they
clear LCn and its bit of the active-loop mask and fall through. LEXIT clears both and leaves the loop. SETRRB writes RRB. -/
def Obligations.LoopResults : Prop :=
  ∀ (s : State) (e : Issued) (c : Ctx), s.AtEngine e c →
    (∀ (n : BitVec 2) (imm : BitVec 14) (a : Nat), (a : Int) = (e.q.addr + 4 * imm.toInt) % 0x10000 →
      let lc := c.regs.csr.getD (0x14 + n.toNat) 0
      let ended := (c.putCsr (0x14 + n.toNat) 0).setStatus (8 + n.toNat) false
      (1 < lc.toNat → s.Target e.tile a →
        Completes (.loop n imm) s e { c.putCsr (0x14 + n.toNat) (lc - 1) with pc := a } ∧
        Completes (.loopr n imm) s e
          { (c.putCsr (0x14 + n.toNat) (lc - 1)).putCsr 0x11 ((c.rrb + 2 : BitVec 5).setWidth 64) with pc := a }) ∧
      (1 < lc.toNat → ¬ s.Target e.tile a → Raises (.loop n imm) s e c { cause := 0x03 } ∧ Raises (.loopr n imm) s e c { cause := 0x03 }) ∧
      (lc.toNat ≤ 1 → Completes (.loop n imm) s e ended ∧ Completes (.loopr n imm) s e ended) ∧
      ∀ (neg : Bool) (p : BitVec 5),
        (guardHolds c e.q p neg = true → s.Target e.tile a → Completes (.lexit n neg p imm) s e { ended with pc := a }) ∧
        (guardHolds c e.q p neg = true → ¬ s.Target e.tile a → Raises (.lexit n neg p imm) s e c { cause := 0x03 }) ∧
        (guardHolds c e.q p neg = false → Completes (.lexit n neg p imm) s e c)) ∧
    ∀ v : BitVec 5, Completes (.setrrb v) s e (c.putCsr 0x11 (v.setWidth 64))

/-- R159-R161, R163: HALT and an unmet WAITT or SLEEPT leave a wait that holds the next bundle; a met WAITT writes the mask of the named tokens
that are complete, a met SLEEPT ends at once; SLEEPT.cyc waits for an unsigned package cycle; YIELD gives the turn up and SETPRI writes
the priority bit. A token counts once it is complete and its cycle has come, and no wait ends over an error that no trap has reported. -/
def Obligations.WaitResults : Prop :=
  ∀ (s : State) (e : Issued) (c : Ctx), s.AtEngine e c →
    let clock := s.clock e.tile
    let done (t : Nat) : Bool := ((c.token t).remaining == 0 || (c.token t).error) && decide ((c.token t).doneFrom ≤ clock)
    let quiet (mask : BitVec 8) : Prop := c.raises clock e.q.seq (maskTokens mask) = []
    Completes .halt s e { c with wait := some (.halt e.q.seq e.q.addr (c.presentOf e.q)) } ∧
    Completes .yield s e { c with yielded := true } ∧
    (∀ v, Completes (.setpri v) s e (c.setStatus 4 v)) ∧
    (∀ (ga : BitVec 6) (any : Bool) (mask : BitVec 8),
      let met : Prop := if any then ∃ t, t < 8 ∧ mask.getLsbD t = true ∧ done t = true
        else ∀ t, t < 8 → mask.getLsbD t = true → done t = true
      (met → quiet mask → ∃ r : Word64, Completes (.waitt ga any mask) s e (c.resultG e.q 1 ga r) ∧
        ∀ t, t < 64 → r.getLsbD t = (decide (t < 8) && mask.getLsbD t && done t)) ∧
      (¬ met → Completes (.waitt ga any mask) s e
        { c with wait := some (.tokens e.q.seq e.q.addr (c.presentOf e.q) mask any (some (physG ga e.q.rrb))) })) ∧
    (∀ t : BitVec 3,
      (done t.toNat = true → quiet (setBit 0 t.toNat true) → Completes (.sleept t) s e c) ∧
      (done t.toNat = false → Completes (.sleept t) s e
        { c with wait := some (.tokens e.q.seq e.q.addr (c.presentOf e.q) (setBit 0 t.toNat true) false none) })) ∧
    (∀ ga : BitVec 6,
      let v := c.gRaw e.q ga
      (c.CleanG e.q ga → v.toNat ≤ s.cycle.toNat → Completes (.sleeptCyc ga) s e c) ∧
      (c.CleanG e.q ga → s.cycle.toNat < v.toNat →
        Completes (.sleeptCyc ga) s e { c with wait := some (.until e.q.seq e.q.addr (c.presentOf e.q) v) }) ∧
      (¬ c.CleanG e.q ga → Raises (.sleeptCyc ga) s e c { cause := 0x05, detail := 0x20, value := ga.setWidth 48 }))

/-- R164, R165, R99: FENCEX leaves an order on its paths from its own bundle on. A bundle with a PHASE does not dispatch while its context has a
write of an older bundle still to publish at the bundle's scope; PHASE then takes up its group, unless the group conflicts, and then nothing of it
happens. -/
def Obligations.OrderResults : Prop :=
  ∀ (s : State) (e : Issued) (c : Ctx), s.AtEngine e c →
    (∀ mask : BitVec 7, Leaves (.fencex mask) s e fun t c' =>
      c'.fences = c.fences ++ [⟨e.q.seq, mask⟩] ∧ c'.pc = c.pc ∧ c'.group = c.group ∧ c'.regs = c.regs ∧
        c'.writes = c.writes ∧ s.SameMemory t ∧ s.SameOthers t e.tile e.place) ∧
    (∀ group : BitVec 4,
      (s.groupConflict e.tile c group = none → Leaves (.phase group) s e fun t c' =>
        c'.group = group ∧ c'.fences = c.fences ∧ c'.pc = c.pc ∧ c'.regs = c.regs ∧
          c'.writes = c.writes ∧ s.SameMemory t ∧ s.SameOthers t e.tile e.place) ∧
      (∀ t, s.groupConflict e.tile c group = some t → Raises (.phase group) s e c t) ∧
      ∀ b : Bundle, b.control = some (.phase group) → c.cigon = none → c.remainder = 0 → s.bundleAt e.tile c.pc = b →
        s.unpublished e.tile c c.seq (headerOf b.word).scope.toNat = true → s.head e.tile e.place ≠ .ready)

/-- R166: TRAP and BKPT take effect and raise SOFTWARE or BREAKPOINT with their code at their own bundle. R134, R167: ERET reads the record at
TRAPREC, clears the handler bit, sends the context to the recorded bundle and leaves it the done mask, and the counts and the remainder only
where that bundle is the one named at entry. The record is read as its bundle's dispatch found it. A bad TRAPREC raises SRAM_RANGE with detail 0x000E,
a recorded bundle that is no bundle start MISALIGNED_TARGET, and after that a poisoned record POISON (R130). -/
def Obligations.TrapAndReturnResults : Prop :=
  ∀ (s : State) (e : Issued) (c : Ctx), s.AtEngine e c → c.Ordered →
    (∀ code : BitVec 14, c.stopping = none →
      let stops (i : Instr) (cause : Nat) : Prop := Leaves i s e fun t c' =>
        (∃ st, c'.stopping = some st ∧ st.trap = { cause := cause, value := code.setWidth 48 } ∧ st.seq = e.q.seq ∧ st.slot = 0) ∧
          c'.regs = c.regs ∧ c'.writes = c.writes ∧ s.SameMemory t ∧ s.SameOthers t e.tile e.place
      stops (.trap code) 0x16 ∧ stops (.bkpt code) 0x15) ∧
    (let rec_ := (c.regs.csr.getD 0x13 0).toNat
     let at_ : Word64 := BitVec.ofNat 64 rec_
     (rec_ % 64 ≠ 0 ∨ 0x0FAFC0 < rec_ → Raises .eret s e c { cause := 0x04, detail := 0x0E }) ∧
     let found (v : Nat) (poisoned : Bool) : Prop :=
        let b := v / 2 ^ 64 % 2 ^ 16
        let dm : BitVec 7 := BitVec.ofNat 7 (v / 2 ^ 19)
        (¬ s.Target e.tile b → Raises .eret s e c { cause := 0x03 }) ∧
        (s.Target e.tile b → poisoned = true → Raises .eret s e c { cause := 0x05, detail := 0x22, address := at_ }) ∧
        (s.Target e.tile b → poisoned = false → Leaves .eret s e fun t c' =>
        c'.pc = b ∧ c'.inHandler = false ∧ c'.eret = none ∧ (∃ r, c'.resume = some r ∧ r.done = dm) ∧
          (∀ r, c.eret = some r → r.addr = b → c'.remainder = r.remainder ∧ c'.skips = r.counts) ∧
          ((∀ r, c.eret = some r → r.addr ≠ b) → c'.remainder = 0 ∧ c'.skips = []) ∧
          c'.writes = c.writes ∧ s.SameMemory t ∧ s.SameOthers t e.tile e.place)
     (rec_ % 64 = 0 → rec_ ≤ 0x0FAFC0 →
        (c.found = none → ∃ v, ScBytes s e c at_ 16 v ∧ found v (ScPoison s e c at_ 16)) ∧
        ∀ bytes poisoned, c.found = some (bytes, poisoned) → bytes.length = 16 → found (leNat bytes) poisoned))

/-- R168, R169, R176: CSRR reads the CSR with latency 1; CSRW writes what Table 7.6 makes writable: a FLAGS CSR keeps only bits that both hold,
LCn sets its bit of the active-loop mask, RRB takes bits [4:1]; RDCYC and the CSR CYCLE give the package cycle of the bundle's dispatch; TEMIT raises POISON for a poisoned register, changes no register, and makes its record where it is enabled. -/
def Obligations.CsrResults : Prop :=
  ∀ (s : State) (e : Issued) (c : Ctx) (ga : BitVec 6), s.AtEngine e c →
    let v := c.gRaw e.q ga
    let dispatched : Word64 := s.cycle - BitVec.ofNat 64 (s.time - e.q.time)
    (∀ n : BitVec 8, ∃ r : Word64, Completes (.csrr ga n) s e (c.resultG e.q 1 ga r) ∧
      (n = 0x00 → r = BitVec.ofNat 64 c.num) ∧ (n = 0x20 → r = dispatched) ∧
      (0x10 ≤ n.toNat → n.toNat ≤ 0x17 → r = c.regs.csr.getD n.toNat 0) ∧
      (0x21 ≤ n.toNat → n.toNat ≤ 0x2E → r = c.dev.getD (n.toNat - 0x20) 0) ∧
      (n ∈ [0x30, 0x31, 0x48, 0x50, 0x51, 0x52, 0x53, 0x54, 0x55, 0x56, 0x58, 0x59, 0x5A, 0x5B, 0x5D, 0x5E, 0x5F, 0x60, 0x61, 0x68, 0x70,
        0x78, 0x80, 0x81] → r = (c.regsAt e.q.disp).csr.getD n.toNat 0)) ∧
    (¬ c.CleanG e.q ga → ∀ n, Raises (.csrw ga n) s e c { cause := 0x05, detail := 0x20, value := ga.setWidth 48 }) ∧
    (c.CleanG e.q ga →
      (∀ n : BitVec 2, Completes (.csrw ga (0x14 + n.setWidth 8)) s e
        ((c.putCsr (0x14 + n.toNat) v).setStatus (8 + n.toNat) (decide (v ≠ 0)))) ∧
      Completes (.csrw ga 0x11) s e (c.putCsr 0x11 ((c.regs.csr.getD 0x11 0 &&& ~~~0x1E) ||| (v &&& 0x1E))) ∧
      Completes (.csrw ga 0x10) s e (c.putCsr 0x10 ((c.regs.csr.getD 0x10 0 &&& ~~~3) ||| (v &&& 3))) ∧
      Completes (.csrw ga 0x13) s e (c.putCsr 0x13 v) ∧
      (∀ n : BitVec 8, n ∈ [0x48, 0x50, 0x58, 0x60, 0x68, 0x70, 0x78] →
        Completes (.csrw ga n) s e (c.csrResult e.q n.toNat 0 (~~~v))) ∧
      (∀ n : BitVec 8, n ∈ [0x30, 0x31, 0x5B, 0x5D, 0x5E] →
        Completes (.csrw ga n) s e (c.csrResult e.q n.toNat v (BitVec.allOnes 64))) ∧
      (∀ n : BitVec 8, 0x17 < n.toNat → ∃ w m, Completes (.csrw ga n) s e (c.csrResult e.q n.toNat w m))) ∧
    (∀ (n : Nat) (w m : Word64), ∀ x ∈ (c.csrResult e.q n w m).writes, x ∈ c.writes ∨
      (x.reg = .csr n ∧ x.vis = e.q.disp + 1 ∧ x.seq = e.q.seq ∧ x.slot = e.q.slot ∧ x.val = w.setWidth 2048 ∧ x.mask = m.setWidth 2048)) ∧
    Completes (.rdcyc ga) s e (c.resultG e.q 1 ga dispatched) ∧
    (∀ tag : BitVec 12,
      (¬ c.CleanG e.q ga → Raises (.temit ga tag) s e c { cause := 0x05, detail := 0x20, value := ga.setWidth 48 }) ∧
      (c.CleanG e.q ga → Leaves (.temit ga tag) s e fun t c' =>
        s.SameMemory t ∧ s.SameOthers t e.tile e.place ∧ c'.pc = c.pc ∧ (∀ r, c.SameReg c' r) ∧
          (c.traces 0 = true → ∃ r, (t.tile e.tile).made = (s.tile e.tile).made ++ [r] ∧ r.cycle = dispatched ∧ r.data0 = v ∧ r.data1 = 0 ∧
            r.who = some ⟨e.tile, c.launch, c.num⟩ ∧ r.head.toNat % 16 = 1 ∧ r.head.toNat / 2 ^ 32 = tag.toNat) ∧
          (c.traces 0 = false → (t.tile e.tile).made = (s.tile e.tile).made)))

/-- R170, R171: PLOG writes the bit of its truth table that pa and pb select; PMOVG gathers p0-p31; PMOVP writes each predicate whose mask bit is
set, in order, p0 discarding. R172, R173: SHAPE grants each field at most the capability and tells whether all was granted; SHAPEQ gives z or the
capability, unless the revalidation mark stands, which it clears with SHAPE_REVALIDATE. -/
def Obligations.PredicateAndShapeResults : Prop :=
  ∀ (s : State) (e : Issued) (c : Ctx) (ga : BitVec 6), s.AtEngine e c → c.Ordered →
    (∀ (pd pa pb : BitVec 5) (tt : BitVec 4), ∃ b : Bool, Completes (.plog pd pa pb tt) s e (c.resultP e.q 1 pd.toNat b) ∧
      b = tt.getLsbD (2 * (c.pred e.q pa.toNat).toNat + (c.pred e.q pb.toNat).toNat)) ∧
    Completes (.pmovg ga) s e (c.resultG e.q 1 ga ((c.regsAt e.q.disp).p.setWidth 64)) ∧
    (∀ gb : BitVec 6, c.CleanG e.q ga → (gb ≠ 0 → c.CleanG e.q gb) → Leaves (.pmovp ga gb) s e fun t c' =>
      s.SameMemory t ∧ s.SameOthers t e.tile e.place ∧ c'.pc = c.pc ∧ (∀ r, (∀ n, r ≠ .p n) → c.SameReg c' r) ∧
        ∀ n, 1 ≤ n → n < 32 →
          ((gb = 0 ∨ (c.gRaw e.q gb).getLsbD n = true) → ∃ w ∈ c'.writes, w.reg = .p n ∧ w.vis = e.q.disp + 1 ∧
            w.val.getLsbD 0 = (c.gRaw e.q ga).getLsbD n) ∧
          (gb ≠ 0 → (c.gRaw e.q gb).getLsbD n = false → c.SameReg c' (.p n))) ∧
    (∀ (pd : BitVec 5) (z : BitVec 2), c.CleanG e.q ga →
      let cap (k : Nat) : Nat := if k = 1 then (s.tile e.tile).columns else if k = 2 then 128 else 64
      let req (k : Nat) : Nat := (c.gRaw e.q ga).toNat / 2 ^ (16 * k) % 2 ^ 16
      (s.tile e.tile).columns < 2 ^ 16 →
      ∃ (v : Word64) (b : Bool),
        Completes (.shape ga pd z) s e
          (((c.result e.q 1 (.z z.toNat) (v.setWidth 2048) none).resultP e.q 1 pd.toNat b).setStatus 5 false) ∧
          (∀ k, k < 4 → v.toNat / 2 ^ (16 * k) % 2 ^ 16 = min (if req k = 0 then cap k else req k) (cap k)) ∧
          (b = true ↔ ∀ k, k < 4 → req k = 0 ∨ req k ≤ cap k)) ∧
    (∀ z : BitVec 2, c.statusBit 5 = false →
      Completes (.shapeq ga z) s e (c.resultG e.q 1 ga ((c.regsAt e.q.disp).z.getD z.toNat 0)) ∧
      Completes (.shapeqCap ga) s e (c.resultG e.q 1 ga (s.grant e.tile))) ∧
    (∀ z : BitVec 2, c.statusBit 5 = true → c.stopping = none →
      let marked (i : Instr) : Prop := Leaves i s e fun _ c' =>
        c'.statusBit 5 = false ∧ (∃ st, c'.stopping = some st ∧ st.trap.cause = 0x0E) ∧ c'.writes = c.writes
      marked (.shapeq ga z) ∧ marked (.shapeqCap ga))

/-- R174, R65, R62: SLICE hands out the context's next entry of its home tile's slice list (R63), with as many coordinates as asked and a true
predicate, or a false predicate where none is left. In a deterministic launch of C contexts context c takes entries c, c + C and so on, in another the
next one that none has claimed. -/
def Sys2Proof.Machine.SliceRule : Prop :=
  ∀ (s : State) (e : Issued) (c : Ctx) (l : Launch) (ga : BitVec 6) (pd : BitVec 5) (k : BitVec 4), s.AtEngine e c → s.launchOf c = some l →
    let j := if l.deterministic then c.num + c.slicePos * l.contexts else l.claimed.getD c.home 0
    (l.sliceCount c.home ≤ j → Completes (.slice ga pd k) s e (c.resultP e.q 1 pd.toNat false)) ∧
    (j < l.sliceCount c.home →
      let slice := l.sliceAt c.home j
      let left := if l.deterministic then l else { l with claimed := l.claimed.put c.home (j + 1) }
      let index := ({ c with slicePos := c.slicePos + 1 } : Ctx).resultG e.q 1 ga (BitVec.ofNat 64 slice)
      let whole := (List.range k.toNat).foldl (fun (c : Ctx) i => c.resultG e.q 1 (ga + BitVec.ofNat 6 (i + 1)) (l.coordinate slice i)) index
      exec (.slice ga pd k) s = .next { s.finish e (whole.resultP e.q 1 pd.toNat true) with
        hub := { s.hub with launches := s.hub.launches.put c.launch left } }) ∧
    (∀ slice i, (l.outer ++ l.spatial).length ≤ i → l.coordinate slice i = 0)

/-- R175: REPLAN acts on the band that the tile had at the start of the dispatch cycle. Where the band-pending bit stands and that band has a variant,
it sends the context there, clears the bit unless the tile's band differs by now, and sets the variant band; else it falls through. In both cases it
tells band, taken and pending. -/
def Sys2Proof.Machine.VariantRule : Prop :=
  ∀ (s : State) (e : Issued) (c : Ctx) (ga : BitVec 6), s.AtEngine e c →
    let v := s.vault e.tile
    let band := if e.q.time ≤ v.changed then v.earlier else v.measured
    let pending := (c.csrAt e.q.disp 0x40).getLsbD 9
    let target := (s.launchOf c).bind fun l => (l.variants[band]?).join
    (pending = true → ∀ a, target = some a → Leaves (.replan ga) s e fun t c' =>
      c'.pc = a ∧ c'.regs = c.regs ∧ s.SameMemory t ∧ s.SameOthers t e.tile e.place ∧ t.hub = s.hub ∧
        c'.writes = ((c.csrResult e.q 0x40 (BitVec.ofNat 64 (band + if v.measured = band then 0 else 512)) 0x203).resultG e.q 1 ga
          (BitVec.ofNat 64 (band + 256))).writes) ∧
    (pending = false ∨ target = none →
      Completes (.replan ga) s e (c.resultG e.q 1 ga (BitVec.ofNat 64 (band + if pending then 512 else 0))))

/-- R28: NOP has no effect. R50: an extension opcode without a microcode entry for its slot and opcode, or in a launch that is not trusted, raises
ILLEGAL_OPCODE; with one, it goes on with what the entry's image declares: a trap, results in registers of its context and bytes of the data SRAM, or another
syllable of its slot in its place. What an image declares is the model's free function (log 18). -/
def Sys2Proof.Machine.NopAndExtensionRule : Prop :=
  ∀ (s : State) (e : Issued) (c : Ctx), s.AtEngine e c →
    Completes .nop s e c ∧
    ∀ (op : BitVec 3) (rest : BitVec 26),
      ((s.launchOf c).any (·.trusted) = false → Raises (.extensionOpcode op rest) s e c { cause := 0x01 }) ∧
      (s.microEntry c e.q.slot op = none → Raises (.extensionOpcode op rest) s e c { cause := 0x01 }) ∧
      ∀ image, s.microEntry c e.q.slot op = some image →
        match Config.microcode image e.q.slot op rest (c.regsAt e.q.disp) with
        | .raises t => Raises (.extensionOpcode op rest) s e c t
        | .gives regs bytes =>
          let c' := regs.foldl (fun (c : Ctx) x => c.result e.q x.2.1 x.1 x.2.2) c
          (bytes = [] → Completes (.extensionOpcode op rest) s e c') ∧
          ∀ b, bytes = [b] → s.Canonical → b.1 + b.2.length ≤ 0x0FB000 → Leaves (.extensionOpcode op rest) s e fun t _ =>
            (∀ j, j < b.2.length → t.mem.read (sramKey e.tile b.1 + j) = b.2.getD j 0) ∧ s.SameMemoryBut t (sramKey e.tile b.1) b.2.length ∧
              s.SameOthers t e.tile e.place
        | .acts word =>
          (∀ i, decode e.q.slot e.q.lend word = .ok i → (∀ o r, i ≠ .extensionOpcode o r) →
            exec (.extensionOpcode op rest) s = .next { s with engine := some { e with q := { e.q with word := word } } }) ∧
          ((∀ i, decode e.q.slot e.q.lend word = .ok i → ∃ o r, i = .extensionOpcode o r) → Completes (.extensionOpcode op rest) s e c)

/-- R28, R50, R65, R174, R175: slices, variants, NOP and the extension opcodes. -/
def Obligations.SliceVariantAndExtensionResults : Prop := SliceRule ∧ VariantRule ∧ NopAndExtensionRule

/-! ### The vector engine (10_vector) -/

/-- The rows that a V syllable takes and the sources that it consumes raise nothing (R221, R233). -/
def Sys2Proof.Machine.VEnv.Clear (v : VEnv) : Prop :=
  firstByStage (v.rowChecks ++ [v.a.poison, v.b.poison, v.d.poison]) = none

/-- A V syllable goes on and writes a result: after the latency of Table 2.18, through lanes, as a full overwrite or not (R232). -/
def Sys2Proof.Machine.VectorGives (i : Instr) (s : State) (v : VEnv) (latency : Nat) (lanes : Word64) (full : Bool) (r : VOut) : Prop :=
  exec i s = .next ((Act.done (v.write latency lanes full r)).commit v.e)

/-- A result whose element k is x k in the lanes that are on, zero elsewhere, of elements of w bits. -/
def Sys2Proof.Machine.VOut.Holds (r : VOut) (w : Nat) (lanes : Word64) (x : Nat → Nat) : Prop :=
  r.value < 2 ^ 2048 ∧ ∀ k, k < elemCount w → elemAt w r.value k = if laneOf lanes w k then x k % 2 ^ w else 0

/-- A floating operation of a type f gives, element by element, the value x rounded once to the type under the rounding mode with the element's
keyed bits, infinities kept (R110, R117, R238). -/
def Sys2Proof.Machine.FloatGives (i : Instr) (s : State) (v : VEnv) (latency : Nat) (x : Nat → Exact) : Prop :=
  v.Clear → ∀ f, floatFmt v.ty = some f → ∃ r : VOut, VectorGives i s v latency v.lanes (v.o.mask == 0) r ∧
    r.mask = none ∧ r.poison = false ∧ r.Holds v.w v.lanes fun k => (satFloat f v.mode (v.k k) true (x k)).1

/-- R238: FADD to FLOG2 on the elements x, y and z of sources A, B and C, modifier bit 0 negating as Table 10.3 has it: the product in FMA and FMS
with the addend, both operands of a sum, else the result. -/
def Obligations.FloatLaneResults : Prop :=
  ∀ (s : State) (e : Issued) (c : Ctx) (o : VOp), s.AtEngine e c →
    let v := vEnv s e c o o.ty.toNat o.ty.toNat o.ty.toNat false
    let n (x : Exact) : Exact := if o.md.getLsbD 0 then x.neg else x
    FloatGives (.fadd o) s v 4 (fun k => Exact.add v.mode (n (v.x k)) (n (v.y k))) ∧
    FloatGives (.fsub o) s v 4 (fun k => Exact.add v.mode (n (v.x k)) (n (v.y k).neg)) ∧
    FloatGives (.fmul o) s v 4 (fun k => n ((v.x k).mul (v.y k))) ∧
    FloatGives (.fma o) s v 4 (fun k => Exact.add v.mode (n ((v.x k).mul (v.y k))) (n (v.z k))) ∧
    FloatGives (.fms o) s v 4 (fun k => Exact.add v.mode (n ((v.x k).mul (v.y k))) (n (v.z k).neg)) ∧
    FloatGives (.fmin o) s v 2 (fun k => n ((v.x k).min (v.y k))) ∧
    FloatGives (.fmax o) s v 2 (fun k => n ((v.x k).max (v.y k))) ∧
    FloatGives (.fdiv o) s v 14 (fun k => n ((v.x k).div (v.y k))) ∧
    FloatGives (.fsqrt o) s v 14 (fun k => n (v.x k).sqrt) ∧
    FloatGives (.frcp o) s v 6 (fun k => n ((Exact.ofInt 1).div (v.x k))) ∧
    FloatGives (.frsq o) s v 6 (fun k => n (v.x k).rsqrt) ∧
    FloatGives (.fexp2 o) s v 8 (fun k => n (v.x k).exp2) ∧
    FloatGives (.flog2 o) s v 8 (fun k => n (v.x k).log2)

/-- R240, R242, R118: the integer operations element by element, wrapped to the element's width or, under .sat, clamped to the type's range; the
field extraction and the funnel shifts. Elements are read as the type is, signed or not; a, b and d are their patterns. -/
def Obligations.IntegerLaneResults : Prop :=
  ∀ (s : State) (e : Issued) (c : Ctx) (o : VOp), s.AtEngine e c →
    let v := vEnv s e c o o.ty.toNat o.ty.toNat o.ty.toNat false
    let w := v.w
    let a (k : Nat) : Nat := elemAt w v.a.value k
    let b (k : Nat) : Nat := elemAt w v.b.value k
    let d (k : Nat) : Nat := elemAt w v.d.value k
    let x (k : Nat) : Int := readInt v.ty (a k)
    let y (k : Nat) : Int := readInt v.ty (b k)
    let gives (i : Instr) (f : Nat → Nat) : Prop := v.Clear → ∃ r : VOut, VectorGives i s v 2 v.lanes (o.mask == 0) r ∧
      r.mask = none ∧ r.poison = false ∧ r.Holds w v.lanes f
    let narrow (z : Int) : Nat := if o.md.getLsbD 0 then
        (if z < (typeRange v.ty).1 then wrapTo w (typeRange v.ty).1 else if (typeRange v.ty).2 < z then wrapTo w (typeRange v.ty).2
          else wrapTo w z) else wrapTo w z
    gives (.iadd o) (fun k => narrow (x k + y k)) ∧ gives (.isub o) (fun k => narrow (x k - y k)) ∧
    gives (.imul o) (fun k => narrow (x k * y k)) ∧ gives (.ishl o) (fun k => narrow (x k * 2 ^ (b k % w))) ∧
    (o.md = 0 →
      gives (.iand o) (fun k => a k &&& b k) ∧ gives (.ior o) (fun k => a k ||| b k) ∧ gives (.ixor o) (fun k => a k ^^^ b k) ∧
      gives (.ishr o) (fun k => a k / 2 ^ (b k % w)) ∧
      gives (.isra o) (fun k => wrapTo w (signed w (a k) / 2 ^ (b k % w))) ∧
      gives (.imin o) (fun k => wrapTo w (min (x k) (y k))) ∧ gives (.imax o) (fun k => wrapTo w (max (x k) (y k)))) ∧
    gives (.vbfx o) (fun k =>
      let len := b k / w % w + 1
      let t := a k / 2 ^ (b k % w) % 2 ^ len
      if o.md.getLsbD 0 then wrapTo w (signed len t) else t) ∧
    (o.md.getLsbD 0 = false → gives (.vfsh o) fun k => a k * 2 ^ (b k % w) + d k / 2 ^ (w - b k % w)) ∧
    (o.md.getLsbD 0 = true → gives (.vfsh o) fun k =>
      (a k * 2 ^ (2 * w - b k % w) + d k * 2 ^ (w - b k % w)) / 2 ^ w)

/-- R239, R241: a compare writes every lane, all ones where its condition (Table 10.4) holds and zeros elsewhere, whatever its mask field; that field,
where it is not 0, names the mask register whose bit j takes the result of element j. FCLASS gives one bit of ten, in the lanes that are on. -/
def Sys2Proof.Machine.CompareLaneRule : Prop :=
  ∀ (s : State) (e : Issued) (c : Ctx) (o : VOp), s.AtEngine e c →
    let v := vEnv s e c o o.ty.toNat o.ty.toNat o.ty.toNat false
    let gives (i : Instr) (holds : Nat → Bool) : Prop := v.Clear → ∃ r : VOut, VectorGives i s v 2 (BitVec.allOnes 64) true r ∧
      r.flags = 0 ∧ r.poison = false ∧ r.Holds v.w (BitVec.allOnes 64) (fun k => if holds k then 2 ^ v.w - 1 else 0) ∧
      (o.mask = 0 → r.mask = none) ∧
      (o.mask ≠ 0 → ∃ m : Word64, r.mask = some m ∧ ∀ j, j < elemCount v.w → j < 64 → m.getLsbD j = holds j)
    (o.md.toNat / 2 < 8 → gives (.fcmp o) fun k =>
      let x := v.x k
      let y := v.y k
      match o.md.toNat / 2 with
      | 0 => x.eq y
      | 1 => !x.eq y
      | 2 => x.lt y
      | 3 => x.lt y || x.eq y
      | 4 => y.lt x
      | 5 => y.lt x || x.eq y
      | 6 => x.isNan || y.isNan
      | _ => !x.isNan && !y.isNan) ∧
    (o.md.toNat / 2 < 6 → gives (.icmp o) fun k =>
      let x := readInt v.ty (elemAt v.w v.a.value k)
      let y := readInt v.ty (elemAt v.w v.b.value k)
      match o.md.toNat / 2 with
      | 0 => x == y
      | 1 => x != y
      | 2 => decide (x < y)
      | 3 => decide (x ≤ y)
      | 4 => decide (y < x)
      | _ => decide (y ≤ x)) ∧
    (v.Clear → ∀ f, floatFmt v.ty = some f → ∃ r : VOut, VectorGives (.fclass o) s v 2 v.lanes (o.mask == 0) r ∧ r.flags = 0 ∧
      r.Holds v.w v.lanes fun k => 2 ^ floatClass f (elemAt v.w v.a.value k))

/-- R243-R245, R250, R233: MOVL copies the source that its selector names with its poison; VSEL, VBCAST, VPERM and VLUT rearrange elements,
by unsigned integers, of which the lane index gives its own (R231); VCOMPRESS
packs the kept elements of each group, or their positions; VMOVG moves between vectors, masks and g registers. -/
def Sys2Proof.Machine.MoveLaneRule : Prop :=
  ∀ (s : State) (e : Issued) (c : Ctx) (o : VOp), s.AtEngine e c →
    let v := vEnv s e c o o.ty.toNat o.ty.toNat o.ty.toNat false
    let n := elemCount v.w
    let a (k : Nat) : Nat := elemAt v.w v.a.value k
    let b (k : Nat) : Nat := elemAt v.w v.b.value k
    let d (k : Nat) : Nat := elemAt v.w v.d.value k
    let index (k : Nat) : Nat := if o.b = 14 then k % 2 ^ v.w else b k
    let codes : Nat := if o.a = 14 then packElems v.w (List.range n) else v.a.value
    let gives (i : Instr) (l : Nat) (f : Nat → Nat) : Prop := v.Clear → ∃ r : VOut, VectorGives i s v l v.lanes (o.mask == 0) r ∧
      r.flags = 0 ∧ r.mask = none ∧ r.poison = false ∧ r.Holds v.w v.lanes f
    (firstByStage v.rowChecks = none → ∃ x : VSrc, (o.md = 0 → x = v.a) ∧ (o.md = 1 → x = v.b) ∧ (o.md = 2 → x = v.d) ∧
      VectorGives (.movl o) s v 1 v.lanes (o.mask == 0) { value := x.value, poison := x.poison.isSome }) ∧
    gives (.vsel o) 2 (fun k => if d k ≠ 0 then a k else b k) ∧
    gives (.vbcast o) 2 (fun _ => a (index 0 % n)) ∧
    gives (.vperm o) 2 (fun k => if index k % (2 * n) < n then a (index k % (2 * n)) else d (index k % (2 * n) - n)) ∧
    gives (.vlut o) 6 (fun k =>
      let i := elemAt 8 codes k % (4096 / v.w)
      elemAt v.w (v.b.value + 2 ^ 2048 * v.d.value) i) ∧
    (v.Clear → ∃ r : VOut, VectorGives (.vcompress o) s v 3 v.lanes (o.mask == 0) r ∧ r.flags = 0 ∧
      let pattern := (o.md.extractLsb' 2 2).toNat
      let m := if pattern = 2 then 8 else 4
      let kept (g : Nat) : List (Nat × Nat) := keptOf v.ty (if pattern = 0 then 1 else 2) ((List.range m).map fun j => (j, a (m * g + j)))
      (o.md.getLsbD 1 = false → r.value = packElems v.w ((List.range (n / m)).flatMap fun g => (kept g).map (·.2))) ∧
      (o.md.getLsbD 1 = true → r.value = packElems (if pattern = 2 then 3 else 2) ((List.range (n / m)).flatMap fun g => (kept g).map (·.1)))) ∧
    (∀ (gd : BitVec 6) (code : BitVec 4) (lend : Option Byte), firstByStage (vsrc s e c code.toNat 0 0 lend).traps = none →
      let x := vsrc s e c code.toNat 0 0 lend
      Completes (.vmovg gd code lend) s e (c.resultG e.q 2 gd (BitVec.ofNat 64 x.value) x.poison.isSome)) ∧
    (∀ (gd : BitVec 6) (m : BitVec 2), Completes (.vmovgM gd m) s e
      (c.resultG e.q 2 gd (if m = 0 then BitVec.allOnes 64 else (c.regsAt e.q.disp).m.getD m.toNat 0))) ∧
    (∀ (m : BitVec 2) (g : BitVec 6), c.CleanG e.q g → Completes (.vmovgSetm m (some (g.setWidth 8))) s e
      (c.result e.q 2 (.m m.toNat) ((c.gRaw e.q g).setWidth 2048) none))

/-- R233, R239, R241, R243-R245, R250: compares, classes, and the moves among lanes, masks and registers. -/
def Obligations.CompareAndMoveLaneResults : Prop := CompareLaneRule ∧ MoveLaneRule

/-- R246, R247, R253, R254: CVT rounds each element of the source type to the destination type, to which an infinity saturates; QPACK quantises blocks of 32
elements under one scale each; VRNG gives keyed bits; VDROP zeroes the elements whose keyed bits lie below the threshold and scales the others. -/
def Obligations.ConversionResults : Prop :=
  ∀ (s : State) (e : Issued) (c : Ctx) (o : VOp), s.AtEngine e c →
    let u := vEnv s e c o o.b.toNat o.ty.toNat o.ty.toNat true
    let v := vEnv s e c o o.ty.toNat o.ty.toNat o.ty.toNat false
    let ws := typeBits o.b.toNat
    let src (k : Nat) : Exact := readNum o.b.toNat (elemAt ws u.a.value k)
    let scales (b : Nat) : Nat := blockScale u.ty ((List.range 32).map fun j => src (32 * b + j))
    (u.Clear → ∃ r : VOut, VectorGives (.cvt o) s u 3 u.lanes (o.mask == 0) r ∧ r.Holds u.w u.lanes fun k =>
      if k < elemCount ws then (satType u.ty u.mode (u.k k) false (src k)).1 else 0) ∧
    (u.Clear → ∃ r : VOut, VectorGives (.qpack o) s u 3 u.lanes (o.mask == 0) r ∧ r.Holds 8 u.lanes fun k =>
      if k < elemCount ws then
        (satType u.ty u.mode (u.k k) false (if scales (k / 32) = 0xFF then .nan else (src k).scale (127 - (scales (k / 32) : Int)))).1
      else if 128 ≤ k ∧ k < 128 + elemCount ws / 32 then scales (k - 128) else 0) ∧
    (v.Clear → ∃ r : VOut, VectorGives (.vrng o) s v 3 v.lanes (o.mask == 0) r ∧ r.flags = 0 ∧ r.Holds v.w v.lanes fun k =>
      if v.ty = 0 then (satFloat fp32 0 0 true (.fin false (v.keyed 3 k / 2 ^ 40) (-24) false)).1 else v.keyed 3 k) ∧
    (v.Clear → ∀ f, floatFmt v.ty = some f → ∃ r : VOut, VectorGives (.vdrop o) s v 3 v.lanes (o.mask == 0) r ∧
      r.Holds v.w v.lanes fun k =>
        if v.keyed 2 k / 2 ^ 16 % 2 ^ 16 < (c.gRaw e.q (lendReg o.lend)).toNat % 2 ^ 16 then 0
        else (satFloat f v.mode (v.k k) true ((v.x k).mul (v.y k))).1)

/-- R248, R249, R123: a reduction writes one value to every element: for integers the sum, least or greatest of the elements whose lane is on, narrowed
once; for floating types the sum in the fixed order of R123. A scan writes at element k the running sum through k, or before k in its exclusive form. -/
def Obligations.ReductionResults : Prop :=
  ∀ (s : State) (e : Issued) (c : Ctx) (o : VOp), s.AtEngine e c →
    let v := vEnv s e c o o.ty.toNat o.ty.toNat o.ty.toNat false
    let ones := BitVec.allOnes 64
    let on (k : Nat) : Bool := laneOf v.lanes v.w k
    let x (k : Nat) : Int := readInt v.ty (elemAt v.w v.a.value k)
    let elems : List Nat := List.range (elemCount v.w)
    v.Clear →
    (floatFmt v.ty = none →
      (∃ r : VOut, VectorGives (.vreds o) s v 7 ones true r ∧
        r.Holds v.w ones fun _ => (narrowInt v.ty v.m0 (((elems.filter on).map x).sum)).1) ∧
      (∃ r : VOut, VectorGives (.vredm o) s v 7 ones true r ∧ r.Holds v.w ones fun _ =>
        wrapTo v.w (if o.md.getLsbD 0 then ((elems.filter on).map x).foldl min (typeRange v.ty).2
          else ((elems.filter on).map x).foldl max (typeRange v.ty).1)) ∧
      (o.isS32 = true → o.md.getLsbD 0 = false → ∃ r : VOut, VectorGives (.vscan o) s v 9 ones true r ∧ r.Holds v.w ones fun k =>
        let upTo := if o.md.getLsbD 1 then k else k + 1
        wrapTo v.w ((((List.range upTo).filter on).map x).sum))) ∧
    (∀ f, floatFmt v.ty = some f →
      let lane (k : Nat) : Exact := v.x k
      (∃ r : VOut, VectorGives (.vreds o) s v 7 ones true r ∧ r.Holds v.w ones fun k =>
        (satFloat f v.mode (v.k k) true (((treeSum sum32 8 (elems.map fun j => if on j then (lane j, 0) else (minusZero, 0))).headD
          (minusZero, 0)).1)).1) ∧
      (∃ r : VOut, VectorGives (.vredm o) s v 7 ones true r ∧ r.Holds v.w ones fun _ =>
        (satFloat f 0 0 true ((treeSum (if o.md.getLsbD 0 then Exact.min else Exact.max) 8
          (elems.map fun j => if on j then lane j else .inf (!o.md.getLsbD 0))).headD .nan)).1) ∧
      (∃ r : VOut, VectorGives (.vscan o) s v 9 ones true r ∧ r.Holds v.w ones fun k =>
        let upTo := if o.md.getLsbD 1 then k else k + 1
        (satFloat f 0 0 true (((List.range upTo).map fun j => if on j then (lane j, 0) else (minusZero, 0)).foldl sum32
          (minusZero, 0)).1).1))

/-- R251, R252, R233: VLDX reads four bytes at each lane's address and its latch takes their poison; VSTX writes them, lane after lane, and no other
byte; both hold the V queue through the bank cycles. The addresses and the checks are those of R251. -/
def Obligations.GatherScatterResults : Prop :=
  ∀ (s : State) (e : Issued) (c : Ctx) (o : VOp), s.AtEngine e c → s.Canonical →
    let v := vEnv s e c o 3 o.ty.toNat o.ty.toNat false
    let addr (j : Nat) : Word64 := c.gRaw e.q (lendReg o.lend) +
      BitVec.ofInt 64 (4 * (((BitVec.ofNat 32 (elemAt 32 v.a.value j)).toInt) + o.md.toInt))
    let key (j : Nat) : Nat := sramKey e.tile (addr j).toNat
    let on (j : Nat) : Prop := j < 64 ∧ v.lanes.getLsbD j = true
    (o.dst.toNat < 12 → firstByStage (v.rowChecks ++ v.laneTraps false ++ [v.a.poison, v.b.poison]) = none →
      Leaves (.vldx o) s e fun t c' =>
        s.SameMemory t ∧ s.SameOthers t e.tile e.place ∧ c'.pc = c.pc ∧ (∀ r, r ≠ .v o.dst.toNat → c.SameReg c' r) ∧
        ∃ w ∈ c'.writes, w.reg = .v o.dst.toNat ∧ w.vis = e.q.disp + 8 ∧
          (∀ j, on j → elemAt 32 w.val.toNat j = leNat (s.read (key j) 4) ∧ elemAt 32 w.mask.toNat j = 2 ^ 32 - 1) ∧
          (∀ j, j < 64 → ¬ on j → elemAt 32 w.mask.toNat j = 0) ∧
          ((∃ j, on j ∧ s.poisoned (key j) 4 = true) → w.poison = some true)) ∧
    (12 ≤ o.dst.toNat → firstByStage (v.rowChecks ++ v.laneTraps false ++ [v.a.poison, v.b.poison]) = none →
      Leaves (.vldx o) s e fun t c' =>
        s.SameMemory t ∧ s.SameOthers t e.tile e.place ∧ c'.pc = c.pc ∧ (∀ r, c.SameReg c' r) ∧
          c'.outRows.length = c.outRows.length + 1) ∧
    (firstByStage (v.a.traps ++ v.b.traps ++ v.d.traps ++ v.laneTraps true ++ [v.a.poison, v.b.poison]) = none →
      Leaves (.vstx o) s e fun t c' =>
        (∀ a, (∀ j, on j → a < key j ∨ key j + 4 ≤ a) → t.mem.read a = s.mem.read a) ∧
        (∀ j, on j → (∀ k, j < k → on k → key j + 4 ≤ key k ∨ key k + 4 ≤ key j) →
          leNat (t.read (key j) 4) = elemAt 32 v.d.value j) ∧
        s.SameOthers t e.tile e.place ∧ c'.pc = c.pc ∧ ∀ r, c.SameReg c' r)

/-- R255: VDIGEST init sets the hash state of FIPS 180-4 and length zero; absorb takes in the 256 bytes of its source; finish gives the digest of what
was absorbed. The digest CSRs follow with latency 9. -/
def Obligations.DigestResults : Prop :=
  ∀ (s : State) (e : Issued) (c : Ctx), s.AtEngine e c →
    Completes .vdigestInit s e (c.putDigest e.q
      [0x6a09e667, 0xbb67ae85, 0x3c6ef372, 0xa54ff53a, 0x510e527f, 0x9b05688c, 0x1f83d9ab, 0x5be0cd19] 0) ∧
    (∀ (a : BitVec 4) (lend : Option Byte),
      let x := vsrc s e c a.toNat 0 0 lend
      firstByStage (x.traps ++ [x.poison]) = none →
        Completes (.vdigestAbsorb a lend) s e
          (c.putDigest e.q (shaBlocks (c.digestState e.q) (leBytes 256 x.value)) (c.csrBefore e.q.seq 0x56 + 2048))) ∧
    (∀ dst : BitVec 4,
      let v := vEnv s e c ⟨dst, 12, 12, 12, 0, 0, 0, none⟩ 0 0 0 false
      firstByStage v.rowChecks = none → ∃ r : VOut, VectorGives (.vdigestFinish dst) s v 9 (BitVec.allOnes 64) true r ∧
        r.value = leNat (shaBytes (shaBlock (c.digestState e.q) (shaFinal (c.csrBefore e.q.seq 0x56).toNat))))

/-- R255: what init, absorb of n vectors and finish compute is SHA-256 (FIPS 180-4) of the bytes of the vectors in their order. -/
def Obligations.DigestIsSha256 : Prop :=
  ∀ vectors : List (List Byte), (∀ x ∈ vectors, x.length = 256) → vectors.length < 2 ^ 48 →
    shaBytes (shaBlock (vectors.foldl shaBlocks shaInit) (shaFinal (2048 * vectors.length))) = sha256 vectors.flatten

/-- R232: a V result for a latch is posted through its lanes, all bits of a lane that is on and none of one that is off, and R230: the flags and the
mask register besides; a result for an output port leaves one row of bytes to be written and no latch changes. -/
def Obligations.VectorResultIsWritten : Prop :=
  ∀ (s : State) (e : Issued) (c : Ctx) (o : VOp) (latency : Nat) (lanes : Word64) (full : Bool) (r : VOut), s.AtEngine e c →
    let v := vEnv s e c o o.ty.toNat o.ty.toNat o.ty.toNat false
    let t := (Act.done (v.write latency lanes full r)).commit e
    s.SameMemory t ∧ s.SameOthers t e.tile e.place ∧ t.engine = none ∧ ∃ c', t.ctx? e.tile e.place = some c' ∧ c'.pc = c.pc ∧
      (∀ x, x ≠ .v o.dst.toNat → x ≠ .csr 0x50 → x ≠ .m o.mask.toNat → c.SameReg c' x) ∧
      (o.dst.toNat < 12 → c'.outRows = c.outRows ∧ ∃ w ∈ c'.writes, w.reg = .v o.dst.toNat ∧ w.vis = e.q.disp + latency ∧
        w.val = BitVec.ofNat 2048 r.value ∧ (∀ j, j < 2048 → w.mask.getLsbD j = lanes.getLsbD (j / 32)) ∧
        w.poison = (if full || r.poison then some r.poison else none)) ∧
      (12 ≤ o.dst.toNat → c.SameReg c' (.v o.dst.toNat) ∧
        ((e.q.rowOn (o.dst.toNat - 4)).bound = none → c'.outRows = c.outRows) ∧
        (∀ p, (e.q.rowOn (o.dst.toNat - 4)).bound = some p → c'.outRows.length = c.outRows.length + 1))

/-! ### The matrix array (11_matrix) -/

/-- The context of the syllable owns the array and carries no revalidation mark (R145, R147). -/
def Sys2Proof.Machine.State.OwnsArray (s : State) (e : Issued) (c : Ctx) : Prop := s.standing e.tile c = .mine ∧ c.statusBit 5 = false

/-- The tables of an array list their rows in order. -/
def Sys2Proof.Machine.MatrixArray.Ordered (m : MatrixArray) : Prop :=
  Table.sorted m.wb0 = true ∧ Table.sorted m.wb1 = true ∧ Table.sorted m.acc = true

/-- An M syllable goes on, changes no memory and no other context, and leaves its array and context as P has it: array before and after, context. -/
def Sys2Proof.Machine.ArrayLeaves (i : Instr) (s : State) (e : Issued) (c : Ctx) (P : MatrixArray → MatrixArray → Ctx → Prop) : Prop :=
  Leaves i s e fun t c' => P (s.tile e.tile).array (t.tile e.tile).array c' ∧ s.SameMemory t ∧ s.SameOthers t e.tile e.place ∧
    c'.pc = c.pc ∧ ∀ r, (∀ n, r ≠ .csr n) → c.SameReg c' r

/-- What a beat leaves in the array (R262, R124, R125): in every column below the effective count, the accumulator, or zero for a first beat, with the
sum over the effective depth of activation times weight added in the row's mode; nothing else changes but the poison of a first beat's row. -/
def Sys2Proof.Machine.BeatOn (s : State) (e : Issued) (c : Ctx) (row bank : Nat) (first : Bool) (scale : Nat) (x : Nat → Int)
    (m m' : MatrixArray) : Prop :=
  let d := e.q.disp
  let dot (n : Nat) : Int := ((List.range (c.depthAt d)).map fun k => x k * m.weight (c.boothAt d) bank k n).sum
  (∀ n, n < 64 →
    let acc := if first then 0 else elemAt 32 (m.row row).toNat n
    elemAt 32 (m'.row row).toNat n =
      if n < s.columnsAt e.tile c d then (accumulate (c.fpRow d row) scale acc (dot n)).1 % 2 ^ 32 else acc) ∧
  (∀ r, r ≠ row → m'.row r = m.row r) ∧ m'.wb0 = m.wb0 ∧ m'.wb1 = m.wb1 ∧ m'.owner = m.owner ∧ m'.bankPoison = m.bankPoison ∧
  m'.rowPoison = if first then setBit m.rowPoison row false else m.rowPoison

/-- R272, R273, R263, R278: WFMT sets the weight format and empties both banks; WSWAP exchanges them; AFMT writes one field of AFMT_L or AFMT_H; ACCZ
zeroes rows and sets their modes; the CSR writes are seen one cycle after dispatch. -/
def Obligations.ArrayStateResults : Prop :=
  ∀ (s : State) (e : Issued) (c : Ctx), s.AtEngine e c → s.OwnsArray e c → (s.tile e.tile).array.Ordered →
    let posted (c' : Ctx) (n : Nat) (mask v : Word64) : Prop := ∃ w ∈ c'.writes, w.reg = .csr n ∧ w.vis = e.q.disp + 1 ∧
      w.mask = mask.setWidth 2048 ∧ w.val = v.setWidth 2048
    (∀ f : BitVec 2, ArrayLeaves (.wfmt f) s e c fun m m' c' =>
      m'.wb0 = [] ∧ m'.wb1 = [] ∧ m'.bankPoison = 0 ∧ m'.acc = m.acc ∧ m'.owner = m.owner ∧ posted c' 0x5C 1 (f.setWidth 64)) ∧
    (ArrayLeaves .wswap s e c fun m m' c' =>
      m'.wb0 = m.wb1 ∧ m'.wb1 = m.wb0 ∧ m'.bankPoison.getLsbD 0 = m.bankPoison.getLsbD 1 ∧
        m'.bankPoison.getLsbD 1 = m.bankPoison.getLsbD 0 ∧ m'.acc = m.acc ∧ m'.owner = m.owner ∧ c'.writes = c.writes) ∧
    (∀ (stream : BitVec 4) (fmt : BitVec 2) (code : BitVec 8), stream.toNat < 8 →
      ArrayLeaves (.afmt stream fmt code) s e c fun m m' c' => m' = m ∧
        posted c' (if stream.toNat < 4 then 0x59 else 0x5A) (0x3FF <<< (16 * (stream.toNat % 4)))
          ((fmt ++ code : BitVec 10).setWidth 64 <<< (16 * (stream.toNat % 4)))) ∧
    (∀ (row : BitVec 6) (fp : Bool), ArrayLeaves (.accz row fp false) s e c fun m m' c' =>
      m'.row row.toNat = 0 ∧ m'.rowPoison.getLsbD row.toNat = false ∧ (∀ r, r ≠ row.toNat → m'.row r = m.row r) ∧ m'.wb0 = m.wb0 ∧
        m'.wb1 = m.wb1 ∧ posted c' 0x5B (BitVec.twoPow 64 row.toNat) (if fp then BitVec.allOnes 64 else 0)) ∧
    (∀ fp : Bool, ArrayLeaves (.accz 0 fp true) s e c fun m m' c' =>
      (∀ r, r < 64 → m'.row r = 0 ∧ m'.rowPoison.getLsbD r = false) ∧ m'.wb0 = m.wb0 ∧ m'.wb1 = m.wb1 ∧
        posted c' 0x5B (BitVec.allOnes 64) (if fp then BitVec.allOnes 64 else 0))

/-- R273, R260: WLOAD takes a row of weights of a type that fits the array's format and gives each K row from k on the digits of its plane: in every column that
the tile has, a beat naming the bank sees the digit. -/
def Obligations.WeightLoadResult : Prop :=
  ∀ (s : State) (e : Issued) (c : Ctx) (stream : BitVec 4) (plane bank : BitVec 3) (k : BitVec 7) (p : Port) (ordinal fault : Nat),
    s.AtEngine e c → s.OwnsArray e c → (s.tile e.tile).array.Ordered → (s.tile e.tile).columns ≤ 64 → bank.toNat < 2 → plane.toNat < 4 →
    let u := e.q.rowOn stream.toNat
    let r := s.rowIn e.tile c e.q u
    u = ⟨stream.toNat, some p, ordinal, fault⟩ → (∀ x ∈ r.traps, x = none) → r.poison = none →
    (p.handle.type = 8 ∧ c.boothAt e.q.disp = false ∨ (p.handle.type = 13 ∨ p.handle.type = 5) ∧ c.boothAt e.q.disp = true) →
    ArrayLeaves (.wload stream plane bank k) s e c fun m m' _ =>
      m'.acc = m.acc ∧ m'.owner = m.owner ∧ m'.rowPoison = m.rowPoison ∧
      (∀ q n, q < p.width * 8 / (64 * p.bits) → k.toNat + q < 128 → n < (s.tile e.tile).columns →
        m'.weight (c.boothAt e.q.disp) bank.toNat (k.toNat + q) n =
          (weightDigit p.handle.type plane.toNat r.value (64 * q + n)).1) ∧
      ∀ j, j < k.toNat ∨ k.toNat + p.width * 8 / (64 * p.bits) ≤ j → ∀ b, (m'.bank b).getD j 0 = (m.bank b).getD j 0

/-- R262, R275-R277: PUSH takes a row from a stream under its port's format; PUSHX reads the window that UNFOLD and UPOS describe, PUSHG the entries of the
CSR row that GPOS names; each is a beat on its row, and .adv moves the position on. -/
def Obligations.BeatResults : Prop :=
  ∀ (s : State) (e : Issued) (c : Ctx) (row : BitVec 6) (bank : BitVec 3) (first : Bool), s.AtEngine e c → s.OwnsArray e c →
    (s.tile e.tile).array.Ordered → (∀ x ∈ beatPoison s e c row.toNat bank.toNat first, x = none) →
    (∀ stream : BitVec 4,
      let r := s.rowIn e.tile c e.q (e.q.rowOn stream.toNat)
      let a := (c.csrAt e.q.disp (if stream.toNat < 4 then 0x59 else 0x5A)).toNat / 2 ^ (16 * (stream.toNat % 4))
      let fmt := a / 256 % 4
      let scale := if fmt = 0 then a % 256 else r.scale.getD (a % 256)
      stream.toNat < 8 → (∀ x ∈ r.traps, x = none) → r.poison = none →
      ArrayLeaves (.push row stream bank first) s e c fun m m' _ =>
        BeatOn s e c row.toNat bank.toNat first scale (fun k => (activation fmt scale (elemAt 8 r.value k)).1) m m') ∧
    (∀ (h : BitVec 4) (adv : Bool),
      let hv := c.hRaw e.q h
      let u := (c.csrAt e.q.disp 0x5D).toNat
      let pos := (c.csrAt e.q.disp 0x5E).toNat
      let addrs := unfoldAddrs hv u pos
      let scale := c.xscale e.q.disp
      unfoldOk hv u = true → handlePoison c e.q h = none → (∀ x ∈ byteTraps s e c (addrs.filterMap id), x = none) →
      bytePoison s e (addrs.filterMap id) = none →
      ArrayLeaves (.pushx row h bank first adv) s e c fun m m' c' =>
        BeatOn s e c row.toNat bank.toNat first scale (fun k => match addrs.getD k none with
          | some a => (activation ((actFormat hv.type).getD 0) scale (s.mem.read (sramKey e.tile a)).toNat).1
          | none => 0) m m' ∧
        (adv = false → ∀ n, n ≠ 0x58 → c.SameReg c' (.csr n)) ∧
        (adv = true → ∃ w ∈ c'.writes, w.reg = .csr 0x5E ∧ w.vis = e.q.disp + 1 ∧
          w.val = (BitVec.ofNat 64 (unfoldNext hv u pos)).setWidth 2048)) ∧
    (∀ (h : BitVec 4) (adv : Bool),
      let hv := c.hRaw e.q h
      let pos := (c.csrAt e.q.disp 0x5F).toNat
      let g := gatherRow s e.tile hv (pos % 2 ^ 32) (pos / 2 ^ 32 % 2 ^ 16)
      let scale := c.xscale e.q.disp
      gatherOk hv = true → handlePoison c e.q h = none → (∀ x ∈ byteTraps s e c g.reads, x = none) → bytePoison s e g.reads = none →
      g.bad = false →
      ArrayLeaves (.pushg row h bank first adv) s e c fun m m' c' =>
        BeatOn s e c row.toNat bank.toNat first scale (fun k => match g.found.find? fun p => p.1 == k with
          | some p => (activation ((actFormat hv.type).getD 0) scale (s.mem.read (sramKey e.tile p.2)).toNat).1
          | none => 0) m m' ∧
        (adv = false → ∀ n, n ≠ 0x58 → c.SameReg c' (.csr n)) ∧
        (adv = true → ∃ w ∈ c'.writes, w.reg = .csr 0x5F ∧ w.vis = e.q.disp + 1 ∧
          w.val = (BitVec.ofNat 64 (gatherNext hv pos)).setWidth 2048))

/-- R278, R124: SHIFT multiplies the columns of a row by 4 per step: an integer row by 4^count, clamped to 32 bits; a floating row with one rounding a step.
R279: DRAIN leaves one row of its output port to be written and zeroes the accumulator row only under .zero. -/
def Obligations.ShiftAndDrainResults : Prop :=
  ∀ (s : State) (e : Issued) (c : Ctx) (row : BitVec 6), s.AtEngine e c → s.OwnsArray e c → (s.tile e.tile).array.Ordered →
    (s.tile e.tile).array.rowPoison.getLsbD row.toNat = false →
    let d := e.q.disp
    let cols := s.columnsAt e.tile c d
    (∀ count : BitVec 3, ArrayLeaves (.shift row count) s e c fun m m' _ =>
      (∀ r, r ≠ row.toNat → m'.row r = m.row r) ∧ m'.wb0 = m.wb0 ∧ m'.wb1 = m.wb1 ∧ m'.rowPoison = m.rowPoison ∧
      ∀ n, n < 64 →
        let acc := elemAt 32 (m.row row.toNat).toNat n
        let z := signed 32 acc * 4 ^ count.toNat
        (cols ≤ n → elemAt 32 (m'.row row.toNat).toNat n = acc) ∧
        (n < cols → c.fpRow d row.toNat = false →
          signed 32 (elemAt 32 (m'.row row.toNat).toNat n) = max (-(2 ^ 31)) (min (2 ^ 31 - 1) z)) ∧
        (n < cols → c.fpRow d row.toNat = true →
          elemAt 32 (m'.row row.toNat).toNat n = (fun a => rne32 ((fp32.value a).scale 2) % 2 ^ 32)^[count.toNat] acc)) ∧
    (∀ (stream scale ty : BitVec 4) (zero : Bool) (p : Port) (ordinal fault : Nat),
      let u := e.q.rowOn stream.toNat
      let sc := s.rowIn e.tile c e.q (e.q.rowOn scale.toNat)
      u = ⟨stream.toNat, some p, ordinal, fault⟩ → (∀ x ∈ s.rowTraps e.tile c e.q u, x = none) →
      (scale.toNat < 8 → (∀ x ∈ sc.traps, x = none) ∧ sc.poison = none) →
      ArrayLeaves (.drain row stream scale ty zero) s e c fun m m' c' =>
        (∀ r, r ≠ row.toNat → m'.row r = m.row r) ∧ m'.row row.toNat = (if zero then 0 else m.row row.toNat) ∧ m'.wb0 = m.wb0 ∧
        m'.wb1 = m.wb1 ∧ c'.outRows.length = c.outRows.length + 1 ∧
        ∃ row' ∈ c'.outRows, row'.port = stream.toNat ∧ row'.seq = e.q.seq ∧ row'.poisoned = false ∧ ∃ v : Nat,
          (∃ x : Byte, row'.bytes = s.rowOut e.tile p ordinal v (2 ^ 256 - 1) (e.q.entry stream.toNat) ++ (p.scaleAddr ordinal).toList.map fun a => (a, x)) ∧
          ∀ n, n < 64 → elemAt (typeBits ty.toNat) v n % 2 ^ typeBits ty.toNat =
            if cols ≤ n then 0
            else
              let b := c.rowBefore m d row.toNat (c.fpRow d row.toNat)
              let a := elemAt 32 b.2.toNat n
              (drainElem (if b.1 then fp32.value a else Exact.ofInt (signed 32 a))
                (if scale.toNat < 8 then some (elemAt 32 sc.value n) else none) ty.toNat).1 % 2 ^ typeBits ty.toNat)

/-- R145-R147, R130: an M syllable other than NOP raises ARRAY_OWNERSHIP while another context of its launch owns the array, or while the owner's image has no
place to go (detail 0x0011); of an owner that carries the revalidation mark it raises SHAPE_REVALIDATE and clears the mark. -/
def Sys2Proof.Machine.ArrayRefusalRule : Prop :=
  ∀ (s : State) (e : Issued) (c : Ctx) (i : Instr), s.AtEngine e c → c.Ordered → c.stopping = none →
    ((∃ f, i = .wfmt f) ∨ i = .wswap ∨ (∃ a f x, i = .afmt a f x) ∨ (∃ r f all, i = .accz r f all)) →
    (s.standing e.tile c = .sameLaunch → Raises i s e c { cause := 0x17 }) ∧
    (s.standing e.tile c = .noSlot → Raises i s e c { cause := 0x17, detail := 0x0011 }) ∧
    (s.standing e.tile c = .mine → c.statusBit 5 = true → Leaves i s e fun t c' =>
      c'.statusBit 5 = false ∧ (∃ st, c'.stopping = some st ∧ st.trap.cause = 0x0E) ∧ (t.tile e.tile).array = (s.tile e.tile).array)

/-! ### The vault (12_vault) -/

/-- A D syllable goes on as P has it, of the vault before and after and its context; its registers stand but for FLAGS_D and VXPTR. -/
def Sys2Proof.Machine.VaultLeaves (i : Instr) (s : State) (e : Issued) (c : Ctx) (P : State → Vault → Vault → Ctx → Prop) : Prop :=
  Leaves i s e fun t c' => P t (s.vault e.tile) (t.vault e.tile) c' ∧ s.SameOthers t e.tile e.place ∧ c'.pc = c.pc ∧
    ∀ r, r ≠ .csr 0x62 → c.SameReg c' r

/-- R285, R289, R302: a row command or a refresh that its context owns and that breaks no minimum changes the banks as the manual says, stands on the bus
and in the context's history, and touches no memory: ACT opens its row, PRE and PREA close, REFPB takes one off the debt and flags its bank, REFAB
clears debt and flags. -/
def Sys2Proof.Machine.RowCommandRule : Prop :=
  ∀ (s : State) (e : Issued) (c : Ctx) (bank : BitVec 5) (row : BitVec 13), s.AtEngine e c →
    let v := s.vault e.tile
    let b := bank.toNat
    let driven (t : State) (v' : Vault) (c' : Ctx) (l : List (Command × Nat)) : Prop := s.SameMemory t ∧ ∀ x ∈ l,
      (e.q.disp, x.1, x.2) ∈ c'.commands ∧ (⟨s.time, x.1, x.2, some (c.launch, c.num)⟩ : BusEntry) ∈ v'.bus
    let clear (i : Instr) (off : Nat) : Prop := ownTiming v c e.q i off = none
    (c.ownsBank b = true → ¬ (b = 31 ∧ 8128 ≤ row.toNat) → clear (.act bank row) (v.locate b 0) → v.opened.find? b = none →
      VaultLeaves (.act bank row) s e c fun t v v' c' => driven t v' c' [(.act, b)] ∧ v'.opened.find? b = some row.toNat ∧
        (∀ k, k ≠ b → v'.opened.find? k = v.opened.find? k) ∧ v'.debt = v.debt ∧ v'.round = v.round) ∧
    (c.ownsBank b = true → clear (.pre bank) (v.locate b 0) → Table.sorted v.opened = true →
      VaultLeaves (.pre bank) s e c fun t v v' c' => v'.opened.find? b = none ∧
        (∀ k, k ≠ b → v'.opened.find? k = v.opened.find? k) ∧ v'.debt = v.debt ∧ v'.round = v.round ∧
        driven t v' c' (if (v.opened.find? b).isSome then [(.pre, b)] else [])) ∧
    (clear .prea 0 → VaultLeaves .prea s e c fun t v v' c' => (∀ x, x ∈ v'.opened ↔ x ∈ v.opened ∧ c.ownsBank x.1 = false) ∧
        v'.debt = v.debt ∧ v'.round = v.round ∧
        driven t v' c' ((v.opened.filter fun x => c.ownsBank x.1).map fun x => (.pre, x.1))) ∧
    (c.ownsBank b = true → clear (.refpb bank) (v.locate b 0) → v.opened.find? b = none → v.round.getLsbD b = false → -8 < v.debt →
      VaultLeaves (.refpb bank) s e c fun t v v' c' => driven t v' c' [(.refpb, b)] ∧ v'.debt = v.debt - 1 ∧ v'.opened = v.opened ∧
        v'.round = (if setBit v.round b true = BitVec.allOnes 32 then 0 else setBit v.round b true)) ∧
    (c.vgroups = BitVec.allOnes 8 → clear .refab 0 → v.opened = [] →
      VaultLeaves .refab s e c fun t _ v' c' => driven t v' c' [(.refab, 0)] ∧ v'.debt = 0 ∧ v'.round = 0 ∧ v'.opened = [])

/-- R292-R294, R303: RD and RDX put their column, with its poison, on its way to the SRAM, where it is written 24 cycles later; WR writes the 128 SRAM bytes at
its address, as they were before any later write of its context, to the column of the open row, and WRM those bytes whose mask bit is set; nothing
else in memory changes. -/
def Obligations.ColumnCommandResults : Prop :=
  ∀ (s : State) (e : Issued) (c : Ctx) (o : ColOp), s.AtEngine e c → s.Canonical →
    let v := s.vault e.tile
    let a := (c.gRaw e.q o.gs + off19 o.off o.lend * 128).toNat
    let off := v.locate o.bank.toNat o.col.toNat
    let key := vaultKey e.tile off
    let clear (i : Instr) (span : Nat) (write : Bool) : Prop := (∀ x ∈ colChecks o span write s e c, x = none) ∧
      ownTiming v c e.q i off = none ∧ (v.opened.find? o.bank.toNat).isSome = true
    let lands (t : State) (v v' : Vault) (pieces : List (Nat × List Byte × Bool)) : Prop := s.SameMemory t ∧
      v'.landings = v.landings ++ [⟨c.launch, c.num, e.q.seq, pieces⟩] ∧ v'.opened = v.opened ∧
      ∃ k, (s.clock e.tile + 24, k, Instr.vaultReadLands e.tile) ∈ (t.tile e.tile).due
    (clear (.rd o) 128 false → VaultLeaves (.rd o) s e c fun t v v' _ => lands t v v'
      [(a, s.read key 64, s.poisoned key 64), (a + 64, s.read (vaultKey e.tile (off + 64)) 64, s.poisoned (vaultKey e.tile (off + 64)) 64)]) ∧
    (let n := 32 / c.rdxBytes e.q
     let m := c.rdxMeta e.q
     clear (.rdx o) 256 false → sramRange m n 0x0C08 0x0C09 n = none → s.setCheck e.tile c e.q.group 2 true false false false m n = none →
      s.poisoned (sramKey e.tile m) n = false → ∀ dense, dense24 (c.rdxBytes e.q) (s.read key 128) (s.read (sramKey e.tile m) n) = some dense →
      VaultLeaves (.rdx o) s e c fun t v v' c' => lands t v v' ((List.range 4).map fun k =>
        (a + 64 * k, (dense.drop (64 * k)).take 64, s.poisoned (vaultKey e.tile (off + 64 * (k / 2))) 64)) ∧
        ∃ w ∈ c'.writes, w.reg = .csr 0x62 ∧ w.val = (BitVec.ofNat 64 ((m + n) % 2 ^ 20)).setWidth 2048) ∧
    (clear (.wr o) 128 true → VaultLeaves (.wr o) s e c fun t _ v' _ => v'.opened = v.opened ∧
      (∀ j, j < 128 → t.mem.read (key + j) = (s.wrBytes e c a 128).1.getD j 0) ∧ s.SameMemoryBut t key 128) ∧
    (clear (.wrm o) 144 true → (s.wrBytes e c (a + 128) 16).2 = false →
      let mask := leNat (s.wrBytes e c (a + 128) 16).1
      VaultLeaves (.wrm o) s e c fun t _ v' _ => v'.opened = v.opened ∧
        (∀ j, j < 128 → t.mem.read (key + j) = if mask.testBit j then (s.wrBytes e c a 128).1.getD j 0 else s.mem.read (key + j)) ∧
        s.SameMemoryBut t key 128)

/-- Table 12.3, R285, R302: what refuses a D syllable, and with which detail: a bank that the context does not own, the reserved rows of bank 31, an open or closed
bank, a flagged bank, a debt at its least. Nothing happens but the trap. -/
def Sys2Proof.Machine.VaultRefusalRule : Prop :=
  ∀ (s : State) (e : Issued) (c : Ctx) (bank : BitVec 5) (row : BitVec 13), s.AtEngine e c →
    let v := s.vault e.tile
    let b := bank.toNat
    let at_ (off : Nat) : Word64 := BitVec.ofNat 64 off
    (c.ownsBank b = false →
      Raises (.act bank row) s e c { cause := 0x08, detail := 0x0C05, address := at_ (v.locate b 0) } ∧
      Raises (.pre bank) s e c { cause := 0x08, detail := 0x0C05, address := at_ (v.locate b 0) } ∧
      Raises (.refpb bank) s e c { cause := 0x08, detail := 0x0C05, address := at_ (v.locate b 0) }) ∧
    (∀ k, k < 32 → c.ownsBank k = false → (∀ j, j < k → c.ownsBank j = true) →
      Raises .refab s e c { cause := 0x08, detail := 0x0C06, address := at_ (v.locate k 0) }) ∧
    (c.ownsBank b = true → b = 31 → 8128 ≤ row.toNat →
      Raises (.act bank row) s e c { cause := 0x08, detail := 0x000C, address := at_ (v.locate b 0) }) ∧
    (c.ownsBank b = true → ¬ (b = 31 ∧ 8128 ≤ row.toNat) → ownTiming v c e.q (.act bank row) (v.locate b 0) = none →
      (v.opened.find? b).isSome = true →
      Raises (.act bank row) s e c { cause := 0x07, detail := 0x0C02, address := at_ (v.locate b 0) }) ∧
    (c.ownsBank b = true → ownTiming v c e.q (.refpb bank) (v.locate b 0) = none →
      ((v.opened.find? b).isSome = true → Raises (.refpb bank) s e c { cause := 0x07, detail := 0x0C02, address := at_ (v.locate b 0) }) ∧
      (v.opened.find? b = none → v.round.getLsbD b = true →
        Raises (.refpb bank) s e c { cause := 0x07, detail := 0x0C03, address := at_ (v.locate b 0) }) ∧
      (v.opened.find? b = none → v.round.getLsbD b = false → v.debt ≤ -8 →
        Raises (.refpb bank) s e c { cause := 0x07, detail := 0x0C04, address := at_ (v.locate b 0) }))

/-- R130, R145-R147, R285, R302: what refuses M and D syllables. -/
def Obligations.EngineRefusals : Prop := ArrayRefusalRule ∧ VaultRefusalRule

/-- R304, Table 12.6: VSTAT gives a bank's open row, state, ownership and flag, the debt, the bands and window, the flags of the round, or the cycle of the next
increment, with latency 2, and never traps. -/
def Sys2Proof.Machine.VaultStatusRule : Prop :=
  ∀ (s : State) (e : Issued) (c : Ctx) (bank : BitVec 5) (gd : BitVec 6) (sel : BitVec 11), s.AtEngine e c →
    let v := s.vault e.tile
    ∃ r : Word64, Completes (.vstat bank gd sel) s e (c.resultG e.q 2 gd r) ∧
      (sel = 0 → (v.opened.getD bank.toNat 0) < 2 ^ 13 → r.toNat % 2 ^ 16 = v.opened.getD bank.toNat 0 ∧
        r.getLsbD 16 = (v.opened.find? bank.toNat).isSome ∧ r.getLsbD 17 = c.ownsBank bank.toNat ∧ r.getLsbD 18 = v.round.getLsbD bank.toNat) ∧
      (sel = 1 → r = BitVec.ofInt 64 v.debt) ∧
      (sel = 2 → v.measured < 3 → v.accrual < 3 → r.toNat % 16 = v.measured ∧ r.toNat / 16 % 16 = v.accrual ∧ r.getLsbD 8 = v.window.isSome) ∧
      (sel = 3 → r = v.round.setWidth 64) ∧
      (sel = 4 → v.stepDue = true → r = s.cycle)

/-- The row commands of the vault, and VSTAT. -/
def Obligations.RowAndStatusResults : Prop := RowCommandRule ∧ VaultStatusRule


/-! ### The Q slot (09_streams, 13_copy, 14_mesh, 15_barrier, 16_yarrow, 17_sorrel) -/

/-- A Q syllable goes on as P has it; its pc, its registers, memory and the other contexts stand. -/
def Sys2Proof.Machine.QLeaves (i : Instr) (s : State) (e : Issued) (c : Ctx) (P : State → Ctx → Prop) : Prop :=
  Leaves i s e fun t c' => P t c' ∧ c'.pc = c.pc ∧ (∀ r, c.SameReg c' r) ∧ s.SameMemory t ∧ s.SameOthers t e.tile e.place

/-- n bytes more on a token (R321), the others as they were. -/
def Sys2Proof.Machine.Ctx.Posted (c c' : Ctx) (t n : Nat) : Prop :=
  (c'.token t).remaining = (c.token t).remaining + BitVec.ofNat 64 n ∧
    (c'.token t).expected = ((c.token t).expected + BitVec.ofNat 64 n) &&& 0xFFFFFFFFFFFF ∧ ∀ k, k ≠ t → c'.token k = c.token k

/-- Every token as it was. -/
def Sys2Proof.Machine.Ctx.SameTokens (c c' : Ctx) : Prop := ∀ k, c'.token k = c.token k

/-- R223: BIND and BINDG bind a free port to a copy of the handle with the origin in g[ga], at row 0, if no check of Table 9.5 fails; a bound port raises
STREAM_FAULT with detail 0x0907. R225: SSKIP moves the position on, modulo the rows of a repeating stream, to the end at most for any other. R224: UNBIND
puts the rows that its port still has to write on its token. R226: SQRY gives Table 9.7 with latency 2. -/
def Obligations.StreamSyllableResults : Prop :=
  ∀ (s : State) (e : Issued) (c : Ctx) (port : BitVec 4), s.AtEngine e c → Table.sorted c.ports = true → Table.sorted c.tokens = true →
    let n := port.toNat
    let others (c' : Ctx) : Prop := (∀ k, k ≠ n → Table.find? c'.ports k = Table.find? c.ports k) ∧ c.SameTokens c'
    (∀ (ga : BitVec 6) (h : BitVec 4) (narrow : Bool), c.CleanG e.q ga → handlePoison c e.q h = none →
      let fresh (gather : Bool) : Port := ⟨c.hRaw e.q h, narrow, (c.gRaw e.q ga).setWidth 56, 0, gather, 0, 0, e.q.seq⟩
      let binds (i : Instr) (gather : Bool) : Prop :=
        (Table.find? c.ports n = none → bindRefusal (fresh gather) (decide (8 ≤ n)) = none → QLeaves i s e c fun _ c' =>
          (∃ p, Table.find? c'.ports n = some p ∧ { p with fetching := 0 } = fresh gather) ∧ others c') ∧
        ((Table.find? c.ports n).isSome = true → Raises i s e c { cause := 0x0F, detail := 0x0907 }) ∧
        (Table.find? c.ports n = none → ∀ d, bindRefusal (fresh gather) (decide (8 ≤ n)) = some d → Raises i s e c { cause := 0x0F, detail := d })
      binds (.bind ga h port narrow) false ∧ binds (.bindg ga h port narrow) true) ∧
    (∀ ga : BitVec 6, c.CleanG e.q ga →
      (Table.find? c.ports n = none → Raises (.sskip ga port) s e c { cause := 0x0F, detail := 0x0908 }) ∧
      (∀ p, Table.find? c.ports n = some p → QLeaves (.sskip ga port) s e c fun _ c' => others c' ∧
        ∃ p', Table.find? c'.ports n = some p' ∧ p'.handle = p.handle ∧ p'.origin = p.origin ∧ p'.narrow = p.narrow ∧ p'.gather = p.gather ∧
          p'.position = if p.handle.repeats then (p.position + (c.gRaw e.q ga).toNat) % p.total
            else min (p.position + (c.gRaw e.q ga).toNat) p.total)) ∧
    (∀ (post : Bool) (t : BitVec 3),
      let mine (r : OutRow) : Bool := (c.boundFor e.q n).isSome && post && r.port == n && decide (r.seq < e.q.seq) && r.token.isNone
      QLeaves (.unbind port post t) s e c fun _ c' =>
        c'.outRows = c.outRows.map (fun r => if mine r then { r with token := some t.toNat } else r) ∧
        (if post then c.Posted c' t.toNat (((c.outRows.filter mine).map fun r => r.bytes.length).sum) else c.SameTokens c') ∧
        ((e.q.rows.any fun u => u.port == n) = true → c'.ports = c.ports) ∧
        ((e.q.rows.any fun u => u.port == n) = false → Table.find? c'.ports n = none ∧
          ∀ k, k ≠ n → Table.find? c'.ports k = Table.find? c.ports k)) ∧
    (∀ (ga : BitVec 6) (sel : BitVec 3), ∃ r : Word64, Completes (.sqry ga port sel) s e (c.resultG e.q 2 ga r) ∧
      (c.boundFor e.q n = none → r = 0) ∧
      ∀ p, c.boundFor e.q n = some p →
        (sel = 0 → r = if p.handle.repeats then BitVec.allOnes 64 else BitVec.ofNat 64 (p.total - p.position)) ∧
        (sel = 1 → r = BitVec.ofNat 64 p.position) ∧
        (sel = 2 → c.buffered n < 8 → r.getLsbD 0 = true ∧ r.getLsbD 1 = decide (8 ≤ n) ∧ r.getLsbD 2 = p.narrow ∧ r.getLsbD 3 = p.gather ∧
          r.getLsbD 4 = p.handle.repeats ∧ r.getLsbD 5 = p.handle.transpose ∧ r.toNat / 64 % 8 = c.buffered n ∧
          r.getLsbD 9 = (!p.handle.repeats && decide (p.total ≤ p.position))) ∧
        (sel = 3 → r = p.origin.setWidth 64))

/-- A copying syllable posts its bytes and hands one operation to the engine, as P has it; the context where it is known by its launch and number keeps
its place, its registers and its neighbours. -/
def Sys2Proof.Machine.Copies (i : Instr) (s : State) (e : Issued) (c : Ctx) (t : BitVec 3) (n : Nat) (P : CopyOp → Prop) : Prop :=
  Leaves i s e fun s' c' => c.Posted c' t.toNat n ∧ c'.pc = c.pc ∧ (∀ r, c.SameReg c' r) ∧ s.SameMemory s' ∧
    (s.findWho ⟨e.tile, c.launch, c.num⟩ = some (e.tile, e.place, c) →
      c'.pending = c.pending ++ [⟨s.ids, e.q.seq, 3⟩] ∧ s.SameOthers s' e.tile e.place) ∧
    ∃ o, Table.find? s'.copies s.ids = some o ∧ o.tile = e.tile ∧ o.owner = some ⟨e.tile, c.launch, c.num⟩ ∧ o.chain = none ∧
      o.token = some t.toNat ∧ o.total = n ∧ o.pos = 0 ∧ o.q = e.q ∧ P o

/-- R311-R314, R321: CPY, CPYB, ACCW and CASW put their bytes on their token and issue one operation; a CPY of no bytes does nothing; a CPYB whose handles
R312 refuses raises STREAM_FAULT. R317: CPYCH starts its channel at the record in g[ga], or for g0 at the channel's resume point, with one byte on the
token. R322, R323: TOKQ gives Table 13.3; TOKCLR clears a token, or raises its unreported error. -/
def Obligations.CopySyllableResults : Prop :=
  ∀ (s : State) (e : Issued) (c : Ctx) (t : BitVec 3), s.AtEngine e c → Table.sorted c.tokens = true →
    (∀ (ga gb len : BitVec 6) (dkind skind : BitVec 2), c.CleanG e.q ga → c.CleanG e.q gb → c.CleanG e.q len →
      let n := (c.gRaw e.q len).toNat % 2 ^ 32
      (n = 0 → Completes (.cpy ga gb dkind skind t len) s e c) ∧
      (n ≠ 0 → Copies (.cpy ga gb dkind skind t len) s e c t n fun o => o.mode = .move ∧ o.dst = c.gRaw e.q ga ∧ o.src = c.gRaw e.q gb ∧
        o.dkind = dkind.toNat ∧ o.skind = skind.toNat ∧ o.row = n ∧ o.extents = [])) ∧
    (∀ hd hs : BitVec 4, handlePoison c e.q hd = none → handlePoison c e.q hs = none →
      let d := c.hRaw e.q hd
      let a := c.hRaw e.q hs
      (badBox d a = true → Raises (.cpyb hd hs t) s e c { cause := 0x0F, detail := 0x0D0D }) ∧
      (badBox d a = false → 2 ^ 40 < boxBytes d → Raises (.cpyb hd hs t) s e c { cause := 0x0F, detail := 0x0D0C }) ∧
      (badBox d a = false → boxBytes d ≤ 2 ^ 40 → boxBytes d ≠ 0 → Copies (.cpyb hd hs t) s e c t (boxBytes d) fun o => o.mode = .move ∧
        o.dst = BitVec.ofNat 64 d.base ∧ o.src = BitVec.ofNat 64 a.base ∧ o.row = (d.extent 0 * typeBits d.type + 7) / 8 ∧
        o.extents = [d.extent 1, d.extent 2, d.extent 3] ∧ o.dstrides = [d.stride 1, d.stride 2, d.stride 3] ∧
        o.sstrides = [a.stride 1, a.stride 2, a.stride 3])) ∧
    (∀ (ga gb : BitVec 6) (op : BitVec 4) (ty : BitVec 3) (kind : BitVec 2) (rel : Bool), c.CleanG e.q ga → c.CleanG e.q gb →
      Copies (.accw ga gb op t ty kind rel) s e c t (accBytes ty.toNat) fun o => o.mode = .accw op.toNat ty.toNat (c.gRaw e.q gb) ∧
        o.dst = c.gRaw e.q ga ∧ o.dkind = kind.toNat) ∧
    (∀ (ga gb : BitVec 6) (ty : BitVec 3) (kind : BitVec 2) (rel : Bool),
      let ret := (c.gRaw e.q (ga + 1)).toNat
      let op : Instr := .casw ga gb t ty kind rel
      (ret % 8 ≠ 0 → Raises op s e c { cause := 0x04, detail := 0x0800, address := BitVec.ofNat 64 ret }) ∧
      (sramRange ret 8 0x0800 0x0801 8 = none → s.setCheck e.tile c e.q.group 3 false true true false ret 8 = none →
        c.CleanG e.q ga → c.CleanG e.q (ga + 1) → c.CleanG e.q gb → c.CleanG e.q (gb + 1) →
        Copies op s e c t 8 fun o => o.mode = .casw ty.toNat (c.gRaw e.q gb) (c.gRaw e.q (gb + 1)) ret ∧ o.dst = c.gRaw e.q ga ∧
          o.dkind = kind.toNat)) ∧
    (∀ (ga : BitVec 6) (ch kind : BitVec 2), c.CleanG e.q ga →
      let channel (u : State) : Channel := (u.tile e.tile).channels.getD ch.toNat Channel.stopped
      let starts (record : Word64) (k : Nat) : Prop := QLeaves (.cpych ga ch t kind) s e c fun s' c' => c.Posted c' t.toNat 1 ∧
        ∃ r, (channel s').run = some r ∧ r.record = record ∧ r.kind = k ∧ r.token = some t.toNat ∧ r.stage = 0 ∧
          r.owner = some ⟨e.tile, c.launch, c.num⟩ ∧ (⟨r.pending, e.q.seq, 3⟩ : Pending) ∈ c'.pending
      (ga ≠ 0 → starts (c.gRaw e.q ga) kind.toNat) ∧
      (ga = 0 → ∀ x, (channel s).resume = some x → starts x.1 x.2) ∧
      (ga = 0 → (channel s).resume = none → Completes (.cpych ga ch t kind) s e c)) ∧
    (∀ (ga : BitVec 6) (sel : BitVec 2), ∃ r : Word64, Completes (.tokq ga t sel) s e (c.resultG e.q 2 ga r) ∧
      (sel = 0 → r = (c.token t.toNat).remaining) ∧ (sel = 1 → r = (c.token t.toNat).expected) ∧ (sel = 2 → r = (c.token t.toNat).promise) ∧
      (sel = 3 → r.getLsbD 0 = (c.token t.toNat).error ∧ r.getLsbD 1 = (c.token t.toNat).reported ∧
        r.toNat / 2 ^ 16 % 2 ^ 16 = (c.token t.toNat).cause.toNat ∧ r.toNat / 2 ^ 32 = (c.token t.toNat).detail.toNat)) ∧
    (((c.token t.toNat).error = false ∨ (c.token t.toNat).reported = true) →
      QLeaves (.tokclr t) s e c fun _ c' => c'.token t.toNat = {} ∧ ∀ k, k ≠ t.toNat → c'.token k = c.token k) ∧
    ((c.token t.toNat).error = true → (c.token t.toNat).reported = false → c.stopping = none →
      QLeaves (.tokclr t) s e c fun _ c' => (c'.token t.toNat).reported = true ∧ (c'.token t.toNat).error = true ∧
        ∃ st, c'.stopping = some st ∧ st.trap.cause = (c.token t.toNat).cause.toNat ∧ st.trap.detail = (c.token t.toNat).detail.toNat ∧
          st.seq = e.q.seq ∧ st.slot = e.q.slot)

/-- R348: MSEND and MCAST read n rows and list n beats, whose arrival cycles count up from g[gb] and which depart at their slot of the frame, never in the
past; with a token 128 bytes for each beat. R349: MLAND, once its beats are there, writes each to its row, frees their entries, and writes nothing
else; a lost one raises MESH_SLOT with detail 0x0E04. R350: MQRY gives its counts with latency 2. -/
def Obligations.MeshSyllableResults : Prop :=
  ∀ (s : State) (e : Issued) (c : Ctx) (ga gb flow : BitVec 6), s.AtEngine e c → Table.sorted c.tokens = true → s.Canonical →
    let a := (c.gRaw e.q ga).toNat
    let tile := s.tile e.tile
    (∀ (n : BitVec 4) (t : BitVec 3) (post multicast : Bool),
      let i : Instr := if multicast then .mcast ga gb n t flow post else .msend ga gb n t flow post
      (∀ x, s.sendCheck e.tile c e.q ga gb (n.toNat + 1) flow.toNat multicast = .error x → Raises i s e c x) ∧
      (∀ f, s.sendCheck e.tile c e.q ga gb (n.toNat + 1) flow.toNat multicast = .ok f → Leaves i s e fun s' c' =>
        c'.pc = c.pc ∧ s.SameMemory s' ∧ s.SameOthers s' e.tile e.place ∧ (∀ r, r ≠ .csr 0x70 → c.SameReg c' r) ∧
        (if post then c.Posted c' t.toNat (128 * (n.toNat + 1)) else c.SameTokens c') ∧
        ∃ beats, (s'.tile e.tile).outbound = tile.outbound ++ beats ∧ beats.length = n.toNat + 1 ∧
          ∀ k, k < n.toNat + 1 → ∃ b, beats[k]? = some b ∧ b.flow = flow.toNat ∧ b.data = s.read (sramKey e.tile (a + 128 * k)) 128 ∧
            b.poisoned = s.badBytes (sramKey e.tile (a + 128 * k)) 128 ∧ b.arrival = c.gRaw e.q gb + BitVec.ofNat 64 k ∧
            b.token = (if post then some t.toNat else none) ∧ s.time ≤ b.depart ∧
            let due : Int := (c.gRaw e.q gb).toNat - f.latency + k
            let departs : Int := s.cycle.toNat + (b.depart - s.time : Nat)
            departs % 64 = due % 64 ∧ (s.cycle.toNat ≤ due → departs = due))) ∧
    (∀ n : BitVec 4,
      let keys := landKeys c e.q gb (n.toNat + 1) flow.toNat
      let key (b : InBeat) : Nat × Nat × Nat × Word64 := (b.launch, b.num, b.flow, b.arrival)
      (∀ x, s.landCheck e.tile c e.q ga gb (n.toNat + 1) flow.toNat = some x → Raises (.mland ga gb n flow) s e c x) ∧
      (s.landCheck e.tile c e.q ga gb (n.toNat + 1) flow.toNat = none → keys.any tile.marks.contains = true →
        Raises (.mland ga gb n flow) s e c { cause := 0x18, detail := 0x0E04 }) ∧
      (s.landCheck e.tile c e.q ga gb (n.toNat + 1) flow.toNat = none → keys.any tile.marks.contains = false → keys.all tile.landed = true →
        (∀ b ∈ tile.landing, b.data.length = 128) →
        Leaves (.mland ga gb n flow) s e fun s' c' => c'.pc = c.pc ∧ (∀ r, c.SameReg c' r) ∧ c.SameTokens c' ∧ s.SameOthers s' e.tile e.place ∧
          (s'.tile e.tile).landing = tile.landing.filter (fun b => !keys.contains (key b)) ∧
          (∀ k, k < n.toNat + 1 → ∃ b ∈ tile.landing, key b = (c.launch, c.num, flow.toNat, c.gRaw e.q gb + BitVec.ofNat 64 k) ∧
            ∀ j, j < 128 → s'.mem.read (sramKey e.tile (a + 128 * k) + j) = b.data.getD j 0) ∧
          s.SameMemoryBut s' (sramKey e.tile a) (128 * (n.toNat + 1)))) ∧
    (∀ sel : BitVec 2, ∃ r : Word64, Completes (.mqry ga sel flow) s e (c.resultG e.q 2 ga r) ∧
      (sel = 0 → r = match s.flowOut c flow.toNat with | some f => BitVec.ofNat 64 f.latency | none => BitVec.allOnes 64) ∧
      (sel = 1 → r = BitVec.ofNat 64 (tile.landing.length + 256 * tile.outbound.length)) ∧
      (sel = 2 → r = BitVec.ofNat 64 (tile.lost.getD c.launch 0)) ∧
      (sel = 3 → ∀ k, k < 64 → r.getLsbD k = match s.flowOut c flow.toNat with | some f => f.slots.contains k | none => false))

/-- A message has left, or waits to leave, or lies at its home, or has gone to another package. -/
def Sys2Proof.Machine.State.OnItsWay (s : State) (m : Message) : Prop :=
  (∃ u ∈ s.unsent, u.msg = m) ∨ (∃ x ∈ s.moving, x.msg = m ∧ x.answer = none) ∨
    (∃ x ∈ (s.tile m.home).messages, ({ x with arrive := m.arrive } : Message) = m) ∨ (m, false) ∈ s.abroad

/-- R360, R361: BINIT, BARR, BINV and BQRY put 8 bytes on their token and send the home of the object that their id names what Table 15.1 asks; an id or a
scope that fails raises BARRIER_ERROR. R365: BWAIT holds the next bundle and asks the home to enter it as a waiter. -/
def Obligations.BarrierSyllableResults : Prop :=
  ∀ (s : State) (e : Issued) (c : Ctx) (ga gb : BitVec 6) (t : BitVec 3), s.AtEngine e c → Table.sorted c.tokens = true →
    let asks (i : Instr) (id : BitVec 6) (others : List (BitVec 6)) (ask : Ask) : Prop :=
      (∀ x, s.barrierCheck e.tile c e.q id others = .error x → Raises i s e c x) ∧
      (∀ k object, s.barrierCheck e.tile c e.q id others = .ok (k, object) → let home := s.barrierHome c k
        QLeaves i s e c fun s' c' => c.Posted c' t.toNat 8 ∧ c'.pending = c.pending ++ [⟨s.ids, e.q.seq, 7⟩] ∧
          ∃ m, s'.OnItsWay m ∧ m.home = home ∧ m.object = object ∧ m.who = ⟨e.tile, c.launch, c.num⟩ ∧ m.launchTile = c.home ∧ m.ask = ask ∧
            m.token = t.toNat ∧ m.pending = s.ids ∧ m.seq = e.q.seq)
    let low (g : BitVec 6) : BitVec 32 := (c.gRaw e.q g).setWidth 32
    asks (.binit ga gb t) ga [gb] (.init (c.gRaw e.q gb)) ∧
    (∀ pd : BitVec 5, asks (.barr ga gb t pd) ga [gb] (.arrive (low gb))) ∧
    asks (.binv ga t) ga [] .invalidate ∧
    (∀ sel : BitVec 2, asks (.bqry ga gb t sel) gb [ga] (.query sel.toNat)) ∧
    ∀ (pd : BitVec 5) (timed : Bool),
      (∀ x, s.barrierCheck e.tile c e.q ga [gb] = .error x → Raises (.bwait ga gb pd timed) s e c x) ∧
      (∀ k object, s.barrierCheck e.tile c e.q ga [gb] = .ok (k, object) → let home := s.barrierHome c k
        QLeaves (.bwait ga gb pd timed) s e c fun s' c' => c.SameTokens c' ∧ ∃ m, s'.OnItsWay m ∧ m.home = home ∧ m.object = object ∧
          m.who = ⟨e.tile, c.launch, c.num⟩ ∧ m.ask = .await (low gb) ∧ m.pd = pd.toNat ∧
          c'.wait = some (.barrier e.q.seq e.q.addr (c.presentOf e.q) m
            (if timed then some ((c.gRaw e.q gb).toNat / 2 ^ 32 % 2 ^ 32) else none) none))

/-- R387: PGSUB puts the bytes of a page on its token and subscribes at the owner; PGUNSUB cancels there. R388: PGCAST takes the entry, opens it unless it
catches up, and casts to the subscribers of its kind. R389-R391: MRGOPEN opens a fresh slot, MRG takes up one record under its sequence number, and MRGFIN
writes the slot's result and closes it. R392: DOMEQ gives Table 16.6. A check of R386 that fails raises its trap and nothing else. -/
def Obligations.YarrowSyllableResults : Prop :=
  ∀ (s : State) (e : Issued) (c : Ctx) (ga gb : BitVec 6), s.AtEngine e c → Table.sorted c.tokens = true → s.Canonical →
    let tile := s.tile e.tile
    let slot := (c.gRaw e.q gb).toNat % 64
    let sends (s' : State) (owner entry : Nat) (ask : Ask) : Prop := ∃ m, s'.OnItsWay m ∧ m.home = owner ∧ m.object = entry ∧
      m.who = ⟨e.tile, c.launch, c.num⟩ ∧ m.ask = ask
    (∀ (t : BitVec 3) (d128 : Bool),
      (∀ x, s.pgsubCheck e.tile c e.q ga gb d128 = some x → Raises (.pgsub ga gb t d128) s e c x) ∧
      (s.pgsubCheck e.tile c e.q ga gb d128 = none → ∀ owner entry, s.pageId e.tile c (c.gRaw e.q ga) = some (owner, entry) →
        QLeaves (.pgsub ga gb t d128) s e c fun s' c' => c.Posted c' t.toNat (if d128 then 32768 else 16384) ∧
          sends s' owner entry (.subscribe (c.gRaw e.q gb).toNat d128))) ∧
    ((∀ x, s.pgunsubCheck e.tile c e.q ga = some x → Raises (.pgunsub ga) s e c x) ∧
      (s.pgunsubCheck e.tile c e.q ga = none → ∀ owner entry, s.pageId e.tile c (c.gRaw e.q ga) = some (owner, entry) →
        QLeaves (.pgunsub ga) s e c fun s' c' => c.SameTokens c' ∧ sends s' owner entry .cancel)) ∧
    (∀ (t : BitVec 3) (d128 catchUp : Bool),
      let p := tile.page slot
      let dest := if catchUp then p.late else p.main
      let page (p' : PageEntry) : Prop := p'.owner = some c.launch ∧ p'.opened = !catchUp ∧ p'.main = (if catchUp then p.main else []) ∧
        p'.late = (if catchUp then [] else p.late)
      (∀ x, s.pgcastCheck e.tile c e.q ga gb d128 = some x → Raises (.pgcast ga gb t d128 catchUp) s e c x) ∧
      (s.pgcastCheck e.tile c e.q ga gb d128 = none → Table.sorted tile.pages = true →
        QLeaves (.pgcast ga gb t d128 catchUp) s e c fun s' c' => page ((s'.tile e.tile).page slot) ∧
          (dest = [] → c.SameTokens c' ∧ (s'.tile e.tile).casts = tile.casts) ∧
          (dest ≠ [] → c.Posted c' t.toNat (if d128 then 32768 else 16384) ∧
            ∃ k, (s'.tile e.tile).casts = tile.casts ++ [k] ∧ k.stage = (c.gRaw e.q ga).toNat ∧ k.next = 0 ∧ k.token = t.toNat ∧ k.d128 = d128 ∧
              k.dests = dest.filter fun x => x.d128 == d128))) ∧
    (∀ d128 : Bool,
      let v := (c.gRaw e.q ga).toNat
      (∀ x, s.mrgopenCheck e.tile c e.q ga = some x → Raises (.mrgopen ga d128) s e c x) ∧
      (s.mrgopenCheck e.tile c e.q ga = none → QLeaves (.mrgopen ga d128) s e c fun s' c' => c.SameTokens c' ∧
        ∃ d, Table.find? (s'.tile e.tile).dome (v % 64) = some d ∧ d.owner = c.launch ∧ d.d128 = d128 ∧ d.n = v / 256 % 128 ∧ d.next = 0 ∧
          d.mask = 0 ∧ d.acc.m = 0xFF800000 ∧ d.acc.l = 0 ∧ d.acc.o = List.replicate (if d128 then 128 else 64) 0)) ∧
    ((∀ x, s.mrgCheck e.tile c e.q ga gb = some x → Raises (.mrg ga gb) s e c x) ∧
      (s.mrgCheck e.tile c e.q ga gb = none → ∀ d, Table.find? tile.dome slot = some d →
        let k := (c.gRaw e.q gb).toNat / 256 % 64
        QLeaves (.mrg ga gb) s e c fun s' c' => c.SameTokens c' ∧
          (∃ d', Table.find? (s'.tile e.tile).dome slot = some d' ∧ d'.mask = setBit d.mask k true ∧ d'.acc = d.acc ∧
            (k ≠ d.next → d'.next = d.next) ∧ (k = d.next → k < d'.next)) ∧
          ∃ m, m.slot = slot ∧ m.s = k ∧ m.record = s.domeRecord e.tile (c.gRaw e.q ga).toNat (if d.d128 then 128 else 64) ∧
            m.pending = s.ids ∧ (k = d.next → m ∈ (s'.tile e.tile).merges) ∧ (k ≠ d.next → m ∈ (s'.tile e.tile).parked))) ∧
    (∀ bf16 raw : Bool,
      (∀ x, s.mrgfinCheck e.tile c e.q ga gb bf16 raw = some x → Raises (.mrgfin ga gb bf16 raw) s e c x) ∧
      (s.mrgfinCheck e.tile c e.q ga gb bf16 raw = none → ∀ d, Table.find? tile.dome slot = some d → Table.sorted tile.dome = true →
        let out := (d.finish bf16 raw).1
        let key := sramKey e.tile (c.gRaw e.q ga).toNat
        Leaves (.mrgfin ga gb bf16 raw) s e fun s' c' => c'.pc = c.pc ∧ (∀ r, r ≠ .csr 0x78 → c.SameReg c' r) ∧ c.SameTokens c' ∧
          s.SameOthers s' e.tile e.place ∧ Table.find? (s'.tile e.tile).dome slot = none ∧
          (∀ k, k < out.length → s'.mem.read (key + k) = out.getD k 0) ∧ s.SameMemoryBut s' key out.length)) ∧
    ∀ (entry : Bool) (sel : BitVec 2),
      (¬ c.CleanG e.q gb → Raises (.domeq ga gb entry sel) s e c { cause := 0x05, detail := 0x20, value := gb.setWidth 48 }) ∧
      (c.CleanG e.q gb → ∃ r : Word64, Completes (.domeq ga gb entry sel) s e (c.resultG e.q 2 ga r) ∧
        (entry = true → (tile.page slot).owner ≠ some c.launch → r = 0) ∧
        (entry = false → sel = 0 → Table.find? tile.dome slot = none → r = 0) ∧
        (entry = false → sel = 1 → ∀ d, Table.find? tile.dome slot = some d → d.owner = c.launch → r = d.mask))

/-- R400, R406, R409: a Sorrel syllable that passes its checks sends one command to its chain, where it arrives 8 cycles later, with what it read of memory;
all but a sweep hold the Q queue until their reply. R413: a sweep of no repeats does nothing; any other, and SFQRY, put 8 bytes on their token. -/
def Obligations.SorrelSyllableResults : Prop :=
  ∀ (s : State) (e : Issued) (c : Ctx) (ga gb : BitVec 6), s.AtEngine e c → Table.sorted c.tokens = true →
    let part := partOf e.tile
    let key := (s.chainOf part).1
    let a := (c.gRaw e.q ga).toNat
    let first := (c.gRaw e.q gb).toNat % 2 ^ 18
    let q := (c.gRaw e.q gb).toNat / 2 ^ 32 % 2 ^ 19
    let commands (i : Instr) (kind : SfKind) (token : Option Nat) (holds : Bool) : Prop := QLeaves i s e c fun s' c' =>
      (match token with | some t => c.Posted c' t 8 | none => c.SameTokens c') ∧ c'.pending = c.pending ++ [⟨s.ids, e.q.seq, 6⟩] ∧
      c'.sf = (if holds then some ⟨e.q.seq, s.ids⟩ else c.sf) ∧
      ∃ cmd h, cmd.arrive = s.time + 8 ∧ cmd.who = ⟨e.tile, c.launch, c.num⟩ ∧ cmd.part = part ∧ cmd.kind = kind ∧ cmd.seq = e.q.seq ∧
        cmd.id = s.ids ∧ cmd.token = token.getD 0 ∧ Table.find? s'.hub.chains key = some h ∧
        h.waiting = (s.chainOf key).2.waiting ++ [cmd] ∧ h.cells = (s.chainOf key).2.cells
    let image (i : Instr) (size : Nat → Nat) (wr : Bool) (kind : SfKind) : Prop :=
      (∀ x, s.imageCheck e.tile c e.q ga gb size wr = some x → Raises i s e c x) ∧
      (s.imageCheck e.tile c e.q ga gb size wr = none → commands i kind none true)
    (∀ (reset : Bool) (ns : BitVec 6), ∃ records, image (.sfload ga gb reset ns) (loadBytes ns) false (.load first q reset records) ∧
      records.length = q ∧ ∀ k j, k < q → j < 1 + ns.toNat →
        (records.getD k []).getD j 0 = BitVec.ofNat 32 (leNat (s.read (sramKey e.tile (a + k * (4 + 4 * ns.toNat) + 4 * j)) 4))) ∧
    (∃ codes, image (.sfclamp ga gb) (fun n => ceilDiv n 4) false (.clamp first q codes) ∧ codes.length = q ∧
      ∀ k, k < q → codes.getD k 0 = leNat (s.read (sramKey e.tile a) (ceilDiv (2 * q) 8)) / 4 ^ k % 4) ∧
    (∃ bits, image (.sfwrite ga gb) (fun n => ceilDiv n 8) false (.write first q bits) ∧ bits.length = q ∧
      ∀ k, k < q → bits.getD k false = (leNat (s.read (sramKey e.tile a) (ceilDiv q 8))).testBit k) ∧
    image (.sfread ga gb) (fun n => ceilDiv n 8) true (.read first q a) ∧
    (∀ (keep entropy : Bool) (m : BitVec 4), c.CleanG e.q ga → c.CleanG e.q gb → (∀ x ∈ s.fieldCheck e.tile c e.q true, x = none) →
      commands (.sfseed ga gb keep entropy m) (.seed (c.gRaw e.q ga) (c.gRaw e.q gb) keep entropy (m.toNat + 1)) none true) ∧
    (∀ (t k : BitVec 3),
      (∀ x, s.sweepCheck e.tile c e.q ga gb = some x → Raises (.sfsweep ga gb t k) s e c x) ∧
      (s.sweepCheck e.tile c e.q ga gb = none → a = 0 → Completes (.sfsweep ga gb t k) s e c) ∧
      (s.sweepCheck e.tile c e.q ga gb = none → a ≠ 0 →
        commands (.sfsweep ga gb t k) (.sweep a (c.gRaw e.q gb).toNat (k.toNat + 1)) (some t.toNat) false)) ∧
    ∀ (t : BitVec 3) (sel : BitVec 2),
      (∀ x, firstTrap (s.fieldCheck e.tile c e.q true) = some x → Raises (.sfqry ga t sel) s e c x) ∧
      ((∀ x ∈ s.fieldCheck e.tile c e.q true, x = none) → commands (.sfqry ga t sel) (.query sel.toNat) (some t.toNat) true)

/-! ### Issue, waits and traps (02_bundles, 03_execution, 06_traps, 07_issue) -/

/-- A step goes on, and P holds of the state. -/
def Sys2Proof.Machine.Goes (i : Instr) (s : State) (P : State → Prop) : Prop := ∃ t, exec i s = .next t ∧ P t

/-- A step goes on, and P holds of the state and of the context that then stands at a place. -/
def Sys2Proof.Machine.Turns (i : Instr) (s : State) (tile place : Nat) (P : State → Ctx → Prop) : Prop :=
  ∃ t c', exec i s = .next t ∧ t.ctx? tile place = some c' ∧ P t c'

/-- R27-R31, R51, R53, R73, R492: a bundle dispatches whole: its context goes on behind it, its syllables join the queues of their slots with the dispatch
cycle, the bundle's scope and rotating base, but for those that a return leaves out; a BIND, BINDG or SSKIP also acts at once (R219); what is
raised before dispatch (R25, R322, R478) stops the context at the bundle. R33: an empty run dispatches once for each of its bundles. -/
def Obligations.BundleDispatch : Prop :=
  ∀ (s : State) (tile place : Nat) (c : Ctx), s.issuing = some (tile, place) → s.ctx? tile place = some c → c.Ordered →
    let clock := s.clock tile
    let same (t : State) (c' : Ctx) : Prop := (∀ r, c.SameReg c' r) ∧ s.SameMemory t ∧ s.SameOthers t tile place ∧ t.issuing = none
    let stops (i : Instr) (x : Trap) : Prop := Turns i s tile place fun t c' => c'.pc = c.pc ∧ same t c' ∧
      ∃ st, c'.stopping = some st ∧ st.trap = x ∧ st.addr = c.pc ∧ st.slot = 7
    (∀ (h : Header) (lend : Option Word32),
      let i : Instr := match lend with
        | some w => .plainBundleWithLend h w
        | none => .plainBundle h
      let slots := presentSlots h.present
      let skip := if lend.isSome then 2 else 1
      let next := c.pc + 4 * (slots.length + skip)
      let sched := c.sched + 1 + h.stall.toNat
      let syllable (q : Queued) (x : Instr) : Prop := ∃ k, slots[k]? = some q.slot ∧ q.word = s.codeWord tile (c.pc + 4 * (k + skip)) ∧
        q.lend = lendByte lend k ∧ q.seq = c.seq ∧ q.disp = clock ∧ q.sched = sched ∧ q.addr = c.pc ∧ q.scope = h.scope ∧ q.rrb = c.rrb ∧
        decode q.slot q.lend q.word = .ok x
      let skipped (slot : Nat) : Prop := (∃ r, c.resume = some r ∧ r.done.getLsbD slot = true) ∨ (c.resume = none ∧ 0 < c.skips.getD slot 0)
      let atOnce (x : Instr) : Prop := (∃ ga hn p w, x = .bind ga hn p w) ∨ (∃ ga hn p w, x = .bindg ga hn p w) ∨ ∃ ga p, x = .sskip ga p
      let like (q q' : Queued) : Prop := { q' with
        group := q.group, rows := q.rows, held := q.held, left := q.left, acted := q.acted, stamp := q.stamp, time := q.time, entries := q.entries } = q
      (∀ x, s.beforeDispatch tile c h.wait next = some x → c.stopping = none → stops i x) ∧
      (s.beforeDispatch tile c h.wait next = none → (∀ q x, syllable q x → s.dispatchTrap tile c q x = none) → Turns i s tile place fun t c' =>
        c'.pc = next ∧ c'.seq = c.seq + 1 ∧ c'.sched = sched ∧ c'.base = clock ∧ c'.remainder = 0 ∧ c'.resume = none ∧ same t c' ∧
        (∃ f, c'.flights = c.flights ++ [f] ∧ f.seq = c.seq ∧ f.addr = c.pc ∧ f.next = next ∧ ∀ k, k < 7 → f.present.getLsbD k = slots.contains k) ∧
        ∀ slot, slot < 7 →
          (slot ∉ slots ∨ skipped slot → c'.queue slot = c.queue slot) ∧
          ∀ q x, syllable q x → q.slot = slot → ¬ skipped slot → ∃ q', c'.queue slot = c.queue slot ++ [q'] ∧ like q q' ∧ q'.time = s.time ∧
            (q'.acted = true ↔ atOnce x) ∧ (atOnce x → t.engine = some ⟨tile, place, q'⟩))) ∧
    ∀ count : BitVec 13,
      let left := (if c.remainder = 0 then count.toNat + 1 else c.remainder) - 1
      (∀ x, s.beforeDispatch tile c 0 (c.pc + 4) = some x → c.stopping = none → stops (.emptyRun count) x) ∧
      (s.beforeDispatch tile c 0 (c.pc + 4) = none → Turns (.emptyRun count) s tile place fun t c' =>
        c'.pc = (if left = 0 then c.pc + 4 else c.pc) ∧ c'.remainder = left ∧ c'.seq = c.seq + 1 ∧ c'.sched = c.sched + 1 ∧ c'.base = clock ∧
          c'.queues = c.queues ∧ same t c')

/-- R35: a bundle whose header or syllable is refused stops its context at the bundle, with ILLEGAL_OPCODE or ILLEGAL_ENCODING, the slot and the detail, and
none of its syllables takes effect. R74: the head of a slot queue leaves for its engine unless something holds it, and then it stays with its cause;
R145: every M syllable of the tile stays, under cause 0xB, while the array is handed over. -/
def Sys2Proof.Machine.LeaveRule : Prop :=
  ∀ (s : State) (tile place slot : Nat) (c : Ctx), s.ctx? tile place = some c →
    (c.stopping = none → s.breakMatch tile c = none →
      let stops (i : Instr) (x : Trap) : Prop := Turns i s tile place fun t c' => c'.pc = c.pc ∧ (∀ r, c.SameReg c' r) ∧ s.SameMemory t ∧
        s.SameOthers t tile place ∧ ∃ st, c'.stopping = some st ∧ st.trap = x ∧ st.addr = c.pc ∧ st.slot = slot
      stops (.illegalOpcode tile place slot) { cause := 0x01 } ∧
      ∀ detail, stops (.illegalEncoding tile place slot detail) { cause := 0x02, detail := detail }) ∧
    ∀ q rest i, c.queue slot = q :: rest → decode q.slot q.lend q.word = .ok i →
      (s.hold tile c q i = none → usesArray i = true → (s.tile tile).array.handover.isSome = true →
        Turns (.slotQueueLeave tile place slot) s tile place fun t c' => c'.queue slot = { q with held := 11 } :: rest ∧ t.engine = s.engine ∧
          (∀ r, c.SameReg c' r) ∧ s.SameMemory t ∧ s.SameOthers t tile place) ∧
      (s.hold tile c q i = none → ¬ (usesArray i = true ∧ ((s.tile tile).array.handover.isSome = true ∨ s.standing tile c = .handover)) →
        Turns (.slotQueueLeave tile place slot) s tile place fun t c' => c'.queue slot = rest ∧
          (∀ k, k ≠ slot → c'.queue k = c.queue k) ∧ t.engine = (if q.acted then none else some ⟨tile, place, { (s.fetchEntries tile c q).2 with left := s.clock tile }⟩) ∧ c'.pc = c.pc ∧
          (∀ r, c.SameReg c' r) ∧ ((s.vault tile).landed = [] → s.SameMemory t ∧ s.SameOthers t tile place)) ∧
      (∀ n, s.hold tile c q i = some n → n ≠ 10 → n ≠ 16 → Turns (.slotQueueLeave tile place slot) s tile place fun t c' =>
        c'.queue slot = { q with held := n } :: rest ∧ (∀ k, k ≠ slot → c'.queue k = c.queue k) ∧ t.engine = s.engine ∧
          (n ≠ 0 → c.lost = none → c'.lost = some (n, slot)) ∧ (∀ r, c.SameReg c' r) ∧ s.SameMemory t ∧ s.SameOthers t tile place)

/-- R161, R162, R322, R365: a met wait ends, and a WAITT's mask is seen one cycle later; an error that no trap has reported is raised in its place; a
barrier's release ends its wait or raises BARRIER_ERROR. R162: a promise that has passed raises PROMISE_MISSED for its token. -/
def Sys2Proof.Machine.WaitRule : Prop :=
  ∀ (s : State) (tile place : Nat) (c : Ctx), s.ctx? tile place = some c → c.stopping = none →
    let clock := s.clock tile
    let release : Instr := .waitRelease tile place
    let quiet (t : State) (c' : Ctx) : Prop := c'.pc = c.pc ∧ s.SameMemory t ∧ s.SameOthers t tile place
    let stops (x : Trap → Prop) (t : State) (c' : Ctx) : Prop := quiet t c' ∧ (∀ r, c.SameReg c' r) ∧ ∃ st, c'.stopping = some st ∧ x st.trap
    (∀ seq addr present mask any dest, c.wait = some (.tokens seq addr present mask any dest) →
      ((c.raises clock seq (maskTokens mask)) = [] → c.waitMet clock mask any = true →
        (dest = none → Turns release s tile place fun t c' => quiet t c' ∧ c'.wait = none ∧ ∀ r, c.SameReg c' r) ∧
        (∀ g, dest = some g → g ≠ 0 → Turns release s tile place fun t c' => quiet t c' ∧
          c'.wait = some (.until seq addr present (s.cycle + 1)) ∧ (∀ r, r ≠ .g g → c.SameReg c' r) ∧
          ∃ w ∈ c'.writes, w.reg = .g g ∧ w.vis = clock + 1 ∧
            ∀ k, k < 64 → w.val.getLsbD k = (decide (k < 8) && mask.getLsbD k && c.tokenDone clock k))) ∧
      (∀ k, (c.raises clock seq (maskTokens mask)).head? = some k → Turns release s tile place fun t c' => (c'.token k).reported = true ∧
        stops (fun x => x.cause = (c.token k).cause.toNat ∧ x.detail = (c.token k).detail.toNat ∧ x.deferred = true) t c')) ∧
    (∀ seq addr present v, c.wait = some (.until seq addr present v) → v ≤ s.cycle →
      Turns release s tile place fun t c' => quiet t c' ∧ c'.wait = none ∧ ∀ r, c.SameReg c' r) ∧
    (∀ seq addr present msg left ok detail landed, c.wait = some (.barrier seq addr present msg left (some (ok, detail, landed))) → landed < clock →
      (ok = true → Turns release s tile place fun t c' => quiet t c' ∧ c'.wait = none ∧ c'.release = some clock ∧ ∀ r, c.SameReg c' r) ∧
      (ok = false → Turns release s tile place fun t c' => c'.wait = none ∧ stops (fun x => x.cause = 0x10 ∧ x.detail = detail) t c')) ∧
    ∀ k, s.missedPromise tile c = some k → Turns (.promiseMissed tile place) s tile place fun t c' => (c'.token k).missed = (c.token k).promise ∧
      stops (fun x => x.cause = 0x0A ∧ x.value = BitVec.ofNat 48 k) t c'

/-- R127-R131: a trap whose context may enter its handler writes the record of Table 6.1 at TRAPREC, and nothing else in memory, makes every result
visible, sets the handler bit, and goes to TRAPVEC; what a return needs is kept (R134). -/
def Obligations.TrapEntry : Prop :=
  ∀ (s : State) (tile place : Nat) (c : Ctx) (st : Stopping), s.ctx? tile place = some c → s.Canonical → c.Ordered →
    c.stopping = some st → c.settled st = true → c.toDebugger st = false → s.noEntry tile c st = none →
    st.trap.cause < 2 ^ 16 → st.trap.detail < 2 ^ 16 → st.slot < 8 → st.addr < 2 ^ 16 → st.remainder < 2 ^ 13 →
    let key := sramKey tile (c.regs.csr.getD 0x13 0).toNat
    Turns (.trapEntry tile place) s tile place fun t c' =>
      c'.pc = (c.regs.csr.getD 0x12 0).toNat ∧ c'.inHandler = true ∧ c'.stopping = none ∧ c'.writes = [] ∧ c'.flights = [] ∧ c'.wait = none ∧
      (∃ r, c'.eret = some r ∧ r.addr = st.addr ∧ r.done = c.doneOf st ∧ r.counts = c.runAhead st ∧ r.remainder = st.remainder) ∧
      (∀ r, r ≠ .csr 0x10 → c'.regs.get r = (c.writes.foldl RegFile.apply c.regs).get r) ∧
      (let q (k : Nat) : Nat := leNat (t.read (key + 8 * k) 8)
       q 0 % 2 ^ 16 = st.trap.cause ∧ q 0 / 2 ^ 16 % 8 = st.slot ∧ q 0 / 2 ^ 19 % 128 = (c.doneOf st).toNat ∧
         q 0 / 2 ^ 27 % 2 = st.trap.deferred.toNat ∧ q 1 = st.addr ∧ q 2 % 2 ^ 16 = st.trap.detail ∧ q 2 / 2 ^ 16 = st.trap.value.toNat ∧
         q 3 = st.trap.address.toNat ∧ q 4 = st.cycle.toNat ∧ q 6 % 2 ^ 8 = st.rrb.toNat ∧ q 6 / 2 ^ 8 % 2 ^ 16 = st.remainder ∧
         q 6 / 2 ^ 24 = st.loops.toNat) ∧
      s.SameMemoryBut t key 64 ∧ s.SameOthers t tile place

/-- R77, R78: a HALT whose operations have ended and whose tokens hold no unreported error takes its context off the tile and out of its launch's live
contexts. R129: so does a trap that enters no handler, and the launch then ends with its cause. -/
def Sys2Proof.Machine.EndRule : Prop :=
  ∀ (s : State) (tile place : Nat) (c : Ctx) (l : Launch), s.ctx? tile place = some c → Table.sorted s.ctxs = true →
    s.hub.launches.find? c.launch = some l →
    let gone (t : State) (l' : Launch) : Prop := t.ctx? tile place = none ∧ Table.find? t.hub.launches c.launch = some l' ∧
      l'.live = l.live.filter fun x => x != (c.home, c.num)
    (c.mayRetire = true → c.unreported (s.clock tile) (List.range 8) = [] → Goes (.haltRetire tile place) s fun t =>
      ∃ l', gone t l' ∧ l'.ending = l.ending) ∧
    ∀ st reason, c.stopping = some st → c.settled st = true → c.toDebugger st = false → s.noEntry tile c st = some reason →
      Goes (.trapEntry tile place) s fun t => ∃ l' x, gone t l' ∧ l'.ending = some x ∧
        (l.ending = none → x.cause = st.trap.cause ∧ x.detail = st.trap.detail ∧ x.reason = reason ∧ x.cycle = st.cycle ∧
          x.status = if st.trap.cause = 0x14 then 4 else 3)

/-- R462, R463: the words of ADD, SUB, XOR, OR, AND, MUL and ADDI are instructions that give those results of the RISC-V specifications. The dispatch of
an instruction that computes a register writes the result there, x0 discards it, and the context goes on behind it; memory is unchanged. -/
def Sys2Proof.Machine.CigonRule : Prop :=
  (∀ rd rs1 rs2 : BitVec 5,
    (∀ x ∈ ([(0, 0, (· + ·)), (0x20, 0, (· - ·)), (0, 4, (· ^^^ ·)), (0, 6, (· ||| ·)), (0, 7, (· &&& ·)), (1, 0, (· * ·))] :
        List (BitVec 7 × BitVec 3 × (Word64 → Word64 → Word64))),
      ∃ f, cigonOf (x.1 ++ rs2 ++ rs1 ++ x.2.1 ++ rd ++ (0x33 : BitVec 7)) 0 = some (.scalar (.calc rd.toNat [rs1.toNat, rs2.toNat] 0 f)) ∧
        ∀ m a b, f m [a, b] = (x.2.2 a b, 0)) ∧
    ∀ imm : BitVec 12,
      ∃ f, cigonOf (imm ++ rs1 ++ (0 : BitVec 3) ++ rd ++ (0x13 : BitVec 7)) 0 = some (.scalar (.calc rd.toNat [rs1.toNat] 0 f)) ∧
        ∀ m a, f m [a] = (a + imm.signExtend 64, 0)) ∧
  ∀ (s : State) (tile place : Nat) (c : Ctx) (g : Cigon) (l : CigonLine) rd sources rm f,
    s.ctx? tile place = some c → c.cigon = some g → g.owed = .nothing → c.writes = [] → s.cigonLine c g.pc = some l →
    l.code = some (.scalar (.calc rd sources rm f)) → c.poisonedX sources = none →
    (let c1 := { c with pc := l.addr, cigon := some g }
     (s.putCtx tile place c1).beforeDispatch tile c1 0 (l.addr + 4) = none) →
    let t := s.cigonDispatch tile place
    ∃ c', t.ctx? tile place = some c' ∧ (∃ g', c'.cigon = some g' ∧ g'.pc = g.pc + 4 ∧ g'.v = g.v) ∧
      c'.regs.g = (c.setX rd (f (g.mode rm) (sources.map c.xReg)).1).regs.g ∧ c'.regs.v = c.regs.v ∧ s.SameMemory t

/-- R35, R74, R77, R129, R161, R162: the leaving of the queues, the refused bundles, the waits and promises, and the ends of a context; R462: the scalar
instructions of the Cigon form. -/
def Obligations.IssueAndEndSteps : Prop := LeaveRule ∧ WaitRule ∧ EndRule ∧ CigonRule

/-! ### Steps of the streams, the vault and the array (09_streams, 11_matrix, 12_vault, 01_package) -/

/-- R221, R267: a row whose bank is free arrives at its port; R218, R221: the oldest output row of a context is written in its place of the order, and counts
on its token. -/
def Sys2Proof.Machine.RowStepRule : Prop :=
  ∀ (s : State) (tile place : Nat) (c : Ctx) (who : Who), s.findWho who = some (tile, place, c) → s.Canonical → Table.sorted c.tokens = true →
    (∀ port p, Table.find? c.ports port = some p → place < 4 → p.fetching ≠ 0 → (p.handle.repeats = true ∨ p.arrived < p.total) →
      (s.tile tile).bankTaken (rowLines (p.rowCells (p.place s tile p.arrived) p.arrived ++ p.entryCells p.arrived)) = false →
      Turns (.streamRowArrival who port) s tile place fun t c' =>
        (∃ p', Table.find? c'.ports port = some p' ∧ p'.arrived = p.arrived + 1 ∧ p'.position = p.position ∧ p'.handle = p.handle) ∧
          (∀ r, c.SameReg c' r) ∧ c'.pc = c.pc ∧ s.SameMemory t ∧ s.SameOthers t tile place) ∧
    (∀ r rest, c.outRows = r :: rest → c.olderST r.seq = false → (s.tile tile).bankTaken (rowLines (r.bytes.map (·.1))) = false →
      (r.bytes.map (·.1)).Nodup → Turns (.outputRowWrite who) s tile place fun t c' =>
        c'.outRows = rest ∧ (∀ x ∈ r.bytes, t.mem.read (sramKey tile x.1) = x.2) ∧
          (∀ k, (∀ x ∈ r.bytes, k ≠ sramKey tile x.1) → t.mem.read k = s.mem.read k) ∧
          (∀ n, r.token = some n → (c'.token n).remaining = (c.token n).remaining - BitVec.ofNat 64 r.bytes.length) ∧
          (∀ n, r.token ≠ some n → c'.token n = c.token n) ∧ (∀ x, c.SameReg c' x) ∧ c'.pc = c.pc ∧ s.SameOthers t tile place)

/-- R292: the oldest data of a RD or RDX on its way is written to the SRAM, each piece at its address, unless a copy that has starved takes a bank of it in
that cycle (R320). No register changes. -/
def Sys2Proof.Machine.LandingStepRule : Prop :=
  ∀ (s : State) (tile : Nat), s.Canonical →
    ∀ l rest, (s.vault tile).landings = l :: rest →
      (s.tile tile).starves (rowLines (l.pieces.map (·.1))) = false → (l.pieces.Pairwise fun a b => a.1 + a.2.1.length ≤ b.1 ∨ b.1 + b.2.1.length ≤ a.1) →
      Goes (.vaultReadLands tile) s fun t => (t.vault tile).landings = rest ∧
        (∀ a p c, s.ctx? a p = some c → ∃ c', t.ctx? a p = some c' ∧ c'.pc = c.pc ∧ c'.tokens = c.tokens ∧ ∀ r, c.SameReg c' r) ∧
        (∀ p ∈ l.pieces, ∀ j, j < p.2.1.length → t.mem.read (sramKey tile p.1 + j) = p.2.1.getD j 0) ∧
        ∀ k, (∀ p ∈ l.pieces, k < sramKey tile p.1 ∨ sramKey tile p.1 + p.2.1.length ≤ k) → t.mem.read k = s.mem.read k

/-- R295-R297: a debt increment adds one, or is met by the engine's own refresh of a closed bank that no running context owns, which the engine puts on the bus as
soon as the minimums allow it, or at 8 starts a forced refresh; that precharges the open rows and keeps them, refreshes all banks, clears debt and
round, opens the rows again and releases the vault. -/
def Sys2Proof.Machine.RefreshStepRule : Prop :=
  ∀ (s : State) (tile : Nat),
    let v := s.vault tile
    let bank := v.increments % 32
    let still (t : State) : Prop := s.SameMemory t
    let driven (v' : Vault) (x : Command) (b : Nat) : Prop := (⟨s.time, x, b, none⟩ : BusEntry) ∈ v'.bus
    (v.forced = none → v.stepDue = true →
      let inUse : Prop := (∃ p c, s.bankOwner tile bank = some (p, c) ∧ p < 4) ∨ (Table.find? v.opened bank).isSome = true ∨ bank ∈ v.closing
      (¬ inUse → Goes (.debtIncrement tile) s fun t => still t ∧ t.ctxs = s.ctxs ∧
        (t.vault tile).debt = v.debt ∧ (t.vault tile).increments = v.increments + 1 ∧ (t.vault tile).refreshing = v.refreshing ++ [bank]) ∧
      (inUse → v.debt < 8 → Goes (.debtIncrement tile) s fun t => still t ∧ t.ctxs = s.ctxs ∧
        (t.vault tile).debt = v.debt + 1 ∧ (t.vault tile).increments = v.increments + 1 ∧ (t.vault tile).stepDue = false) ∧
      (inUse → 8 ≤ v.debt → Goes (.debtIncrement tile) s fun t => still t ∧
        (t.vault tile).debt = v.debt ∧ (t.vault tile).forced = some ⟨s.time, [], false⟩)) ∧
    (∀ b, v.closing = [] → v.refreshing = [b] → Table.find? v.opened b = none → s.engineMay tile .refpb b = true →
      driven ((s.vaultEngine tile).vault tile) .refpb b ∧ ((s.vaultEngine tile).vault tile).refreshing = [] ∧ (s.vaultEngine tile).ctxs = s.ctxs) ∧
    (∀ f, v.forced = some f →
      (Goes (.forcedPrecharge tile) s fun t => still t ∧ (t.vault tile).opened = [] ∧
        (f.rows = [] → Table.sorted v.opened = true → (t.vault tile).forced = some { f with rows := v.opened }) ∧
        (∀ x ∈ v.opened, driven (t.vault tile) .pre x.1) ∧ ∀ b ∈ v.closing, driven (t.vault tile) .pre b) ∧
      (Goes (.forcedRefab tile) s fun t => still t ∧ (t.vault tile).debt = 0 ∧ (t.vault tile).round = 0 ∧
        (t.vault tile).forced = some { f with refreshed := true } ∧ driven (t.vault tile) .refab 0) ∧
      ∀ b row r, f.refreshed = true → f.rows = (b, row) :: r → Goes (.forcedReactivate tile) s fun t => still t ∧
        Table.find? (t.vault tile).opened b = some row ∧ (t.vault tile).forced = some { f with rows := r } ∧ driven (t.vault tile) .act b) ∧
    ((∀ f, v.forced = some f → f.refreshed = true ∧ f.rows = []) →
      Goes (.forcedRefreshRelease tile) s fun t => still t ∧ (t.vault tile).forced = none ∧ t.ctxs = s.ctxs)

/-- R298: the bands are entered at 85 and 95 °C and left 2 °C below, and above 105 °C the package halts. R299: the grace window ends with the accrual band
at the measured band. R22: the average of ten power samples against the limit stops launch starts and lets them resume below 95%, and a sample above
115% halts the package, as heat does: EVENT says why, no context dispatches again, and each ends at its bundle boundary; with the last one the halt is
over, and one by heat has closed every row. -/
def Sys2Proof.Machine.HeatAndPowerRule : Prop :=
  ∀ (s : State) (tile : Nat),
    let v := s.vault tile
    (∀ celsius : Int, v.measured ≤ 2 →
      let becomes (band : Nat) : Prop := Goes (.temperatureMeasurement tile celsius) s fun t => (t.vault tile).measured = band ∧ s.SameMemory t
      (105 < celsius → Goes (.temperatureMeasurement tile celsius) s fun t => t = s.now .thermalHalt) ∧
      (95 < celsius → celsius ≤ 105 → becomes 2) ∧ (93 < celsius → celsius ≤ 95 → becomes (if v.measured = 2 then 2 else 1)) ∧
      (85 < celsius → celsius ≤ 93 → becomes 1) ∧ (83 < celsius → celsius ≤ 85 → becomes (if v.measured = 0 then 0 else 1)) ∧
      (celsius ≤ 83 → becomes 0)) ∧
    (v.window = some s.time → Goes (.graceWindowTimeout tile) s fun t =>
      (t.vault tile).window = none ∧ (t.vault tile).accrual = v.measured ∧ (t.vault tile).measured = v.measured ∧ s.SameMemory t) ∧
    (∀ watts : Nat,
      let last := (watts :: s.hub.watts).take 10
      let limit := (s.reg 0x20).toNat
      Goes (.powerSample watts) s fun t => t.hub.watts = last ∧
        (limit * last.length < last.sum → t.hub.stopped = true ∧ (t.reg 0x38).getLsbD 0 = true) ∧
        (100 * last.sum < 95 * limit * last.length → t.hub.stopped = false) ∧
        (last.sum ≤ limit * last.length → 95 * limit * last.length ≤ 100 * last.sum → t.hub.stopped = s.hub.stopped) ∧
        t.agenda = (if 115 * limit < 100 * watts then [Work.event .powerFaultHalt] else []) ++ s.agenda ∧ t.ctxs = s.ctxs) ∧
    (Table.sorted s.ctxs = true →
      let halts (bit : Nat) (t : State) : Prop := t.ctxs = s.ctxs ∧ s.SameMemory t ∧ (t.reg 0x38).getLsbD bit = true ∧
        t.hub.waits.getLsbD bit = true ∧ t.hub.halting.isSome = true
      Goes .powerFaultHalt s (halts 0) ∧ Goes .thermalHalt s (halts 1) ∧
      (s.hub.halting.isSome = true → ∀ place, s.head tile place = .absent ∨ s.head tile place = .blocked 14) ∧
      ∀ status, s.hub.halting = some status → (∀ x ∈ s.allCtxs, 4 ≤ x.2.1 ∨ x.2.2.drained = true) →
        s.haltDrained.ctxs = [] ∧ s.haltDrained.hub.halting = none ∧ (status = 5 → ∀ x ∈ s.haltDrained.tiles, x.2.vault.opened = []))

/-- R145, R146, R268: a handover makes the requester the owner, with its own image or, where it has none, an array of zeros, and leaves the image of the
owner before it in the window. No register changes but ARRAYCFG, which shows the owner and the images. -/
def Sys2Proof.Machine.HandoverRule : Prop :=
  ∀ (s : State) (tile place : Nat) (c : Ctx), s.ctx? tile place = some c → s.standing tile c = .handover → Table.sorted s.ctxs = true →
    Goes (.arrayHandover tile place) s fun t =>
      let a := (t.tile tile).array
      a.owner = some (c.launch, c.num) ∧ a.image = (s.tile tile).array.owner ∧ a.handover = none ∧
        (∀ k p x, s.ctx? k p = some x → ∃ x', t.ctx? k p = some x' ∧ x'.pc = x.pc ∧ x'.tokens = x.tokens ∧
          ∀ r, r ≠ .csr csrArrayCfg → x.SameReg x' r) ∧
        ((s.tile tile).array.image ≠ some (c.launch, c.num) → (s.tile tile).slotOf c.launch c.num = none →
          a.acc = [] ∧ a.wb0 = [] ∧ a.wb1 = [] ∧ a.bankPoison = 0 ∧ a.rowPoison = 0)

/-- R22, R145, R221, R267, R292, R295-R299: rows, vault data, refresh, temperature, power, and the handover of the array. -/
def Obligations.StreamVaultAndPowerSteps : Prop := RowStepRule ∧ LandingStepRule ∧ RefreshStepRule ∧ HeatAndPowerRule ∧ HandoverRule

/-! ### Steps of the copy engine (13_copy, 14_mesh R340) -/

/-- A move from its operands' first beat on, the whole of which one access of either side covers, whose source lies at g. -/
def Sys2Proof.Machine.CopyOp.Reads (o : CopyOp) (s : State) (op : Nat) : Prop :=
  Table.find? s.copies op = some o ∧ o.mode = .move ∧ o.walk = none ∧ o.hand = none ∧ o.saved = [] ∧ o.savedPoison = [] ∧ o.piece = o.beat ∧ 0 < o.beat ∧
    o.applying = false

/-- After a step the operation has in hand the bytes of its beat that lay at a home. -/
def Sys2Proof.Machine.CopyOp.Takes (o : CopyOp) (s : State) (op : Nat) (h : Home) (t : State) : Prop :=
  ∃ o', Table.find? t.copies op = some o' ∧ o'.hand = some (s.bytesAt h o.beat,
    if h.space < 2 then (List.range o.beat).filter fun k => s.poison.contains ((s.keyOf h + k) / 64) else []) ∧
    o'.pos = o.pos ∧ o'.dst = o.dst ∧ o'.total = o.total ∧ s.SameMemory t

/-- No access of the cycle has taken a bank of the lines of some bytes at a home (R320). -/
def Sys2Proof.Machine.State.bankFree (s : State) (h : Home) (n : Nat) : Prop :=
  ∀ l ∈ rowLines [h.off, h.off + n - 1], ∀ k ∈ (s.tile h.tile).lines, k % 16 ≠ l % 16

/-- R311, R319, R320, R423: an access of a source in a data SRAM whose bank is free, in an open row of a vault, or in host memory once its read completes,
takes the bytes of the beat in hand. R286: a closed bank is opened for it, its column coming tRCD later. -/
def Sys2Proof.Machine.SourceRule : Prop :=
  ∀ (s : State) (op : Nat) (o : CopyOp) (g : Word64), o.Reads s op →
    let h := homeOf g
    let row := h.off / 2 ^ 11 % 2 ^ 13
    let bank := h.off / 2 ^ 24
    (s.copyHeld op o (s.operandHome o.tile o.skind o.srcAt) false = false → s.translate o o.skind o.srcAt .read = .at g → h.space = 1 →
      s.isHere h = true → s.homeFault o h o.beat true false false = none → s.barred o h = false → (s.copySend o h true).isSome = true →
      s.bankFree h o.beat →
      Goes (.copySourceRead op) s fun t => o.Takes s op h t ∧ t.ctxs = s.ctxs) ∧
    (o.reach = some g → Goes (.hostReadCompletion op) s fun t => o.Takes s op h t ∧ t.ctxs = s.ctxs) ∧
    ∀ tile, o.reach = some g → o.column = 0 → (s.vault tile).forced = none → bank ∉ (s.vault tile).closing → (s.vault tile).busy.getD bank 0 ≤ s.time →
      s.transferEnd tile ≤ s.time → (∀ b ∈ (s.vault tile).bus, b.time ≠ s.time) →
      (Table.find? (s.vault tile).opened bank = some row → brokenRows (busOf (s.vault tile).bus) s.time .rd bank = [] →
        Goes (.copyService tile op) s fun t => o.Takes s op h t ∧ t.ctxs = s.ctxs ∧ (⟨s.time, .rd, bank, none⟩ : BusEntry) ∈ (t.vault tile).bus) ∧
      (Table.find? (s.vault tile).opened bank = none → brokenRows (busOf (s.vault tile).bus) s.time .act bank = [] →
        Goes (.copyService tile op) s fun t => s.SameMemory t ∧ t.ctxs = s.ctxs ∧ (⟨s.time, .act, bank, none⟩ : BusEntry) ∈ (t.vault tile).bus ∧
          ∃ o', Table.find? t.copies op = some o' ∧ o'.column = s.time + 27 ∧ o'.pos = o.pos)

/-- R311, R313, R314, R319, R339: a beat of a move that is at a data SRAM of its package, the oldest that the port has taken, writes its bytes there, an
accumulate replaces the word by its result, and the return word of a CASW takes the old value; nothing else in memory changes, and the bytes come off
the token. A beat that nothing holds leaves for its home and is there after the cycles that its way takes. -/
def Sys2Proof.Machine.HomeRule : Prop :=
  ∀ (s : State) (op : Nat) (o : CopyOp) (g : Word64) (w : Who) (tile place : Nat) (c : Ctx) (k : Nat), Table.find? s.copies op = some o →
    o.owner = some w → s.findWho w = some (tile, place, c) → o.token = some k → Table.sorted c.tokens = true → s.Canonical → o.chain = none →
    o.walk = none → o.order = none →
    let h := homeOf g
    let writes (i : Instr) (key : Nat) (bytes : List Byte) (n : Nat) : Prop := Turns i s tile place fun t c' =>
      (∀ j, j < bytes.length → t.mem.read (key + j) = bytes.getD j 0) ∧ s.SameMemoryBut t key bytes.length ∧
        (c'.token k).remaining = (c.token k).remaining - BitVec.ofNat 64 n ∧ (∀ r, c.SameReg c' r) ∧ s.SameOthers t tile place
    let reaches (n : Nat) (rmw : Bool) : Prop := o.reach = some g ∧ h.space = 1 ∧ s.isHere h = true ∧
      s.homeFault o h n rmw true rmw = none ∧ s.orderOf o h = none ∧ s.bankFree h n ∧ s.arrivedAt h = [] ∧
      op ∉ (s.tile h.tile).arrived ∧ s.portLink o ∉ (s.tile h.tile).ports
    (∀ n t, o.reach = none → s.copyHeld op o (s.operandHome o.tile o.dkind o.dstAt) true = false → s.translate o o.dkind o.dstAt o.touch = .at g →
      (o.touch = .modify → o.dst.toNat % o.span = 0) → h.space < 2 → s.isHere h = true → s.badHome h o.span = none → s.barred o h = false →
      s.copySend o h false = some (n, t) → 0 < n → Goes (.copyBeatArrival op) s fun t => s.SameMemory t ∧ t.ctxs = s.ctxs ∧
        Table.find? t.copies op = some { o with reach := some g } ∧ ∃ key, (s.time + n, key, Instr.copyBeatArrival op) ∈ t.due) ∧
    (∀ bytes, o.mode = .move → o.hand = some (bytes, []) → bytes.length = o.beat → 0 < o.beat → reaches o.beat false →
      writes (.copyBeatArrival op) (s.keyOf h) bytes o.beat) ∧
    (∀ a ty v, o.mode = .accw a ty v → reaches (accBytes ty) true →
      s.poisoned (s.keyOf h) (accBytes ty) = false →
      let n := accBytes ty
      let old := leNat (s.read (s.keyOf h) n)
      let x := v.toNat % 2 ^ (8 * n)
      ∃ r, writes (.copyBeatArrival op) (s.keyOf h) (leBytes n r) n ∧
        (a = 0 → ty ≠ 2 → ty ≠ 3 → r = (old + x) % 2 ^ (8 * n)) ∧ (a = 3 → ty ≠ 2 → ty ≠ 3 → r = old &&& x) ∧
        (a = 1 → (ty = 0 ∨ ty = 1) → r = if signed (8 * n) x < signed (8 * n) old then x else old) ∧ (a = 6 → r = x)) ∧
    ∀ ty compare new ret, o.mode = .casw ty compare new ret → s.bankFree ⟨s.packageId, 1, o.tile, ret⟩ 8 →
      writes (.caswReturnWrite op) (s.keyOf ⟨s.packageId, 1, o.tile, ret⟩) (leBytes 8 o.old.toNat) 8

/-- R327, R328: a walk that ends fills the caches of the tiles that wait for it, or fails the operations that do, and is no longer under way; where no
operation waits for another page, the service starts nothing. -/
def Sys2Proof.Machine.WalkRule : Prop :=
  ∀ (s : State) (root : Word64) (va : Nat) (w : Walk), w ∈ s.hub.walks → w.root = root → w.page = va →
    (∀ x ∈ s.hub.walks, x.root = root → x.page = va → x = w) →
    Table.sorted s.copies = true →
    let settles (t : State) : Prop := (∀ x ∈ s.copies, x.2.walk = none ∨ x.2.walk = some (root, va) ∧ x.2.tile ∈ w.tiles) →
      ∀ x ∈ t.hub.walks, x ∈ s.hub.walks ∧ x ≠ w
    (∀ bits leaf, (s.walkVa root (va * 2 ^ 16)).1 = .ok (bits, leaf) → Goes (.walkComplete root va) s fun t => s.SameMemory t ∧
      settles t ∧ ∀ k ∈ w.tiles, (⟨root, va * 2 ^ 16 / 2 ^ bits, bits, leaf⟩ : TlbEntry) ∈ (t.tile k).tlb) ∧
    ∀ cause detail, (s.walkVa root (va * 2 ^ 16)).1 = .error (cause, detail) →
      Goes (.walkComplete root va) s fun t => s.SameMemory t ∧ settles t ∧
        ∀ id o, Table.find? s.copies id = some o → o.walk = some (root, va) → o.tile ∈ w.tiles →
          ∃ o', Table.find? t.copies id = some o' ∧ o'.walk = none ∧ o'.fault = some (va, cause, detail)

/-- R317: a channel asks for its record; one that is not valid stops it there, and the end of the chain stops it without a resume point. -/
def Sys2Proof.Machine.ChainRule : Prop :=
  ∀ (s : State) (tile ch : Nat) (r : ChainRun), ((s.tile tile).channels.getD ch Channel.stopped).run = some r →
    (∀ w, r.owner = some w → (s.findWho w).isSome = true) → (r.owner = none → (Table.find? s.hub.packets r.packet).isSome = true) →
    let channel (t : State) : Channel := (t.tile tile).channels.getD ch Channel.stopped
    let stops (resume : Option (Word64 × Nat)) : Prop := Goes (.chainRecordStep tile ch) s fun t =>
      (channel t).run = none ∧ (channel t).resume = resume ∧ s.SameMemory t
    (r.stage = 0 → s.chainWaits r = false → Goes (.chainRecordStep tile ch) s fun t => s.SameMemory t ∧ (∃ r', (channel t).run = some r' ∧ r'.stage = 1 ∧ r'.record = r.record) ∧
      ∃ o, Table.find? t.copies s.ids = some o ∧ o.mode = .fetch ∧ o.src = r.record ∧ o.skind = r.kind ∧ o.total = 64 ∧ o.chain = some ch) ∧
    (r.stage = 1 → r.cause = 0 → (r.word 3).getLsbD 63 = false → stops (some (r.record, r.kind))) ∧
    (4 ≤ r.stage → r.cause = 0 → r.word 0 = 0 → stops none)

/-- R340: a horizon reaches its launch; in a quiescent cycle the held write with the least key, to a data SRAM whose bank
is free, is applied, to its bytes alone. -/
def Sys2Proof.Machine.OrderStepRule : Prop :=
  ∀ (s : State) (launch : Nat), s.Canonical →
    (∀ l, Table.find? s.hub.launches launch = some l → s.heldFor launch = [] → Goes (.horizonUpdate launch) s fun t => s.SameMemory t ∧ t.ctxs = s.ctxs ∧
      Table.find? t.hub.launches launch = some { l with horizon := s.horizonOf launch, delivering := false }) ∧
    (∀ id o b, s.quiescent launch = true → s.leastHeld (s.heldFor launch) = some (id, o) → o.held = [b] → o.applying = false →
      Table.sorted s.copies = true → (∀ l, Table.find? s.hub.launches launch = some l → l.far.least = []) →
      let h := homeOf (s.heldAt o).1
      h.space = 1 → s.keyOf h = b.addr → s.bankFree h b.bytes.length →
      Goes (.quiescentApply launch) s fun t => (∀ j, j < b.bytes.length → t.mem.read (b.addr + j) = b.bytes.getD j 0) ∧
        s.SameMemoryBut t b.addr b.bytes.length) ∧
    (s.quiescent launch = false → Goes (.quiescentApply launch) s fun t => t = s)

/-- R286, R311-R320, R327, R328, R340, R423: the accesses of copies at their homes, walks, chains, and the order of a launch's writes. -/
def Obligations.CopySteps : Prop := SourceRule ∧ HomeRule ∧ WalkRule ∧ ChainRule ∧ OrderStepRule

/-! ### Steps of the mesh and of the messages (14_mesh to 17_sorrel, 01_package R21) -/

/-- R348: a beat whose cycle has come departs for each of its destinations, where it arrives after the latency of its flow with the cycle it carries, and
its 128 bytes come off its token. R341: a beat that reaches the tile of its context is held in the landing buffer; where sixteen are held or it is held
already it is lost and marked. -/
def Sys2Proof.Machine.BeatRule : Prop :=
  ∀ (s : State) (tile : Nat),
    (∀ b wt wp c, ((s.tile tile).outbound.find? fun b => decide (b.depart ≤ s.time)) = some b → s.findWho b.who = some (wt, wp, c) →
      Turns (.beatDeparture tile) s wt wp fun t c' => (t.tile tile).outbound = (s.tile tile).outbound.erase b ∧
        (∀ d ∈ b.dests, (s.time + b.latency, (⟨b.who.launch, b.destCtx, b.flow, b.arrival, b.data, b.poisoned, false⟩ : InBeat)) ∈
          (t.tile d).incoming) ∧
        (∀ k, b.token = some k → Table.sorted c.tokens = true →
          (c'.token k).remaining = (c.token k).remaining - 128 ∧ ∀ j, j ≠ k → c'.token j = c.token j) ∧
        (b.token = none → ∀ j, c'.token j = c.token j) ∧ c'.pending = c.pending.filter (fun p => p.id != b.pending) ∧
        (∀ r, c.SameReg c' r) ∧ s.SameMemory t ∧ s.SameOthers t wt wp) ∧
    ∀ x, ((s.tile tile).incoming.filter fun x => decide (x.1 ≤ s.time)) = [x] → (s.tile tile).freeze = none →
      (Table.find? s.hub.launches x.2.launch).isSome = true → (s.findWho ⟨tile, x.2.launch, x.2.num⟩).isSome = true →
      let key := (x.2.launch, x.2.num, x.2.flow, x.2.arrival)
      let later (t : State) : Prop := (t.tile tile).incoming = (s.tile tile).incoming.filter (fun x => decide (s.time < x.1)) ∧ s.SameMemory t
      ((s.tile tile).landing.length < 16 → (s.tile tile).landed key = false → Goes (.beatArrival tile) s fun t => later t ∧
        (t.tile tile).landing = (s.tile tile).landing ++ [x.2] ∧ (t.tile tile).marks = (s.tile tile).marks ∧ t.ctxs = s.ctxs) ∧
      (16 ≤ (s.tile tile).landing.length ∨ (s.tile tile).landed key = true → Goes (.beatArrival tile) s fun t => later t ∧
        (t.tile tile).landing = (s.tile tile).landing ∧ (t.tile tile).marks = (s.tile tile).marks ++ [key])

/-- R342: in the last cycle of an MLAND that still misses beats its tile freezes. R343: a freeze of FREEZELIM cycles ends with a trap of the MLAND: PEER_HALTED
if a hold entry names a missing beat, MESH_SLOT otherwise, with the cycle of the first one missing. -/
def Sys2Proof.Machine.FreezeRule : Prop :=
  ∀ (s : State) (tile : Nat) (q : Queued) (keys : List (Nat × Nat × Nat × Word64)),
    (∀ place c, s.landingHead tile place = some (q, keys) → s.ctx? tile place = some c → (s.tile tile).freeze = none →
      s.cycle = (keys.getLastD (0, 0, 0, 0)).2.2.2 → keys.any (s.tile tile).marks.contains = false → keys.all (s.tile tile).landed = false →
      Turns (.lateLanding tile place) s tile place fun t c' =>
        (∃ f, (t.tile tile).freeze = some f ∧ f.place = place ∧ f.stands = s.time + 1 ∧ f.since = max (s.tile tile).thawed (s.time + 1)) ∧
          (∃ w ∈ c'.writes, w.reg = .csr 0x70 ∧ w.val.getLsbD 9 = true) ∧ c'.pc = c.pc ∧ (∀ r, r ≠ .csr 0x70 → c.SameReg c' r) ∧
          s.SameMemory t ∧ s.SameOthers t tile place) ∧
    ∀ f c, (s.tile tile).freeze = some f → s.landingHead tile f.place = some (q, keys) → s.ctx? tile f.place = some c → c.stopping = none →
      let missing := keys.filter fun k => !(s.tile tile).landed k
      let halted := missing.any (s.tile tile).holds.contains
      (s.time + 1 - f.since < (s.reg 0x18).toNat → Goes (.freezeLimit tile) s fun t => t = s) ∧
      ((s.reg 0x18).toNat ≤ s.time + 1 - f.since → Turns (.freezeLimit tile) s tile f.place fun t c' => (t.tile tile).freeze = none ∧
        c'.pc = c.pc ∧ s.SameMemory t ∧ ∃ st, c'.stopping = some st ∧ st.seq = q.seq ∧ st.slot = 6 ∧
          st.trap.cause = (if halted then 0x13 else 0x18) ∧ st.trap.detail = (if halted then 0 else 0x0E05) ∧
          st.trap.address = (missing.headD (0, 0, 0, 0)).2.2.2)

/-- R345, R346: a sound flit at a trained port brings its beat, released at its departure cycle plus the port's padding, or at once and marked where it
comes later, or enters its hold; a bad one, or one at a port that is not up, changes nothing. R425: training sets trained and bit 18 with the latency found, and the padding stands; a peer with this package's id leaves the port down, and
the conflict is kept (R23). R21: losing the alignment clears DOMCTL.aligned and sets EVENT bit 2; the end of an alignment under way sets it, and the counter with
it but on the reference package. R358: a barrier message of another package is on its way to its home. -/
def Sys2Proof.Machine.LinkRule : Prop :=
  ∀ (s : State),
    (∀ (port : BitVec 4) (depart : Word64) (payload : FlitPayload),
      let up : Prop := (s.reg (0x700 + 8 * port.toNat)).getLsbD 16 = true ∧ (s.reg (0x700 + 8 * port.toNat)).getLsbD 17 = true
      let release := depart.toNat + (s.reg (0x700 + 8 * port.toNat)).toNat % 2 ^ 16
      (Goes (.flitReceive port false depart payload) s fun t => t = s) ∧
      (¬ up → Goes (.flitReceive port true depart payload) s fun t => t = s) ∧
      (up → ∀ tile ctx flow arrival l, s.launchOfFlow tile ctx flow = some l →
        (∀ data poisoned, payload = .beat tile ctx flow arrival data poisoned → data.length = 128 →
          Goes (.flitReceive port true depart payload) s fun t => t.ctxs = s.ctxs ∧ s.SameMemory t ∧
            (t.tile tile).incoming = (s.tile tile).incoming ++
              [(s.time + (release - s.cycle.toNat) + fromLink tile,
                ⟨l, ctx, flow, arrival, data, poisoned.filter (· < 128), decide (release < s.cycle.toNat)⟩)]) ∧
        (payload = .hold tile ctx flow arrival → Goes (.flitReceive port true depart payload) s fun t => t.ctxs = s.ctxs ∧ s.SameMemory t ∧
          (t.tile tile).holds = (s.tile tile).holds ++ [(l, ctx, flow, arrival)])) ∧
      (up → ∀ launch launchTile ctx id tile object ask, payload = .message launch launchTile ctx id tile object ask → tile < 1152 → object < 16 →
        (Table.find? s.hub.launches launch).isSome = true → Goes (.flitReceive port true depart payload) s fun t => t.ctxs = s.ctxs ∧ s.SameMemory t ∧
          ∃ x ∈ t.moving, x.answer = none ∧ x.msg.home = tile ∧ x.msg.object = object ∧ x.msg.ask = askOf ask ∧ x.msg.id = id ∧
            x.msg.who.launch = launch ∧ x.msg.who.num = ctx ∧ x.msg.launchTile = launchTile)) ∧
    (Table.sorted s.hub.regs = true →
      (∀ (port : Nat) (raw : Training), port < 16 → (s.reg (0x700 + 8 * port)).getLsbD 16 = true →
        Goes (.linkTrainingDone port raw) s fun t =>
          let v := t.reg (0x700 + 8 * port)
          (raw.peer ≠ s.hub.pkgid → v.extractLsb' 32 16 = raw.latency ∧ v.getLsbD 17 = true ∧ v.getLsbD 18 = true) ∧
            (raw.peer = s.hub.pkgid → v.getLsbD 17 = false ∧ v.getLsbD 18 = false ∧ t.hub.conflicts.contains port = true) ∧
            v.setWidth 17 = (s.reg (0x700 + 8 * port)).setWidth 17 ∧ ∀ r, r ≠ 0x700 + 8 * port → t.reg r = s.reg r) ∧
      (Goes .alignmentLoss s fun t => (t.reg 0x800).getLsbD 2 = false ∧ (t.reg 0x38).getLsbD 2 = true ∧ t.ctxs = s.ctxs ∧ s.SameMemory t ∧
        ∀ r, r ≠ 0x800 → r ≠ 0x38 → t.reg r = s.reg r) ∧
      (s.hub.aligning = false → Goes .alignmentComplete s fun t => t = s) ∧
      (s.hub.aligning = true → Goes .alignmentComplete s fun t => (t.reg 0x800).getLsbD 2 = true ∧
        t.cycle = (if (s.reg 0x800).getLsbD 0 then s.cycle else Config.referenceCycle s.time) ∧ t.ctxs = s.ctxs ∧ s.SameMemory t ∧ ∀ r, r ≠ 0x800 → t.reg r = s.reg r))

/-- R362-R371: the message of one tile at its barrier object, and the completion of the phases that it fills. -/
def Sys2Proof.Machine.HomeMessageRule : Prop :=
  ∀ (s : State) (tile : Nat) (m : Message), Table.sorted (s.tile tile).barriers = true →
    ((s.tile tile).messages.filter fun m => decide (m.arrive ≤ s.time) && !m.ask.toPage) = [m] → m.home = tile → m.who.tile ≠ tile → m.who.tile < 1152 →
    let b := (s.tile tile).barriers.getD m.object Barrier.free
    let mine : Prop := b.owner = none ∨ b.owner = some m.who.launch
    let sent (t : State) (a : Answer) : Prop := ∃ x ∈ t.moving, x.msg = m ∧ x.answer = some a
    let then_ (P : State → Barrier → Prop) : Prop := Goes (.barrierMessageApply tile) s fun t => t.ctxs = s.ctxs ∧ s.SameMemory t ∧
      m ∉ (t.tile tile).messages ∧ P t ((t.tile tile).barriers.getD m.object Barrier.free)
    (∀ cfg, m.ask = .init cfg → mine → cfg.toNat % 2 ^ 16 ≠ 0 → then_ fun t b' => sent t .accepted ∧ b'.owner = some m.who.launch ∧
      b'.n = cfg.toNat % 2 ^ 16 ∧ b'.base = cfg.extractLsb' 32 32 ∧ b'.counts = [0, 0, 0, 0] ∧ b'.waiters = []) ∧
    (∀ p, m.ask = .arrive p → mine → b.n ≠ 0 →
      let k := (p - b.base).toInt
      (0 ≤ k → k < 4 → b.counts.getD k.toNat 0 + 1 < b.n → b.counts.headD 0 < b.n → then_ fun t b' => sent t .accepted ∧
        b' = { b with counts := b.counts.set k.toNat (b.counts.getD k.toNat 0 + 1) }) ∧
      (p = b.base → b.counts.length = 4 → b.counts.headD 0 + 1 = b.n → b.counts.getD 1 0 < b.n → then_ fun t b' => sent t .accepted ∧
        b'.base = b.base + 1 ∧ b'.counts = b.counts.drop 1 ++ [0] ∧
        (∀ w ∈ b.waiters, (w.phase - b.base).toInt ≤ 0 → w.msg.who.tile ≠ w.msg.home → w.msg.who.tile < 1152 →
          ∃ x ∈ t.moving, x.msg = w.msg ∧ x.answer = some (.released true 0)) ∧
        b'.waiters = b.waiters.filter fun w => decide (0 < (w.phase - b.base).toInt)) ∧
      (4 ≤ k → b.counts.headD 0 < b.n → then_ fun t b' => sent t .refused ∧ b' = b) ∧
      (k < 0 → b.counts.headD 0 < b.n → then_ fun t b' => sent t (.error 0x0F04) ∧ b' = b)) ∧
    (∀ p, m.ask = .await p → mine → b.n ≠ 0 → b.counts.headD 0 < b.n →
      ((p - b.base).toInt < 0 → then_ fun t b' => sent t (.released true 0) ∧ b' = b) ∧
      (0 ≤ (p - b.base).toInt → b.waiters.length < 24 → then_ fun t b' => sent t .entered ∧ b' = { b with waiters := b.waiters ++ [⟨p, m⟩] })) ∧
    (m.ask = .invalidate → mine → then_ fun t b' => sent t .accepted ∧ b' = Barrier.free) ∧
    (b.owner.any (· != m.who.launch) = true → b.counts.headD 0 < b.n →
      (∀ p, m.ask = .arrive p → then_ fun t b' => sent t (.error 0x0F03) ∧ b' = b) ∧ (∀ p, m.ask = .await p → then_ fun t b' =>
        sent t (.released false 0x0F03) ∧ b' = b))

/-- R360: the reply of a barrier home takes the 8 bytes of its message off the token, and sets the predicate of a BARR or the register of a BQRY. R365: the
release of a wait is kept for its end, with its predicate. R366: a timed wait without a release ends with a false predicate and counts in CSR 0x73. -/
def Sys2Proof.Machine.ReplyRule : Prop :=
  ∀ (s : State) (tile place : Nat) (c : Ctx) (who : Who), s.findWho who = some (tile, place, c) →
    let clock := s.landClock tile
    (∀ r, (s.replies.filter fun r => decide (r.land ≤ s.time) && r.msg.who == who && !r.msg.ask.awaits) = [r] → Table.sorted c.tokens = true →
      let lands (P : Ctx → Prop) : Prop := Turns (.barrierReplyLands who) s tile place fun t c' => r ∉ t.replies ∧ c'.pc = c.pc ∧ P c' ∧
        (c'.token r.msg.token).remaining = (c.token r.msg.token).remaining - 8 ∧ s.SameMemory t ∧ s.SameOthers t tile place ∧
        c'.pending = c.pending.filter fun p => p.id != r.msg.pending
      let sets (c' : Ctx) (x : Reg) (v : Word64) : Prop := ∃ w ∈ c'.writes, w.reg = x ∧ w.vis = clock + 1 ∧ w.val = v.setWidth 2048
      (r.answer = .accepted → (∀ p, r.msg.ask = .arrive p → r.msg.pd ≠ 0 → lands fun c' => sets c' (.p r.msg.pd) 1) ∧
        (∀ cfg, r.msg.ask = .init cfg → lands fun c' => c'.regs = c.regs ∧ c'.writes = c.writes)) ∧
      (∀ p, r.answer = .refused → r.msg.ask = .arrive p → r.msg.pd ≠ 0 → lands fun c' => sets c' (.p r.msg.pd) 0) ∧
      (∀ v sel, r.answer = .value v → r.msg.ask = .query sel → r.msg.gd ≠ 0 → lands fun c' => sets c' (.g r.msg.gd) v) ∧
      (∀ d cfg, r.answer = .error d → r.msg.ask = .init cfg → (c.token r.msg.token).error = false → d < 2 ^ 16 → lands fun c' =>
        (c'.token r.msg.token).error = true ∧ (c'.token r.msg.token).cause = 0x10 ∧ (c'.token r.msg.token).detail.toNat = d)) ∧
    (∀ r seq addr present msg left ok detail,
      (s.replies.filter fun r => decide (r.land ≤ s.time) && r.msg.who == who && r.msg.ask.awaits) = [r] →
      c.wait = some (.barrier seq addr present msg left none) → msg.id = r.msg.id → r.answer = .released ok detail → ok = true →
      Turns (.bwaitReleaseLands who) s tile place fun t c' => r ∉ t.replies ∧ c'.pc = c.pc ∧ s.SameMemory t ∧ s.SameOthers t tile place ∧
        c'.wait = some (.barrier seq addr present msg left (some (true, detail, clock))) ∧
        (msg.pd ≠ 0 → ∃ w ∈ c'.writes, w.reg = .p msg.pd ∧ w.val = 1) ∧ ∀ x, x ≠ .p msg.pd → c.SameReg c' x) ∧
    ∀ seq addr present msg, s.ctx? tile place = some c → c.Ordered → c.wait = some (.barrier seq addr present msg (some 0) none) →
      Turns (.bwaitTimeout tile place) s tile place fun t c' => c'.wait = none ∧ c'.pc = c.pc ∧ s.SameMemory t ∧ s.SameOthers t tile place ∧
        (msg.pd ≠ 0 → ∃ w ∈ c'.writes, w.reg = .p msg.pd ∧ w.val = 0) ∧
        (∃ w ∈ c'.writes, w.reg = .csr 0x73 ∧ w.val = (c.csrLast 0x73 + 1).setWidth 2048) ∧
        ∀ x, x ≠ .p msg.pd → x ≠ .csr 0x70 → x ≠ .csr 0x73 → c.SameReg c' x

/-- R379: a subscription enters its page's main list, or the late one once the page is open, and a second of one tile is refused; a cancellation takes it
out. R380: the cast in progress reads one beat of its staging range, where a route is free to it; one that lands, and that nothing holds, is written at its place in the subscriber's landing range. Each takes its
128 bytes off its token. -/
def Sys2Proof.Machine.PageRule : Prop :=
  ∀ (s : State) (tile : Nat),
    (∀ m, Table.sorted (s.tile tile).pages = true →
      ((s.tile tile).messages.filter fun m => decide (m.arrive ≤ s.time) && m.ask.toPage) = [m] → m.home = tile → m.who.tile ≠ tile → m.who.tile < 1152 →
      let p := (s.tile tile).page m.object
      let then_ (a : Message → Answer → Prop) (p' : PageEntry) : Prop := Goes (.pageMessageApply tile) s fun t => t.ctxs = s.ctxs ∧
        s.SameMemory t ∧ m ∉ (t.tile tile).messages ∧ (t.tile tile).page m.object = p' ∧ ∃ x ∈ t.moving, ∃ y, x.answer = some y ∧ a x.msg y
      (∀ landing d128, m.ask = .subscribe landing d128 →
        let x : Subscription := ⟨m.who, landing, m.token, d128, m.pending⟩
        let bytes := if d128 then 32768 else 16384
        (p.owner.any (· != m.who.launch) = true → then_ (fun n a => n = m ∧ a = .finished bytes 0x1007) p) ∧
        (p.owner.any (· != m.who.launch) = false →
          (((p.main ++ p.late).any fun y => y.who.tile == m.who.tile) = true →
            then_ (fun n a => n = m ∧ a = .finished bytes 0x1006) { p with owner := some m.who.launch }) ∧
          (((p.main ++ p.late).any fun y => y.who.tile == m.who.tile) = false →
            (p.opened = false → then_ (fun n a => n = m ∧ a = .accepted) { p with owner := some m.who.launch, main := p.main ++ [x] }) ∧
            (p.opened = true → then_ (fun n a => n = m ∧ a = .missed) { p with owner := some m.who.launch, late := p.late ++ [x] })))) ∧
      (m.ask = .cancel → ∀ y, ((p.main ++ p.late).find? fun y => y.who == m.who) = some y →
        then_ (fun n a => n.who = y.who ∧ n.token = y.token ∧ a = .finished (if y.d128 then 32768 else 16384) 0)
          { p with main := p.main.erase y, late := p.late.erase y })) ∧
    (∀ k rest wt wp c, (s.tile tile).casts = k :: rest → k.next < (if k.d128 then 256 else 128) →
      s.castCrosses tile k false = false ∨ s.castCrosses tile k true = false → s.findWho k.who = some (wt, wp, c) →
      Table.sorted c.tokens = true → Turns (.castBeatRead tile) s wt wp fun t c' => (t.tile tile).casts = { k with next := k.next + 1 } :: rest ∧
        (∀ x ∈ k.dests, ∃ b ∈ (t.tile x.who.tile).castBeats, b.sub = x ∧ b.index = k.next ∧
          b.data = s.read (sramKey tile (k.stage + 128 * k.next)) 128) ∧
        (c'.token k.token).remaining = (c.token k.token).remaining - 128 ∧ (∀ r, c.SameReg c' r) ∧ s.SameMemory t ∧ s.SameOthers t wt wp) ∧
    ∀ b wt wp c, s.Canonical → ((s.tile tile).castBeats.filter fun b => decide (b.land ≤ s.time)) = [b] → s.findWho b.sub.who = some (wt, wp, c) →
      Table.sorted c.tokens = true → s.castHeld tile b = false →
      let key := sramKey tile (b.sub.landing + 128 * b.index)
      Turns (.castBeatLanding tile) s wt wp fun t c' => (∀ j, j < b.data.length → t.mem.read (key + j) = b.data.getD j 0) ∧
        s.SameMemoryBut t key b.data.length ∧ (c'.token b.sub.token).remaining = (c.token b.sub.token).remaining - 128 ∧
        (∀ r, c.SameReg c' r) ∧ s.SameOthers t wt wp

/-- R382: the merge under way ends in its last cycle, and the slot holds the merged state. R384: where every context of a launch on a tile waits for a
reorder entry, each raises DOME_ERROR with detail 0x1003. -/
def Sys2Proof.Machine.DomeStepRule : Prop :=
  ∀ (s : State) (tile : Nat),
    (∀ m rest d, (s.tile tile).merges = m :: rest → (s.tile tile).merging = some s.time → Table.find? (s.tile tile).dome m.slot = some d →
      Goes (.domeMerge tile) s fun t => Table.find? (t.tile tile).dome m.slot = some { d with acc := (d.acc.merge m.record).1 } ∧
        (t.tile tile).merges = rest ∧ s.SameMemory t) ∧
    ∀ launch place c, Table.sorted s.ctxs = true → s.domeStuck tile launch = true → s.ctx? tile place = some c → c.launch = launch →
      place < 16 → Turns (.domeNoProgress tile launch) s tile place fun t c' => s.SameMemory t ∧ c'.pc = c.pc ∧ (∀ r, c.SameReg c' r) ∧
        ∃ st, c'.stopping = some st ∧ st.trap.cause = 0x11 ∧ st.trap.detail = 0x1003 ∧ st.slot = 6

/-- R403-R406, R409-R414: an idle controller takes the first command that has come, and the chain is as the command has it; a colour step resamples every
free cell of its colour at once and no other; the reply of a command lands at its issuer with its image, its value, its trap or its repeats. -/
def Sys2Proof.Machine.SorrelStepRule : Prop :=
  (∀ (s : State) (die field : Nat) (h : SfChain) (m : SfCommand),
    let part := 16 * die + field
    s.chainOf part = (part, h) → s.chainOf m.part = (part, h) → Table.find? s.hub.chains part = some h → h.waiting = [m] → m.arrive ≤ s.time →
    h.sweep = none → h.busy ≤ s.time →
    let takes (cells : Table Cell) (a : SfAnswer) (n : Nat) : Prop := Goes (.sfCommandApply die field) s fun t => s.SameMemory t ∧
      t.ctxs = s.ctxs ∧ (∃ h', Table.find? t.hub.chains part = some h' ∧ h'.cells = cells ∧ h'.waiting = [] ∧ h'.busy = s.time + n ∧
        h'.seed = h.seed ∧ h'.swc = h.swc) ∧ (⟨s.time + n + 8, m, a⟩ : SfReply) ∈ t.sfReplies
    (∀ first q bits, m.kind = .write first q bits →
      (first + q ≤ 16384 * h.m → takes (h.cells.map fun (x : Nat × Cell) =>
        if first ≤ x.1 ∧ x.1 < first + q then (x.1, { x.2 with state := bits.getD (x.1 - first) false }) else x) .done ((q + 1023) / 1024 + 4)) ∧
      (16384 * h.m < first + q → takes h.cells (.trap 0x1103 0) ((q + 1023) / 1024 + 4))) ∧
    (∀ first q addr, m.kind = .read first q addr → first + q ≤ 16384 * h.m → ∃ bytes, takes h.cells (.image addr bytes) ((q + 1023) / 1024 + 4) ∧
      bytes.length = (q + 7) / 8 ∧ (Table.sorted h.cells = true → ∀ k, k < q → (leNat bytes).testBit k =
        match Table.find? h.cells (first + k) with
        | some x => x.state
        | none => false)) ∧
    (∀ n beta k, m.kind = .sweep n beta k → Goes (.sfCommandApply die field) s fun t => s.SameMemory t ∧ t.ctxs = s.ctxs ∧
      ∃ h' w, Table.find? t.hub.chains part = some h' ∧ h'.cells = h.cells ∧ h'.sweep = some w ∧ w.cmd = m ∧ w.left = n * k) ∧
    ∀ seed swc keep entropy, m.kind = .seed seed swc keep entropy h.m → keep = true → Goes (.sfCommandApply die field) s fun t =>
      ∃ h', Table.find? t.hub.chains part = some h' ∧ h'.cells = h.cells ∧ h'.seed = seed ∧ h'.swc = swc ∧ h'.entropy = entropy) ∧
  (∀ (s : State) (die field : Nat) (h : SfChain) (w : SfSweep) (n beta k : Nat),
    let part := 16 * die + field
    s.chainOf part = (part, h) → Table.find? s.hub.chains part = some h → h.sweep = some w → w.cmd.kind = .sweep n beta k → h.busy ≤ s.time →
    h.entropy = false → 1 < w.left → w.left ≤ n * k →
    let colour := (n * k - w.left) % k
    let drawn (x : Nat) : Nat := (keybits h.seed h.swc (BitVec.ofNat 64 (0x04 * 2 ^ 56 + colour * 2 ^ 48 + x))).toNat % 2 ^ 16
    Goes (.colourStep die field) s fun t => s.SameMemory t ∧ t.ctxs = s.ctxs ∧ ∃ h', Table.find? t.hub.chains part = some h' ∧
      h'.swc = (if (w.left - 1) % k = 0 then h.swc + 1 else h.swc) ∧ h'.cells = h.cells.map fun (x : Nat × Cell) =>
        if x.2.clamp = false ∧ x.2.colour = colour then (x.1, { x.2 with state := decide (drawn x.1 < threshold (beta * (h.field x.2).1)) })
        else x) ∧
  ∀ (s : State) (tile place : Nat) (c : Ctx) (who : Who) (r : SfReply), s.findWho who = some (tile, place, c) →
    (s.sfReplies.filter fun r => decide (r.land ≤ s.time) && r.cmd.who == who) = [r] → Table.sorted c.tokens = true → s.Canonical →
    let lands (P : State → Ctx → Prop) : Prop := Turns (.sfReplyLands who) s tile place fun t c' => r ∉ t.sfReplies ∧ c'.pc = c.pc ∧
      s.SameOthers t tile place ∧ c'.pending = c.pending.filter (fun p => p.id != r.cmd.pending) ∧ P t c'
    (r.answer = .done → lands fun t c' => s.SameMemory t ∧ (∀ x, c.SameReg c' x) ∧ c'.tokens = c.tokens ∧
      (∀ f, c.sf = some f → f.id = r.cmd.id → c'.sf = none)) ∧
    (∀ addr bytes, r.answer = .image addr bytes → lands fun t c' => (∀ x, c.SameReg c' x) ∧
      (∀ j, j < bytes.length → t.mem.read (sramKey tile addr + j) = bytes.getD j 0) ∧ s.SameMemoryBut t (sramKey tile addr) bytes.length) ∧
    (∀ v, r.answer = .value v → r.cmd.gd ≠ 0 → lands fun t c' => s.SameMemory t ∧
      (c'.token r.cmd.token).remaining = (c.token r.cmd.token).remaining - 8 ∧
      (∃ w ∈ c'.writes, w.reg = .g r.cmd.gd ∧ w.vis = s.clock tile ∧ w.val = v.setWidth 2048)) ∧
    (∀ d v, r.answer = .trap d v → c.stopping = none → lands fun t c' => s.SameMemory t ∧ (∀ x, c.SameReg c' x) ∧
      ∃ st, c'.stopping = some st ∧ st.trap.cause = 0x12 ∧ st.trap.detail = d ∧ st.slot = 6)

/-- R341-R346, R348, R425: beats that depart and arrive, freezes, package links, and R21's alignment. -/
def Obligations.MeshAndLinkSteps : Prop := BeatRule ∧ FreezeRule ∧ LinkRule

/-- R360-R371, R379, R380, R382, R384, R403-R406, R409-R414: messages at their homes and pages, replies, casts, merges and the Sorrel field. -/
def Obligations.MessageSteps : Prop := HomeMessageRule ∧ ReplyRule ∧ PageRule ∧ DomeStepRule ∧ SorrelStepRule

/-! ### Steps of the host's side (18_host, 19_objects) -/

/-- R428, R430: a notify index is accepted, or stops the queue with overrun; enable and resume change one bit. A slot that is not valid is read again 1,800
cycles later; a valid one, as it was first read, waits until the queue's order lets it start: then it is handed back, with the read pointer, and its packet
starts, or is refused with 0x120A. -/
def Sys2Proof.Machine.RingRule : Prop :=
  ∀ (s : State) (fn q : Nat), Table.sorted s.hub.queues = true →
    let h := s.queue fn q
    let becomes (i : Instr) (h' : HostQueue) : Prop := Goes i s fun t => t.queue fn q = h' ∧ t.ctxs = s.ctxs ∧ s.SameMemory t ∧
      ∀ k, k ≠ 8 * fn + q → Table.find? t.hub.queues k = Table.find? s.hub.queues k
    (∀ n, n = h.notify → becomes (.qnotify fn q n) h) ∧
    (∀ n, n ≠ h.notify → (n - h.rptr).toNat ≤ 2 ^ h.log → becomes (.qnotify fn q n) { h with notify := n }) ∧
    (∀ n, n ≠ h.notify → 2 ^ h.log < (n - h.rptr).toNat → becomes (.qnotify fn q n) { h with stopped := true, err := 0x000A }) ∧
    (∀ on, becomes (.queueEnable fn q on) { h with enabled := on }) ∧ becomes (.queueResume fn q) { h with stopped := false } ∧
    (h.reading = true → h.due = true → s.hub.recovery = false →
      let words := if h.taken.isEmpty then (List.range 8).map fun k => s.hostWord (h.slot + 8 * k) else h.taken
      let p : Packet := ⟨fn, q, words, true, none, ⟨0, 0, 0, 0, 0, 0, 0, 0, 0⟩⟩
      let word := words.getD 0 0
      let key := hostKey h.slot
      let shadow := hostKey h.shadow
      let reads (i : Instr) : Prop :=
        (word.getLsbD 0 = false → Goes i s fun t => t.queue fn q = h ∧ s.SameMemory t ∧ t.ctxs = s.ctxs ∧
          (s.time + 1800, 60, Instr.ringSlotRepoll fn q) ∈ t.due) ∧
        (word.getLsbD 0 = true → s.packetWaits p = true → Goes i s fun t => t.queue fn q = { h with taken := words } ∧ s.SameMemory t ∧ t.ctxs = s.ctxs ∧
          (s.time + 1, 60, Instr.ringSlotRead fn q) ∈ t.due) ∧
        (word.getLsbD 0 = true → s.packetWaits p = false → s.Canonical → (h.shadow = 0 ∨ key + 8 ≤ shadow ∨ shadow + 8 ≤ key) →
          Goes i s fun t => t.ctxs = s.ctxs ∧ (t.queue fn q).rptr = h.rptr + 1 ∧ (t.queue fn q).reading = false ∧
            t.hostWord h.slot = word &&& ~~~1 ∧ (h.shadow ≠ 0 → t.hostWord h.shadow = (h.rptr + 1).setWidth 64) ∧
            (∀ a, (a < key ∨ key + 8 ≤ a) → (h.shadow = 0 ∨ a < shadow ∨ shadow + 8 ≤ a) → t.mem.read a = s.mem.read a) ∧
            ∃ p', Table.find? t.hub.packets s.ids = some p' ∧ p'.words = words ∧ p'.fn = fn ∧ p'.queue = q ∧
              (p.wellFormed = true → (p.kind = 2 → s.copyMine p = true) → t.agenda = Work.event (p.start s.ids) :: s.agenda) ∧
              (p.wellFormed = false ∨ (p.kind = 2 ∧ s.copyMine p = false) → p'.status.status = 1 ∧ p'.status.detail = 0x120A ∧
                (t.queue fn q).stopped = true ∧ t.agenda = Work.event (.packetCompletion s.ids) :: s.agenda))
      reads (.ringSlotRead fn q) ∧ reads (.ringSlotRepoll fn q))

/-- R434-R438, R454: a LAUNCH is accepted and its start asked for, or refused with its detail; one of the service object goes on as LOAD or UNLOAD. A COPY
starts its chain on a free channel. WAIT-SIGNAL asks for its signal and sets its timeout, ends when a read meets its condition, or with status 7; SIGNAL
changes its word. A completion writes its record, takes one off its signal, and the packet is gone; a nonzero status stops the queue. -/
def Sys2Proof.Machine.PacketRule : Prop :=
  ∀ (s : State) (id : Nat) (p : Packet), Table.find? s.hub.packets id = some p → s.Canonical →
    let packet (t : State) : Option Packet := Table.find? t.hub.packets id
    let stopped (t : State) (status : Nat) : Prop := status ≠ 0 → (t.queue p.fn p.queue).stopped = true ∧
      (t.queue p.fn p.queue).err = BitVec.ofNat 64 (status + 2 ^ 48 * (p.word 0 / 2 ^ 32 % 2 ^ 16))
    let ends (i : Instr) (status detail : Nat) (P : State → Prop) : Prop := Goes i s fun t => P t ∧ t.ctxs = s.ctxs ∧ stopped t status ∧
      t.agenda.head? = some (.event (.packetCompletion id)) ∧ ∃ p', packet t = some p' ∧ p'.status.status = status ∧
        p'.status.detail = detail ∧ p'.status.cycle = s.cycle ∧ p'.words = p.words
    let quiet (t : State) : Prop := s.SameMemory t ∧ t.ctxs = s.ctxs
    let ordered : State := { s with hub := { s.hub with order := s.hub.order + 1 } }
    (p.object = 0xFFFFFFFF →
      (∀ d, s.badService p = some d → ends (.launch id) 2 d s.SameMemory) ∧
      (s.badService p = none → Goes (.launch id) s fun t => quiet t ∧ packet t = some p ∧
        t.agenda = Work.event (if p.word 1 / 2 ^ 32 % 2 ^ 16 = 0 then .load id else .unload id) :: s.agenda)) ∧
    (p.object ≠ 0xFFFFFFFF →
      (∀ d, ordered.checkLaunch id p = .error d → ends (.launch id) 2 d s.SameMemory) ∧
      (∀ l, ordered.checkLaunch id p = .ok l → Goes (.launch id) s fun t => quiet t ∧ Table.find? t.hub.launches id = some l ∧
        ∃ n, (s.time + n, 5, Instr.launchStart id) ∈ t.due)) ∧
    (let tile := partTile (p.word 2 / 2 ^ 16 % 64) (p.word 2 / 2 ^ 8 % 32)
     let channel (u : State) : Channel := (u.tile tile).channels.getD (p.word 2 / 2 ^ 24 % 4) Channel.stopped
     ((channel s).run = none → Goes (.copy id) s fun t => quiet t ∧ ∃ r, (channel t).run = some r ∧ r.record = p.words.getD 1 0 ∧
       r.kind = p.word 2 % 4 ∧ r.packet = id ∧ r.owner = none ∧ r.stage = 0) ∧
     ((channel s).run ≠ none → Goes (.copy id) s fun t => quiet t ∧ channel t = channel s ∧ (s.time + 1, 60, Instr.copy id) ∈ t.due)) ∧
    (let v := s.hostWord (p.word 1)
     let x : Word64 := p.words.getD 2 0
     let op := p.word 3 % 4
     let met : Prop := (op = 0 ∧ v = x) ∨ (op = 1 ∧ v ≠ x) ∨ (op = 2 ∧ v.toNat < x.toNat) ∨ (op = 3 ∧ x.toNat ≤ v.toNat)
     let span := p.word 3 / 2 ^ 32 % 2 ^ 32
     (Goes (.waitSignal id) s fun t => quiet t ∧ (∃ n, 0 < n ∧ (s.time + n, 60, Instr.waitSignalPoll id) ∈ t.due) ∧
       (span = 0 → packet t = some p) ∧ (span ≠ 0 → packet t = some { p with expiry := some (s.time + 1800 * span) } ∧
         (s.time + 1800 * span, 95, Instr.waitSignalTimeout id) ∈ t.due)) ∧
     (met → ends (.waitSignalPoll id) 0 0 s.SameMemory) ∧
     (¬ met → Goes (.waitSignalPoll id) s fun t => quiet t ∧ packet t = some p ∧ (s.time + 1800, 60, Instr.waitSignalPoll id) ∈ t.due) ∧
     (∀ e, p.expiry = some e → ends (.waitSignalTimeout id) 7 0 s.SameMemory) ∧
     (p.expiry = none → Goes (.waitSignalTimeout id) s fun t => t = s) ∧
     ends (.signal id) 0 0 fun t => t.hostWord (p.word 1) = (if p.word 3 = 0 then x else if p.word 3 = 1 then v - x else v + x) ∧
       s.SameMemoryBut t (hostKey (p.word 1)) 8) ∧
    (Table.sorted s.hub.packets = true → Goes (.packetCompletion id) s fun t =>
      let e := p.status
      let record := hostKey (p.word 7)
      let signal := hostKey (p.word 6)
      let distinct : Prop := p.word 6 = 0 ∨ p.word 7 = 0 ∨ signal + 8 ≤ record ∨ record + 32 ≤ signal
      let q (k : Nat) : Nat := leNat (t.read (record + 8 * k) 8)
      packet t = none ∧ t.ctxs = s.ctxs ∧ stopped t e.status ∧
        (p.word 7 ≠ 0 → distinct → q 0 = (e.status + 2 ^ 16 * e.cause + 2 ^ 32 * e.detail + 2 ^ 48 * (p.word 0 / 2 ^ 32 % 2 ^ 16)) % 2 ^ 64 ∧
          q 1 = e.cycle.toNat ∧ q 2 = (e.place ||| BitVec.ofNat 64 (2 ^ 48 * e.reason)).toNat ∧ q 3 = e.value.toNat) ∧
        (p.word 6 ≠ 0 → distinct → t.hostWord (p.word 6) = s.hostWord (p.word 6) - 1) ∧
        ∀ a, (p.word 7 = 0 ∨ a < record ∨ record + 32 ≤ a) → (p.word 6 = 0 ∨ a < signal ∨ signal + 8 ≤ a) → t.mem.read a = s.mem.read a)

/-- R59, R335, R439: a launch that may start does so in this cycle, on each of its tiles with its contexts at their first bundle and its argument block in the
SRAM; one that may not waits for the next multiple of 64. R78, R437: a launch whose contexts have ended and whose copies have arrived is gone, and its packet
completes with its status. -/
def Sys2Proof.Machine.LaunchRule : Prop :=
  ∀ (s : State) (id : Nat) (l : Launch), Table.find? s.hub.launches id = some l →
    let places := (List.range l.tiles).filterMap fun k => (l.localTile k).map fun t => (k, t)
    (l.start = none → s.mayStart l = true → (places.map (·.2)).Nodup → (∀ x ∈ places, x.2 < 1152) → l.contexts ≤ 4 → l.argBytes ≤ 4096 →
      s.Canonical → Goes (.launchStart id) s fun t =>
        (∃ l', Table.find? t.hub.launches id = some l' ∧ l'.start = some s.cycle ∧
          ∀ x, x ∈ l'.live ↔ (∃ y ∈ places, y.1 = x.1) ∧ x.2 < l.contexts) ∧
        (∀ x ∈ places, (∀ n, n < l.contexts → ∃ p, p < 4 ∧
            t.ctx? x.2 p = some (l.context x.1 n (s.clock x.2) s.cycle (s.vault x.2).measured)) ∧
          (l.data = [] → ∀ j, j < l.argBytes → t.mem.read (sramKey x.2 Config.argBase + j) = s.mem.read (hostKey l.argAddr + j))) ∧
        ∀ k c, Table.find? s.ctxs k = some c → Table.find? t.ctxs k = some c) ∧
    (l.start = none → s.mayStart l = false → Goes (.launchStart id) s fun t =>
      Table.find? t.hub.launches id = some { l with tried := l.tried || decide (s.cycle.toNat % 64 = 0) } ∧ t.ctxs = s.ctxs ∧ s.SameMemory t ∧ (s.time + (64 - s.cycle.toNat % 64), 5, Instr.launchStart id) ∈ t.due ∧
      t.agenda = (if s.hub.stopped = true ∨ s.hub.waits ≠ 0 then [] else [Work.event (.preemptVictims id)]) ++ s.agenda) ∧
    (l.live = [] → (l.start.isSome = true ∨ l.ending.isSome = true) → (l.start = none ∨ l.packages = 1 ∨ l.far.halted = true) →
      s.copying id = false → Table.sorted s.hub.launches = true →
      ∀ p, Table.find? s.hub.packets l.packet = some p → Goes (.launchCompletion id) s fun t => Table.find? t.hub.launches id = none ∧
        s.SameMemory t ∧ t.agenda.head? = some (.event (.packetCompletion l.packet)) ∧
        ∃ p', Table.find? t.hub.packets l.packet = some p' ∧ p'.words = p.words ∧
          (∀ e, l.ending = some e → p'.status.status = e.status ∧ p'.status.cause = e.cause ∧ p'.status.detail = e.detail) ∧
          (l.ending = none → p'.status = p.status)) ∧
    (l.live ≠ [] → Goes (.launchCompletion id) s fun t => t = s)

/-- R422: the host's accesses through its window: a read answers with the bytes at the home and a write stores them there; the AtomicOps answer with the old
word and store the new one. A home that does not exist is answered with Unsupported Request, one that the access may not reach with Completer Abort, and
nothing is stored. -/
def Sys2Proof.Machine.WindowRule : Prop :=
  ∀ (s : State) (offset : Nat), s.Canonical →
    let h := s.windowHome offset
    let key := s.keyOf h
    let open_ (n : Nat) (rd wr sync : Bool) : Prop := offset + n ≤ 2 ^ 34 ∧ s.badHome h n = none ∧ s.isHere h = true ∧ inSaveArea h n = false ∧
      s.homeRefuses none h n rd wr sync = false ∧ (rd = true → h.space < 2 → s.poisoned key n = false)
    let answers (i : Instr) (a : List Byte) (P : State → Prop) : Prop := Goes i s fun t => t.hub.answer = a ∧ t.ctxs = s.ctxs ∧ P t
    let stores (i : Instr) (a bytes : List Byte) : Prop := answers i a fun t =>
      (∀ j, j < bytes.length → t.mem.read (key + j) = bytes.getD j 0) ∧ s.SameMemoryBut t key bytes.length
    (∀ n, (open_ n true false false → answers (.windowRead offset n) (0 :: s.bytesAt h n) s.SameMemory) ∧
      (2 ^ 34 < offset + n ∨ (s.badHome h n).isSome = true → answers (.windowRead offset n) [1] s.SameMemory) ∧
      (offset + n ≤ 2 ^ 34 → s.badHome h n = none → s.isHere h = true → inSaveArea h n = true ∨ s.homeRefuses none h n true false false = true →
        answers (.windowRead offset n) [2] s.SameMemory) ∧
      (offset + n ≤ 2 ^ 34 → s.badHome h n = none → s.isHere h = false →
        ∃ bytes, bytes.length = n ∧ answers (.windowRead offset n) (0 :: bytes) s.SameMemory)) ∧
    (∀ data, (open_ data.length false true false → h.space ≠ 2 → stores (.windowWrite offset data) [0] data) ∧
      (2 ^ 34 < offset + data.length ∨ (s.badHome h data.length).isSome = true → answers (.windowWrite offset data) [1] s.SameMemory)) ∧
    ∀ (size : Nat) (v compare : Word64),
      let old := leNat (s.bytesAt h size)
      let m := 2 ^ (8 * size)
      let completes : Prop := h.space = 3 → (s.reg 0x28).getLsbD (if size = 8 then 1 else 0) = true
      (open_ size true true true → (size = 4 ∨ size = 8) → offset % size = 0 → h.space ≠ 2 → completes →
        stores (.windowFetchadd offset size v) (0 :: s.bytesAt h size) (leBytes size ((old + v.toNat) % m)) ∧
        stores (.windowSwap offset size v) (0 :: s.bytesAt h size) (leBytes size v.toNat) ∧
        stores (.windowCas offset size compare v) (0 :: s.bytesAt h size) (if old = compare.toNat % m then leBytes size v.toNat else leBytes size old)) ∧
      (¬ ((size = 4 ∨ size = 8) ∧ offset % size = 0) ∨ ¬ completes → answers (.windowFetchadd offset size v) [2] s.SameMemory ∧
        answers (.windowSwap offset size v) [2] s.SameMemory ∧ answers (.windowCas offset size compare v) [2] s.SameMemory)

/-- R424-R426, R428, R329: what a write of each package register does; one that is not aligned is answered with Unsupported Request and, as one
in the recovery state, does nothing. -/
def Sys2Proof.Machine.RegisterRule : Prop :=
  ∀ (s : State), Table.sorted s.hub.regs = true →
    let quiet (t : State) : Prop := t.ctxs = s.ctxs ∧ s.SameMemory t
    let only (t : State) (off : Nat) : Prop := quiet t ∧ ∀ r, r ≠ off → t.reg r = s.reg r
    let none_ (i : Instr) : Prop := Goes i s fun t => t = s
    let limits (i : Instr) (v : Word64) : Prop := Goes i s fun t => only t 0x20 ∧ t.reg 0x20 = BitVec.ofNat 64 (min 2300 (v.toNat % 4096))
    let clears (i : Instr) (v : Word64) : Prop := Goes i s fun t => only t 0x38 ∧ t.reg 0x38 = s.reg 0x38 &&& ~~~(v &&& 0x1F) ∧
      t.hub.waits = s.hub.waits &&& ~~~v
    (∀ (p : Nat) (lent : Bool), p < 64 →
      let off := 0x300 + 8 * p
      (s.busyPart p = false → (s.reg off).getLsbD 0 ≠ lent → Goes (.pvfWrite p lent) s fun t => only t off ∧ (t.reg off).getLsbD 0 = lent ∧
        ∀ k, k / 256 = p → Table.find? t.hub.counters k = none) ∧
      (s.busyPart p = true ∨ (s.reg off).getLsbD 0 = lent → none_ (.pvfWrite p lent))) ∧
    (∀ v, limits (.pwrlimitWrite v) v ∧ clears (.eventWrite v) v) ∧
    (∀ (port : Nat) (v : Word64), port < 16 →
      let off := 0x700 + 8 * port
      let old := s.reg off
      let pad := v.toNat % 2 ^ 16
      let fits : Bool := !old.getLsbD 17 || decide (3 * (old.toNat / 2 ^ 32 % 2 ^ 16) + 46 ≤ pad)
      (s.launching = false → Goes (.linkpadWrite port v) s fun t => only t off ∧ (t.reg off).toNat % 2 ^ 16 = pad ∧
        (t.reg off).getLsbD 16 = (v.getLsbD 16 && fits) ∧ t.reg off >>> 17 = old >>> 17) ∧
      (s.launching = true → none_ (.linkpadWrite port v))) ∧
    ((s.launching = false → Goes .domctlStartAlignment s fun t => only t 0x800 ∧ (t.reg 0x800).getLsbD 2 = false) ∧
      (s.launching = true → none_ .domctlStartAlignment)) ∧
    (let lo := (s.reg 0x508).toNat
     let hi := lo + (s.reg 0x510).toNat
     let hit (e : TlbEntry) : Prop := e.root = s.reg 0x500 ∧ e.page * 2 ^ e.bits < hi ∧ lo < (e.page + 1) * 2 ^ e.bits
     ((s.reg 0x518).getLsbD 1 = false → Goes .invctlStart s fun t => only t 0x518 ∧ (t.reg 0x518).getLsbD 1 = true ∧
       (∀ tile e, e ∈ (t.tile tile).tlb ↔ e ∈ (s.tile tile).tlb ∧ ¬ hit e) ∧
       (∀ e, e ∈ t.hub.levels ↔ e ∈ s.hub.levels ∧
         ¬ (e.root = s.reg 0x500 ∧ e.prefix_ * 2 ^ e.bits < hi ∧ lo < (e.prefix_ + 1) * 2 ^ e.bits)) ∧
       ∃ n, 0 < n ∧ n ≤ 64 ∧ (s.time + n, 60, Instr.invalidationComplete) ∈ t.due) ∧
     ((s.reg 0x518).getLsbD 1 = true → none_ .invctlStart)) ∧
    (let under : Prop := ∃ x ∈ s.copies, (x.2.dkind = 2 ∨ x.2.skind = 2) ∧
       (x.2.hand.isSome = true ∨ x.2.reach.isSome = true ∨ x.2.held ≠ [])
     (¬ under → Goes .invalidationComplete s fun t => only t 0x518 ∧ (t.reg 0x518).getLsbD 1 = false) ∧
     (under → Goes .invalidationComplete s fun t => only t 0x518 ∧ t.reg 0x518 = s.reg 0x518 ∧
       (s.time + 1, 60, Instr.invalidationComplete) ∈ t.due)) ∧
    (∀ fn bar offset size v, (s.hub.recovery = true → none_ (.registerWrite fn bar offset size v)) ∧
      (s.hub.recovery = false → ¬ (size = 4 ∨ size = 8) ∨ offset % size ≠ 0 ∨ 0x10000 ≤ offset →
        Goes (.registerWrite fn bar offset size v) s fun t => t.hub.answer = [1] ∧ quiet t ∧ t.hub.regs = s.hub.regs ∧ t.hub.queues = s.hub.queues)) ∧
    (s.hub.recovery = false → ∀ v : Word64,
      let writes (off size : Nat) (r : Nat) (P : State → Prop) : Prop := Goes (.registerWrite 0 0 off size v) s fun t => only t r ∧ P t
      writes 0x18 8 0x18 (fun t => t.reg 0x18 = v) ∧
      writes 0x18 4 0x18 (fun t => (t.reg 0x18).setWidth 32 = v.setWidth 32 ∧ t.reg 0x18 >>> 32 = s.reg 0x18 >>> 32) ∧
      writes 0x08 8 0 (fun t => t.hub.pkgid = if s.launching then s.hub.pkgid else v.setWidth 14) ∧
      limits (.registerWrite 0 0 0x20 8 v) v ∧ clears (.registerWrite 0 0 0x38 8 v) v ∧
      (∀ bar fn q, (fn = 0 ∧ bar = 2) ∨ (fn ≠ 0 ∧ bar = 0) → q < 8 → Table.sorted s.hub.queues = true →
        exec (.registerWrite fn bar (0x1000 * q) 8 v) s = exec (.qnotify fn q (v.setWidth 32)) s ∧
        (Goes (.registerWrite fn bar (0x1000 * q + 0x10) 8 v) s fun t => only t 0 ∧ (t.queue fn q).enabled = v.getLsbD 0 ∧
          (t.queue fn q).stopped = ((s.queue fn q).stopped && !v.getLsbD 2) ∧ (t.queue fn q).priority = v.toNat / 16 % 4 ∧
          (t.queue fn q).base = (s.queue fn q).base ∧ (t.queue fn q).rptr = (s.queue fn q).rptr) ∧
        Goes (.registerWrite fn bar (0x1000 * q + 0x08) 8 v) s fun t => only t 0 ∧ (t.queue fn q).base =
          if (s.queue fn q).enabled then (s.queue fn q).base else v.toNat / 2 ^ 12 % 2 ^ 35 * 2 ^ 12))

/-- R148, R424: KILL ends every context of its partition and no other, and their launches with status 4. R427, R475: the reset of a VF ends what runs on its
partition, and drops its packets and queues, and the counters of a partition lent to it; that of the PF does so for all, and the registers take their reset values. -/
def Sys2Proof.Machine.KillRule : Prop :=
  ∀ (s : State), Table.sorted s.ctxs = true →
    (∀ p, Goes (.killGo p) s fun t =>
      (∀ tile place, place < 16 → partOf tile = p → t.ctx? tile place = none) ∧
      (∀ k, partOf (k / 16) ≠ p → Table.find? t.ctxs k = Table.find? s.ctxs k) ∧
      ∀ k c l, partOf (k / 16) = p → Table.find? s.ctxs k = some c → Table.find? s.hub.launches c.launch = some l → l.ending = none →
        ∃ l' e, Table.find? t.hub.launches c.launch = some l' ∧ l'.ending = some e ∧ e.status = 4) ∧
    ((∀ k c, Table.find? s.ctxs k = some c → ∃ l, Table.find? s.hub.launches c.launch = some l ∧ l.here.contains (partOf (k / 16)) = true) →
      let dropped (t : State) (fn : Nat) : Prop := (∀ k p, Table.find? t.hub.packets k = some p → p.fn ≠ fn) ∧
        (∀ q, q < 8 → t.queue fn q = HostQueue.reset)
      (∀ fn, fn ≠ 0 → fn ≤ 64 → Goes (.functionLevelReset fn) s fun t => dropped t fn ∧ t.hub.regs = s.hub.regs ∧
        (∀ tile place, place < 16 → partOf tile = fn - 1 → t.ctx? tile place = none) ∧
        ((s.reg (0x300 + 8 * (fn - 1))).getLsbD 0 = true → ∀ k, k / 256 = fn - 1 → Table.find? t.hub.counters k = none)) ∧
      Goes (.functionLevelReset 0) s fun t => (∀ fn, fn ≤ 64 → dropped t fn) ∧ t.hub.regs = [] ∧ t.hub.pkgid = 0 ∧
        ∀ tile place, place < 16 → partOf tile < 64 → t.ctx? tile place = none)

/-- R455-R459: LOAD makes an accepted object resident under a number that was free, with its code and its bundle starts on every tile of its partitions, or
refuses it with its detail. UNLOAD removes an object from the partitions named where nothing holds it there, or where it revokes it, and marks one that is
held; the last holder's end removes it.
R453: signed microcode is installed while nothing is resident, and its measurement follows. -/
def Sys2Proof.Machine.LoadRule : Prop :=
  ∀ (s : State),
    (∀ id p, Table.find? s.hub.packets id = some p → s.Canonical →
      let status (t : State) (n d : Nat) : Prop := t.ctxs = s.ctxs ∧ ∃ p', Table.find? t.hub.packets id = some p' ∧ p'.status.status = n ∧ p'.status.detail = d
      (Goes (.load id) s fun t => match s.loadObject p with
        | .error r => status t 2 r.detail ∧ t.hub.objects = s.hub.objects ∧ t.code = s.code
        | .ok (b, ks) => status t 0 0 ∧
          (∃ k o, Table.find? s.hub.objects k = none ∧ Table.find? t.hub.objects k = some o ∧ o.partitions = p.mask ∧ o.origin = b.origin ∧
            o.fn = p.fn ∧ o.kernels = ks ∧ o.leaving = false) ∧
          ∀ part ∈ p.mask, ∀ j, j < 18 →
            (∀ k, k < b.words.length → t.codeWord (partTile part j) (b.origin + 4 * k) = b.words.getD k 0) ∧
            ∀ k ∈ b.starts, t.startBit (partTile part j) (b.origin + 4 * k) = true) ∧
      (s.badServiceArgs p 1 = false → s.serviceArg p 2 = 0 →
        (s.mayUnload p = none → Goes (.unload id) s fun t => status t 2 0x1309 ∧ t.hub.objects = s.hub.objects) ∧
        ∀ k o parts, s.mayUnload p = some (k, o, parts) → Table.sorted s.hub.objects = true →
          let gone (t : State) : Prop := (parts = o.partitions → Table.find? t.hub.objects k = none) ∧
            (∀ o', Table.find? t.hub.objects k = some o' → o'.partitions = o.partitions.filter fun x => !parts.contains x) ∧
            ∀ part ∈ parts, ∀ j, j < 18 → ∀ a, o.origin ≤ a → a < o.origin + 4 * o.syllables → t.startBit (partTile part j) a = false
          (s.serviceArg p 1 = 0 → s.held k o parts = false → Goes (.unload id) s fun t => status t 0 0 ∧ gone t) ∧
          (s.serviceArg p 1 = 0 → s.held k o parts = true → Goes (.unload id) s fun t => status t 0 0 ∧
            Table.find? t.hub.objects k = some { o with leaving := true, going := parts.foldl NatSet.insert o.going } ∧ t.starts = s.starts) ∧
          (s.serviceArg p 1 = 1 → p.fn ≠ 0 → o.fn = 0 → Goes (.unload id) s fun t => status t 2 0x1307 ∧ t.hub.objects = s.hub.objects) ∧
          (s.serviceArg p 1 = 1 → (p.fn = 0 ∨ o.fn ≠ 0) → Goes (.unload id) s gone))) ∧
    (∀ k o, Table.find? s.hub.objects k = some o → Table.sorted s.hub.objects = true →
      (o.leaving = true → s.held k o o.going = false → Goes (.unloadPendingRemoval k) s fun t => t.ctxs = s.ctxs ∧
        ((∀ x ∈ o.partitions, x ∈ o.going) → Table.find? t.hub.objects k = none) ∧
        ∀ o', Table.find? t.hub.objects k = some o' → o'.leaving = false ∧ ∀ x ∈ o'.partitions, x ∉ o.going) ∧
      (o.leaving = false ∨ s.held k o o.going = true → Goes (.unloadPendingRemoval k) s fun t => t = s)) ∧
    ∀ (id : BitVec 32) (entries : List (Nat × Nat)) (image : List Byte), Goes (.microcodeInstall id entries image) s fun t =>
      (s.hub.objects = [] → Config.signatureValid image = true → t.hub.microcode = id ∧ Table.find? t.hub.measurements 3 = some (sha256 image) ∧
        t.ctxs = s.ctxs ∧ s.SameMemory t) ∧
      (s.hub.objects ≠ [] ∨ Config.signatureValid image = false → t = s)

/-- R59, R335, R428, R430, R434-R439, R454: rings, packets, and the start and completion of launches; R422: the host's window. -/
def Obligations.HostPacketSteps : Prop := RingRule ∧ PacketRule ∧ LaunchRule ∧ WindowRule

/-- R148, R329, R424-R428, R453-R459: the registers that the host writes, kills and resets, and the loading of objects. -/
def Obligations.HostRegisterSteps : Prop := RegisterRule ∧ KillRule ∧ LoadRule

/-! ### Steps of pre-emption, the debug path and the health controller (06_traps, 20_debug, 21_health) -/

/-- R141: a victim at a boundary moves into a free parked partition with all that it holds, or where none is free is to be saved. R142, R143: a saved one's
image stands in its slot, and no other byte of memory changes. R144, R147: a parked context comes back as it was, and a saved one with the registers of its
image. R441: a launch that waits takes only active contexts of lower priority, and each that it takes it only marks. -/
def Sys2Proof.Machine.PreemptRule : Prop :=
  ∀ (s : State), Table.sorted s.ctxs = true →
    (∀ tile place c, s.ctx? tile place = some c → c.Ordered → c.atBoundary = true →
      let kept (c' : Ctx) : Prop := c'.pc = c.pc ∧ c'.tokens = c.tokens ∧ c'.ports = c.ports ∧ c'.wait = c.wait ∧ c'.take = none ∧ c'.away = true
      let left (t : State) : Prop := t.ctx? tile place = none
      (c.take = some true → ∀ p, s.freePlace tile [4, 5] = some p → Turns (.park tile place) s tile p fun t c' => kept c' ∧ left t ∧
        (∀ r, c.SameReg c' r) ∧ s.SameMemory t) ∧
      (c.take = some true → s.freePlace tile [4, 5] = none → Turns (.park tile place) s tile place fun t c' => c' = { c with take := some false } ∧
        s.SameMemory t) ∧
      (c.take = some false → c.savable = true →
        (∀ j, (s.tile tile).slotFor c.launch c.num = some j → s.ctx? tile (8 + j) = none → s.Canonical →
          Turns (.fullSave tile place) s tile (8 + j) fun t c' => kept c' ∧ left t ∧
            (∀ k, k < (s.saveImage tile c).length → t.mem.read (saveSlotKey tile j + k) = (s.saveImage tile c).getD k 0) ∧
            s.SameMemoryBut t (saveSlotKey tile j) 0x8000) ∧
        ((s.tile tile).slotFor c.launch c.num = none → Turns (.fullSave tile place) s tile place fun t c' => c' = { c with take := none } ∧
          s.SameMemory t))) ∧
    (∀ who tile place c, s.findWho who = some (tile, place, c) →
      (∀ p, (place = 4 ∨ place = 5) → s.freePlace tile [0, 1, 2, 3] = some p → Turns (.resumeParked who) s tile p fun t c' =>
        t.ctx? tile place = none ∧ c'.pc = c.pc ∧ c'.tokens = c.tokens ∧ (∀ r, c.SameReg c' r) ∧ c'.base = s.clock tile ∧ s.SameMemory t) ∧
      ∀ onTile p, 8 ≤ place → place < 12 → s.mayRestore tile onTile c = true → s.freePlace onTile [0, 1, 2, 3] = some p →
        Turns (.restore who onTile) s onTile p fun t c' => t.ctx? tile place = none ∧ c'.pc = c.pc ∧ c'.launch = c.launch ∧ c'.num = c.num ∧
          (tile = onTile ∨ (s.tile tile).arrayOf c.launch c.num = false → s.SameMemory t) ∧
          ∀ k, 0 < k → k < 64 → c'.regs.get (.g k) = BitVec.ofNat 2048 (leNat (s.read (saveSlotKey tile (place - 8) + 8 * k) 8))) ∧
    ∀ launch l, Table.find? s.hub.launches launch = some l → l.start = none → Goes (.preemptVictims launch) s fun t => s.SameMemory t ∧
      (∀ k c, Table.find? s.ctxs k = some c → ∃ c', Table.find? t.ctxs k = some c' ∧ (c' = c ∨ (c' = { c with take := some true } ∧
        k % 16 < 4 ∧ c.take = none ∧ ∃ l', s.launchOf c = some l' ∧ l'.priority < l.priority))) ∧
      ((∀ k c, Table.find? s.ctxs k = some c → c.take = none) → ∀ tile, (List.range l.tiles).filterMap l.localTile = [tile] →
        ∀ x ∈ (s.victims tile l.priority).take (min (s.shortOf tile l.contexts) (s.roomFor tile)), t.ctx? tile x.1 = some { x.2 with take := some true })

/-- R476, R477: with the debug path open, ATTACH, DETACH and HALT change what the debugger holds of a context, and STEP and RESUME let a held one go on from
where its record, or for a bad TRAPREC the context itself, has it. CTXRD and CTXWR read and write the image of a context that does not run; what no field
of it holds reads back as zero (R4). -/
def Sys2Proof.Machine.DebugContextRule : Prop :=
  ∀ (s : State), s.hub.debugOpen = true → s.hub.recovery = false → s.hub.debugWaits = false →
    let refused (i : Instr) : Prop := Goes i s fun t => t = { s with hub := { s.hub with answer := [1], debugQueue := s.hub.debugQueue.drop 1 } }
    (∀ tile place c, s.ctx? tile place = some c →
      let becomes (i : Instr) (c' : Ctx) : Prop := Turns i s tile place fun t x => x = c' ∧ t.hub.answer = [0] ∧ s.SameMemory t ∧ s.SameOthers t tile place
      let goes (i : Instr) (one : Bool) : Prop := Turns i s tile place fun t x => t.hub.answer = [0] ∧ s.SameMemory t ∧ x.heldByDebug = false ∧
        x.stepPending = one ∧ x.attached = c.attached ∧ (∀ r, c.SameReg x r) ∧ s.SameOthers t tile place ∧
        (badRecord (c.regs.csr.getD 0x13 0) = true → c.resume = none → x.pc = c.pc ∧ x.remainder = c.remainder) ∧
        (badRecord (c.regs.csr.getD 0x13 0) = false → x.pc = leNat (s.read (sramKey tile (c.regs.csr.getD 0x13 0).toNat + 8) 2))
      becomes (.attach tile place) { c with attached := true } ∧
      becomes (.detach tile place) { c with attached := false, haltRequest := false, stepPending := false } ∧
      (c.attached = true → c.heldByDebug = false → becomes (.debugHalt tile place) { c with haltRequest := true }) ∧
      (c.attached = false → refused (.debugHalt tile place)) ∧
      (c.heldByDebug = true → c.Ordered → goes (.step tile place) true ∧ goes (.resume tile place) false) ∧
      (c.heldByDebug = false → refused (.step tile place) ∧ refused (.resume tile place))) ∧
    ∀ who tile place c, s.findWho who = some (tile, place, c) →
      (c.heldByDebug = true ∨ 4 ≤ place →
        (Goes (.ctxrd who) s fun t => s.SameMemory t ∧ t.ctxs = s.ctxs ∧
          (place < 8 → t.hub.answer = 0 :: s.saveImage tile c) ∧ (8 ≤ place → t.hub.answer = 0 :: s.read (saveSlotKey tile (place - 8)) 0x2000)) ∧
        (∀ image : List Byte, image.length = 0x2000 → s.Canonical → Turns (.ctxwr who image) s tile place fun t c' => t.hub.answer = [0] ∧
          c'.pc = c.pc ∧ c'.writes = [] ∧ s.SameOthers t tile place ∧
          (∀ k, 0 < k → k < 64 → c'.regs.get (.g k) = BitVec.ofNat 2048 (leNat ((image.drop (8 * k)).take 8))) ∧
          (∀ k, 0 < k → k < 32 → c'.regs.p.getLsbD k = (leNat ((image.drop 0x1020).take 4)).testBit k) ∧
          (place < 8 → s.SameMemory t) ∧ (8 ≤ place → s.SameMemoryBut t (saveSlotKey tile (place - 8)) 0x2000 ∧
            ∀ k, k < 0x2000 → t.mem.read (saveSlotKey tile (place - 8) + k) = (s.saveImage tile c').getD k 0)) ∧
        ∀ image : List Byte, image.length ≠ 0x2000 → refused (.ctxwr who image)) ∧
      (c.heldByDebug = false → place < 4 → refused (.ctxrd who))

/-- R472, R476, R478, R479: debug reads and writes of each space of a tile, within its bounds, those of a memory beat by beat as its bank is free (R320,
R286), and else waiting; comparators; the trace FIFO; the trigger, which latches once
until its snapshot is read. Every command is refused while the path is closed. -/
def Sys2Proof.Machine.DebugMemoryRule : Prop :=
  ∀ (s : State), s.hub.debugWaits = false →
    let refused (i : Instr) : Prop := Goes i s fun t => t = { s with hub := { s.hub with answer := [1], debugQueue := s.hub.debugQueue.drop 1 } }
    (s.hub.debugOpen = false ∨ s.hub.recovery = true → ∀ (tile place : Nat) (who : Who) (space : DebugSpace) (addr size : Nat) (data : List Byte)
      (k : BitVec 2) (a : BitVec 16) (m : BitVec 4) (on : Bool),
      ∀ i ∈ [Instr.attach tile place, .detach tile place, .debugHalt tile place, .step tile place, .resume tile place, .ctxrd who, .ctxwr who data,
        .memrd tile space addr size, .memwr tile space addr data, .brkset tile k a m on, .fiford tile size, .snaprd], refused i) ∧
    (s.hub.debugOpen = true → s.hub.recovery = false → s.hub.probe = none → s.Canonical → ∀ tile, tile < 1152 →
      let answers (i : Instr) (b : List Byte) (P : State → Prop) : Prop := Goes i s fun t => t.hub.answer = b ∧ t.ctxs = s.ctxs ∧ P t
      let fits (space : DebugSpace) (addr n : Nat) : Prop := (space = .sram → addr + n ≤ 2 ^ 20) ∧ (space = .code → addr + n ≤ 2 ^ 16) ∧
        (space = .vault → addr + n ≤ 2 ^ 29) ∧ (space = .shadow → 0xFB000 ≤ addr ∧ addr + n ≤ 2 ^ 20)
      let beat (addr n : Nat) : Prop := 0 < n ∧ n ≤ 64 - addr % 64
      let free (addr n : Nat) : Prop := s.bankFree ⟨0, 1, tile, addr⟩ n
      let served (addr : Nat) (cmd : Command) : Prop :=
        let bank := addr / 2 ^ 24
        Table.find? (s.vault tile).opened bank = some (addr / 2 ^ 11 % 2 ^ 13) ∧ bank ∉ (s.vault tile).closing ∧
          (s.vault tile).busy.getD bank 0 ≤ s.time ∧ s.engineMay tile cmd bank = true
      let waits (i : Instr) : Prop := Goes i s fun t => t.hub.debugWaits = true ∧ t.hub.answer = s.hub.answer ∧ t.ctxs = s.ctxs ∧ s.SameMemory t
      (∀ addr n,
        (fits .sram addr n → beat addr n → free addr n → answers (.memrd tile .sram addr n) (0 :: s.read (sramKey tile addr) n) s.SameMemory) ∧
        (fits .sram addr n → beat addr n → ¬ free addr n → waits (.memrd tile .sram addr n)) ∧
        (fits .code addr n → answers (.memrd tile .code addr n) (0 :: s.code.readN (codeKey tile addr) n) s.SameMemory) ∧
        (fits .vault addr n → beat addr n → served addr .rd →
          answers (.memrd tile .vault addr n) (0 :: s.read (vaultKey tile addr) n) s.SameMemory) ∧
        (fits .shadow addr n → Goes (.memrd tile .shadow addr n) s fun t => s.SameMemory t ∧ t.ctxs = s.ctxs ∧ ∃ bytes,
          t.hub.answer = 0 :: bytes ∧ bytes.length = n ∧
          ∀ k, k < n → ∀ b, Table.find? (s.tile tile).shadow (addr + k) = some b → bytes.getD k 0 = b) ∧
        ∀ space, ¬ fits space addr n → refused (.memrd tile space addr n)) ∧
      (∀ addr data,
        let lands (space : DebugSpace) (key : Nat) (ready : Prop) : Prop := fits space addr data.length → beat addr data.length → ready → answers (.memwr tile space addr data) [0] fun t =>
          (∀ j, j < data.length → t.mem.read (key + j) = data.getD j 0) ∧ s.SameMemoryBut t key data.length ∧ t.code = s.code
        lands .sram (sramKey tile addr) (free addr data.length) ∧ lands .vault (vaultKey tile addr) (served addr .wr) ∧
        (fits .sram addr data.length → beat addr data.length → ¬ free addr data.length → waits (.memwr tile .sram addr data)) ∧
        (fits .code addr data.length → s.heldCode tile addr data.length = false → answers (.memwr tile .code addr data) [0] fun t =>
          t.mem = s.mem ∧ (∀ j, j < data.length → t.code.read (codeKey tile addr + j) = data.getD j 0) ∧
            ∀ k, (k < codeKey tile addr ∨ codeKey tile addr + data.length ≤ k) → t.code.read k = s.code.read k) ∧
        (fits .code addr data.length → s.heldCode tile addr data.length = true → refused (.memwr tile .code addr data)) ∧
        (fits .shadow addr data.length → answers (.memwr tile .shadow addr data) [0] fun t => s.SameMemory t ∧
          ∀ j, j < data.length → Table.find? (t.tile tile).shadow (addr + j) = some (data.getD j 0))) ∧
      (∀ (k : BitVec 2) (a : BitVec 16) (m : BitVec 4),
        (answers (.brkset tile k a m true) [0] fun t => s.SameMemory t ∧ Table.find? (t.tile tile).breaks k.toNat = some (a, m)) ∧
        (Table.sorted (s.tile tile).breaks = true → answers (.brkset tile k a m false) [0] fun t => s.SameMemory t ∧
          Table.find? (t.tile tile).breaks k.toNat = none)) ∧
      (∀ n, Goes (.fiford tile n) s fun t => s.SameMemory t ∧ t.ctxs = s.ctxs ∧ (t.tile tile).trace = (s.tile tile).trace.drop (min n 256) ∧
        t.hub.answer.length = 1 + 32 * min (min n 256) (s.tile tile).trace.length) ∧
      (s.hub.tagged = false →
        (s.hub.armed = true → Goes .trigger s fun t => t.hub.answer = [0] ∧ t.hub.fired = s.hub.fired + 1 ∧ t.hub.armed = false ∧
          1152 ≤ t.hub.snapshot.length ∧ s.SameMemory t) ∧
        (s.hub.armed = false → refused .trigger)) ∧
      Goes .snaprd s fun t => t.hub.armed = true ∧ t.hub.fired = s.hub.fired ∧ t.ctxs = s.ctxs ∧ s.SameMemory t ∧ ∃ rest,
        t.hub.answer = 0 :: (leBytes 8 (s.hub.fired % 2 ^ 64) ++ rest) ∧ rest.length = 8 * s.hub.snapshot.length)

/-- R487-R489: an image that verifies is measured and leaves the recovery state, and any other enters it; an SPDM request is answered, GET_MEASUREMENTS
with the block asked for; a token that verifies and names this device and its nonce opens the debug path. What a signature says is free (log 11). -/
def Sys2Proof.Machine.AttestationRule : Prop :=
  ∀ (s : State),
    let quiet (t : State) : Prop := t.ctxs = s.ctxs ∧ s.SameMemory t
    let verified (t : State) (image : List Byte) : Prop :=
      (Config.signatureValid image = true → t.hub.recovery = false ∧ Table.find? t.hub.measurements 2 = some (sha256 image)) ∧
        (Config.signatureValid image = false → t.hub.recovery = true)
    let answered (i : Instr) : Prop := Goes i s fun t => quiet t ∧ t.hub.answer.head? = some 0
    (∀ image, (Goes (.boot image) s fun t => quiet t ∧ verified t image ∧ t.hub.armed = true ∧ t.hub.debugOpen = false ∧
        Table.find? t.hub.measurements 5 = some [0]) ∧
      (s.hub.recovery = true → Goes (.recoveryStart image) s fun t => quiet t ∧ verified t image) ∧
      (s.hub.recovery = false → Goes (.recoveryStart image) s fun t => t = s)) ∧
    answered .getVersion ∧ answered .getCapabilities ∧ answered .negotiateAlgorithms ∧ answered .getDigests ∧ answered .getCertificate ∧
    (∀ nonce, answered (.challenge nonce)) ∧
    (∀ index, Goes (.getMeasurements index) s fun t => quiet t ∧ t.hub.answer.head? = some 0 ∧
      Table.getD s.hub.measurements index [] <:+ t.hub.answer) ∧
    ∀ token, Goes (.debugAuthorisation token) s fun t =>
      (s.hub.recovery = false → Config.signatureValid token = true → Config.tokenNames token s.hub.nonce = true →
        quiet t ∧ t.hub.debugOpen = true ∧ t.hub.nonce = s.hub.nonce + 1 ∧ Table.find? t.hub.measurements 5 = some [1]) ∧
      (s.hub.recovery = true ∨ Config.signatureValid token = false ∨ Config.tokenNames token s.hub.nonce = false → t = s)

/-- R10, R135, R483-R485, R490, R491 and Table 21.1: the remap table is written whole or refused, and what a tile holds follows its physical tile;
scrubbing records, and sets the poison of what it cannot correct; a tile of low margin gets more supply or is marked failed and retired to a spare; a
fault in a context's control state ends it; a failed lockstep pair halts the package. -/
def Sys2Proof.Machine.HealthRule : Prop :=
  ∀ (s : State), Table.sorted s.hub.remap = true →
    let quiet (t : State) : Prop := t.ctxs = s.ctxs ∧ ∀ a, t.mem.read a = s.mem.read a
    (∀ (die : Nat) (entries : List (Option Nat)),
      let fits : Prop := entries.length = 288 ∧ die < 4 ∧ (∀ n, some n ∈ entries → n < 296 ∧ 296 * die + n ∉ s.hub.failed) ∧
        (entries.filterMap id).Nodup
      let moved (t : State) (old new : Nat) : Prop := t.tile new = s.tile old ∧
        (∀ a, a < 2 ^ 36 → t.mem.read (sramKey new a) = s.mem.read (sramKey old a) ∧ t.mem.read (vaultKey new a) = s.mem.read (vaultKey old a)) ∧
        ∀ a, a < 2 ^ 16 → t.code.read (codeKey new a) = s.code.read (codeKey old a)
      (s.launching = false → fits → Goes (.remapTableWrite die entries) s fun t => t.ctxs = s.ctxs ∧
        (∀ k, k < 288 → t.physical (288 * die + k) = entries.getD k none) ∧ (∀ tile, tile / 288 ≠ die → t.physical tile = s.physical tile) ∧
        (Table.sorted s.tiles = true → s.Canonical →
          (∀ tile, tile < 1152 → tile / 288 ≠ die → moved t tile tile) ∧
          ∀ tile n k, tile / 288 = die → s.physical tile = some n → (∀ other, other / 288 = die → s.physical other = some n → other = tile) →
            k < 288 → entries.getD k none = some n → moved t tile (288 * die + k))) ∧
      (s.launching = true ∨ ¬ fits → Goes (.remapTableWrite die entries) s fun t => t = s)) ∧
    (∀ (tile : Nat) (w : StoredWord) (n : Nat),
      let record (c : Nat) : Nat × Nat × Nat × Word64 := (s.physicalKey tile, protectionRow w, c, s.cycle)
      let result : Prop := ∃ place, w = .result place
      let spoils (P : State → Prop) : Prop := Goes (.patrolScrub tile w n .uncorrectable) s fun t => t.hub.health = s.hub.health ++ [record 1] ∧
        (∀ a, t.mem.read a = s.mem.read a) ∧ P t
      let granule (key : Nat) : Prop := spoils fun t => t.ctxs = s.ctxs ∧ ∀ k, k ∈ t.poison ↔ k ∈ s.poison ∨ k = key / 64
      let register (place : Nat) (r : Reg) : Prop := ∀ c, s.ctx? tile place = some c → spoils fun t => s.SameOthers t tile place ∧
        ∃ c', t.ctx? tile place = some c' ∧ c'.regs.poison r = true ∧ c'.pc = c.pc ∧ c'.writes = c.writes ∧
          ∀ o, o ≠ r → c.SameReg c' o
      (Goes (.patrolScrub tile w n .clean) s fun t => t = s) ∧
      (¬ result → Goes (.patrolScrub tile w n .corrected) s fun t => quiet t ∧ t.poison = s.poison ∧ t.hub.health = s.hub.health ++ [record 0] ∧
        ∀ k, k ∈ t.hub.suspect ↔ k ∈ s.hub.suspect ∨ (k = tile ∧ 64 < t.corrections tile)) ∧
      (result → exec (.patrolScrub tile w n .corrected) s = exec (.patrolScrub tile w n .uncorrectable) s) ∧
      (w = .sram → granule (sramKey tile n)) ∧ (w = .vault → granule (vaultKey tile n)) ∧
      (∀ place, (w = .g place → 0 < n → n < 64 → register place (.g n)) ∧ (w = .handle place → n < 16 → register place (.h n)) ∧
        (w = .latch place → n < 12 → register place (.v n))) ∧
      (w = .bank → n < 2 → spoils fun t => t.ctxs = s.ctxs ∧ (t.tile tile).array.bankPoison.getLsbD n = true) ∧
        (w = .row → n < 64 → spoils fun t => t.ctxs = s.ctxs ∧ (t.tile tile).array.rowPoison.getLsbD n = true)) ∧
    (∀ (tile : Nat) (low : Bool), s.physicalKey tile ∉ s.hub.failed → (s.physical tile).isSome = true →
      let steps := Table.getD s.hub.supply tile 0
      let i : Instr := .ageingCheck tile low
      (low = false → tile ∉ s.hub.suspect → Goes i s fun t => t = s) ∧
      (low = true → tile ∉ s.hub.suspect → steps < 5 → Goes i s fun t => quiet t ∧ Table.getD t.hub.supply tile 0 = steps + 1 ∧
        t.hub.failed = s.hub.failed) ∧
      (tile ∈ s.hub.suspect ∨ (low = true ∧ 5 ≤ steps) → Goes i s fun t => quiet t ∧ s.physicalKey tile ∈ t.hub.failed ∧
        (s.time + 1, 0, Instr.tileRetirement tile) ∈ t.due)) ∧
    (∀ tile : Nat,
      (tile ∉ s.hub.moving → s.busyPart (partOf tile) = true → Goes (.tileRetirement tile) s fun t => quiet t ∧
        t.physical tile = s.physical tile ∧ (s.time + 1, 0, Instr.tileRetirement tile) ∈ t.due) ∧
      (tile ∉ s.hub.moving → s.busyPart (partOf tile) = false →
        (∀ n, s.spare (dieOf tile) = some n → Goes (.tileRetirement tile) s fun t => quiet t ∧ tile ∈ t.hub.moving ∧
          ∃ d, 0 < d ∧ d ≤ 4300000 ∧ (s.time + d, 0, Instr.tileRetirement tile) ∈ t.due) ∧
        (s.spare (dieOf tile) = none → Goes (.tileRetirement tile) s fun t => t.ctxs = s.ctxs ∧ t.physical tile = none ∧
          Table.find? t.tiles tile = none ∧ ∀ other, other ≠ tile → t.physical other = s.physical other)) ∧
      (tile ∈ s.hub.moving → Goes (.tileRetirement tile) s fun t => quiet t ∧ t.physical tile = s.spare (dieOf tile) ∧ tile ∉ t.hub.moving ∧
        tile ∉ t.hub.suspect ∧ (t.reg 0x38).getLsbD 3 = true)) ∧
    (∀ (tile place : Nat) (code : Bool) (c : Ctx) (l : Launch), Table.sorted s.ctxs = true → s.ctx? tile place = some c →
      Table.find? s.hub.launches c.launch = some l → l.ending = none → Goes (.controlStateFault tile place code) s fun t =>
        t.ctx? tile place = none ∧ tile ∈ t.hub.suspect ∧ ∃ l' e, Table.find? t.hub.launches c.launch = some l' ∧ l'.ending = some e ∧
          e.status = 3 ∧ e.cause = 0x05 ∧ e.detail = (if code then 0x1501 else 0x1500)) ∧
    (Goes (.lockstepFailure true) s fun t => t = s) ∧
    Goes (.lockstepFailure false) s fun t => quiet t ∧ t.hub.halted = true ∧ (t.reg 0x38).getLsbD 4 = true

/-- R141-R144, R441: pre-emption; R472, R476-R479: the debug path; R10, R483-R491: attestation and health. -/
def Obligations.PreemptDebugAndHealthSteps : Prop :=
  PreemptRule ∧ DebugContextRule ∧ DebugMemoryRule ∧ AttestationRule ∧ HealthRule

/-! ### The whole machine (01_package, 02_bundles) -/

/-- One step runs what the machine finds to do (log 2): the instruction that the word at an engine decodes to, or the refusal of that word; else the
next of the cycle's list, of which a dispatch runs the header at the pc of the context that has the turn, or that context's Cigon instruction and what
then follows (R462), and the D queues are asked by context number (R290); else the next package cycle. R19: that cycle
is one more, in the counter and in the clock of every tile that is not frozen (R72) and has a physical tile (R10). -/
def Obligations.StepRunsInstruction : Prop :=
  ∀ s : State,
    (∀ e i, s.engine = some e → decode e.q.slot e.q.lend e.q.word = .ok i → step s = exec i s) ∧
    (∀ e, s.engine = some e → decode e.q.slot e.q.lend e.q.word = .error .opcode →
      step s = exec (.illegalOpcode e.tile e.place e.q.slot) { s with engine := none }) ∧
    (∀ e d, s.engine = some e → decode e.q.slot e.q.lend e.q.word = .error (.encoding d) →
      step s = exec (.illegalEncoding e.tile e.place e.q.slot d) { s with engine := none }) ∧
    (s.engine = none →
      (∀ i rest, s.agenda = .event i :: rest → step s = exec i { s with agenda := rest }) ∧
      (∀ tile rest s1 place c, s.agenda = .dispatch tile :: rest → State.dispatchTurn { s with agenda := rest } tile = (s1, some place) →
        s1.ctx? tile place = some c →
        (∀ i, c.cigon = none → s1.refusal c (s1.bundleAt tile c.pc) = none →
          decodeHeader (s1.codeWord tile c.pc) (s1.codeWord tile (c.pc + 4)) = .ok i → step s = exec i { s1 with issuing := some (tile, place) }) ∧
        (c.cigon.isSome = true →
          let next := State.pick rest.length (s1.cigonDispatch tile place)
          step s = exec next.2 next.1)) ∧
      (∀ tile place slot rest c q more, slot < 7 → s.agenda = .leave tile place slot :: rest →
        let asked := if slot = 5 then s.vaultTurn tile place else place
        s.ctx? tile asked = some c → c.queue slot = q :: more → (∀ i, decode q.slot q.lend q.word = .ok i → actsLast i = false) →
        step s = exec (.slotQueueLeave tile asked slot) { s with agenda := rest }) ∧
      (s.agenda = [] → step s = exec .packageCycleAdvance { s with agenda := [] })) ∧
    ∃ t, exec .packageCycleAdvance s = .next t ∧ t.cycle = s.cycle + 1 ∧ t.time = s.time + 1 ∧
      ∀ k, (s.tiles.find? k).isSome = true → (s.physical k).isSome = true → (s.hub.halting = none ∨ s.hub.halted = true) →
        t.clock k = if s.stood k then s.clock k else s.clock k + 1

/-- Words of the manual's worked examples, one or more of every slot and some of the Cigon form, and the instructions that they are. -/
def Obligations.DecodeWords : Prop :=
  decodeHeader 0x4E080220 0x000C0600 = .ok (.plainBundleWithLend ⟨0x38, 2, false, 2, 1⟩ 0x000C0600) ∧
  decodeHeader 0x08000000 0 = .ok (.plainBundle ⟨0x20, 0, false, 0, 0⟩) ∧
  decodeHeader 0x200A0000 0 = .ok (.emptyRun 10) ∧
  decode 0 none 0x48500014 = .ok (.csrw 5 0x14) ∧
  decode 0 none 0x34000009 = .ok (.fencex 9) ∧
  decode 1 none 0x04418700 = .ok (.add ⟨4, 6, 7, false, 0, 0⟩) ∧
  decode 2 (some 6) 0x409246A0 = .ok (.addi ⟨9, 9, 0x06A0, some 6⟩) ∧
  decode 1 none 0x6641898E = .ok (.cmp ⟨0x24, 6, 9, true, 3, 2⟩) ∧
  decode 1 none 0xA8471800 = .ok (.ldacq ⟨4, 28, 3, 0, none⟩) ∧
  decode 3 (some 0x0C) 0x10427C00 = .ok (.fma ⟨1, 0, 9, 15, 0, 0, 0, some 0x0C⟩) ∧
  decode 4 none 0x10010001 = .ok (.push 0 1 0 true) ∧
  decode 5 none 0x10204001 = .ok (.rd ⟨1, 0, 8, 1, none⟩) ∧
  decode 6 none 0x21742024 = .ok (.cpy 23 16 2 0 0 18) ∧
  decode 6 none 0x2D368099 = .ok (.accw 19 26 0 1 1 2 true) ∧
  cigonOf 0x00533023 0 = some (.scalar (.store 3 5 6 0)) ∧
  cigonOf 0x0070202B 0 = some (.order true 3) ∧
  cigonOf 0x0010002B 0 = some (.phase 1 0) ∧
  cigonOf 0x8004200B 0 = some (.push 0 true 0 8 0) ∧
  cigonOf 0x0604D18B 0 = some (.drain 3 0 9 3 false)

/-- Decode and encode agree: for every well-formed header and op syllable, the decoder of its slot, or of the header, gives it back from its word and its
lend byte. X and Y hold one table, and every slot holds NOP and the extension window (R50). -/
def Obligations.EncodeDecode : Prop :=
  ∀ (i : Instr) (k : Nat), i.wf = true → slotOf i = some k →
    (k = 7 → decodeHeader (encode i) (match i with | .plainBundleWithLend _ w => w | _ => 0) = .ok i) ∧
    (k < 7 → decode k (lendOf i) (encode i) = .ok i) ∧
    (k = 1 → decode 2 (lendOf i) (encode i) = .ok i) ∧
    ∀ j, j < 7 → (i = .nop ∨ ∃ op rest, i = .extensionOpcode op rest) → decode j none (encode i) = .ok i

/-- Every context lists its registers, tokens and ports in order, has its results on their way in the order of R52, and keeps g0 at zero and p0 true. -/
def Sys2Proof.Machine.State.Registers (s : State) : Prop :=
  Table.sorted s.ctxs = true ∧
    ∀ x ∈ s.ctxs, x.2.Ordered ∧ x.2.HardWired ∧ Table.sorted x.2.tokens = true ∧ Table.sorted x.2.ports = true

/-- A tile lists the rows of its array, the open rows of its vault, its page entries, Dome slots, barrier objects and comparators in order, and has at most
64 array columns. -/
def Sys2Proof.Machine.Tile.Tables (t : Tile) : Prop :=
  Table.sorted t.array.wb0 = true ∧ Table.sorted t.array.wb1 = true ∧ Table.sorted t.array.acc = true ∧ t.columns ≤ 64 ∧
    Table.sorted t.vault.opened = true ∧ Table.sorted t.pages = true ∧ Table.sorted t.dome = true ∧ Table.sorted t.barriers = true ∧
    Table.sorted t.breaks = true

/-- The tiles, the copies and the tables of the hub are listed in order, and so are the tables of every tile. -/
def Sys2Proof.Machine.State.Tables (s : State) : Prop :=
  Table.sorted s.tiles = true ∧ (∀ x ∈ s.tiles, x.2.Tables) ∧ Table.sorted s.copies = true ∧ Table.sorted s.hub.regs = true ∧
    Table.sorted s.hub.queues = true ∧ Table.sorted s.hub.launches = true ∧ Table.sorted s.hub.packets = true ∧
    Table.sorted s.hub.objects = true ∧ Table.sorted s.hub.remap = true

/-- R19, R287, R357, R424: right after reset the cycle counter is zero, no context runs and nothing is resident, the writable registers hold their reset
values, no array has an owner, every vault bank is closed with no debt, and no barrier object is owned; the invariants of the next three statements hold. -/
def Obligations.ResetState : Prop :=
  let s := State.reset
  s.cycle = 0 ∧ s.ctxs = [] ∧ s.hub.launches = [] ∧ s.hub.objects = [] ∧ s.hub.packets = [] ∧
  s.readReg 0x18 = 18000000 ∧ s.readReg 0x20 = 2300 ∧ s.readReg 0x38 = 0 ∧
  (∀ tile bank object, (s.tile tile).array.owner = none ∧ (s.vault tile).opened.find? bank = none ∧ (s.vault tile).debt = 0 ∧
    (s.vault tile).round = 0 ∧ ((s.tile tile).barriers.getD object Barrier.free).owner = none) ∧
  s.Canonical ∧ s.Registers ∧ s.Tables

/-- Every step keeps the canonical form of the byte memory and of the code memory: equal contents stay equal data. -/
def Obligations.StepKeepsMemory : Prop := ∀ s t : State, s.Canonical → step s = .next t → t.Canonical

/-- R46, R52, R59, R171: every step keeps g0 at zero and p0 true in every context, with nothing on its way to them, and the results on their way in the
order in which they become visible. -/
def Obligations.StepKeepsRegisters : Prop := ∀ s t : State, s.Registers → step s = .next t → t.Registers

/-- Every step keeps the tables of the package and of its tiles in order, one entry for each key, and the columns of an array at most 64 (R18). -/
def Obligations.StepKeepsTables : Prop := ∀ s t : State, s.Tables → step s = .next t → t.Tables

/-- R52: of two whole writes to one register, the one that becomes visible later prevails from its cycle on, and the other is seen before it; at one cycle
the later bundle prevails, and within a bundle the later slot. In whichever order they were produced, the register reads as of old before both. The
manual's example: a MUL to g4 at cycle 10 and an ADD to g4 at 11. -/
def Obligations.ResultVisibility : Prop :=
  ∀ c : Ctx, c.Ordered →
    (∀ (a b : RegWrite) (d : Nat), a.reg = b.reg → a.reg.discards = false → a.mask = BitVec.allOnes 2048 → b.mask = BitVec.allOnes 2048 →
      (∀ w ∈ c.writes, w.reg ≠ a.reg) →
      (a.vis < b.vis ∨ (a.vis = b.vis ∧ (a.seq < b.seq ∨ (a.seq = b.seq ∧ a.slot < b.slot)))) →
      let value (w : RegWrite) : Vec := (c.regs.put w.reg w.val).get w.reg
      ∀ x, x = (c.post a).post b ∨ x = (c.post b).post a →
        (d < a.vis → (x.regsAt d).get a.reg = c.regs.get a.reg) ∧
        (a.vis ≤ d → d < b.vis → (x.regsAt d).get a.reg = value a) ∧
        (b.vis ≤ d → (x.regsAt d).get a.reg = value b)) ∧
    ∀ (mul add : Queued) (product sum : Word64), mul.disp = 10 → add.disp = 11 → (∀ w ∈ c.writes, w.reg ≠ .g 4) →
      let x := (c.resultG mul 3 4 product).resultG add 1 4 sum
      (∀ d, d < 12 → (x.regsAt d).g.getD 4 0 = c.regs.g.getD 4 0) ∧ (x.regsAt 12).g.getD 4 0 = sum ∧
        ∀ d, 13 ≤ d → (x.regsAt d).g.getD 4 0 = product
end

