-- ==== Sys2Proof/Laws/State.lean ====
section
/-! SUPPORT. What each update of the state leaves of its fields: one lemma per field per update, so that no proof unfolds a
record update. -/

namespace Sys2Proof.Machine

/-! ### State.putCtx -/

@[simp] theorem putCtx_cycle (s : State) (t p : Nat) (c : Ctx) : (s.putCtx t p c).cycle = s.cycle := rfl
@[simp] theorem putCtx_time (s : State) (t p : Nat) (c : Ctx) : (s.putCtx t p c).time = s.time := rfl
@[simp] theorem putCtx_tiles (s : State) (t p : Nat) (c : Ctx) : (s.putCtx t p c).tiles = s.tiles := rfl
@[simp] theorem putCtx_mem (s : State) (t p : Nat) (c : Ctx) : (s.putCtx t p c).mem = s.mem := rfl
@[simp] theorem putCtx_poison (s : State) (t p : Nat) (c : Ctx) : (s.putCtx t p c).poison = s.poison := rfl
@[simp] theorem putCtx_code (s : State) (t p : Nat) (c : Ctx) : (s.putCtx t p c).code = s.code := rfl
@[simp] theorem putCtx_starts (s : State) (t p : Nat) (c : Ctx) : (s.putCtx t p c).starts = s.starts := rfl
@[simp] theorem putCtx_hub (s : State) (t p : Nat) (c : Ctx) : (s.putCtx t p c).hub = s.hub := rfl
@[simp] theorem putCtx_due (s : State) (t p : Nat) (c : Ctx) : (s.putCtx t p c).due = s.due := rfl
@[simp] theorem putCtx_inbox (s : State) (t p : Nat) (c : Ctx) : (s.putCtx t p c).inbox = s.inbox := rfl
@[simp] theorem putCtx_agenda (s : State) (t p : Nat) (c : Ctx) : (s.putCtx t p c).agenda = s.agenda := rfl
@[simp] theorem putCtx_issuing (s : State) (t p : Nat) (c : Ctx) : (s.putCtx t p c).issuing = s.issuing := rfl
@[simp] theorem putCtx_engine (s : State) (t p : Nat) (c : Ctx) : (s.putCtx t p c).engine = s.engine := rfl
@[simp] theorem putCtx_ids (s : State) (t p : Nat) (c : Ctx) : (s.putCtx t p c).ids = s.ids := rfl
@[simp] theorem putCtx_free (s : State) (t p : Nat) (c : Ctx) : (s.putCtx t p c).free = s.free := rfl
@[simp] theorem putCtx_copies (s : State) (t p : Nat) (c : Ctx) : (s.putCtx t p c).copies = s.copies := rfl
@[simp] theorem putCtx_stores (s : State) (t p : Nat) (c : Ctx) : (s.putCtx t p c).stores = s.stores := rfl
@[simp] theorem putCtx_unsent (s : State) (t p : Nat) (c : Ctx) : (s.putCtx t p c).unsent = s.unsent := rfl
@[simp] theorem putCtx_replies (s : State) (t p : Nat) (c : Ctx) : (s.putCtx t p c).replies = s.replies := rfl
@[simp] theorem putCtx_sfReplies (s : State) (t p : Nat) (c : Ctx) : (s.putCtx t p c).sfReplies = s.sfReplies := rfl
@[simp] theorem putCtx_links (s : State) (t p : Nat) (c : Ctx) : (s.putCtx t p c).links = s.links := rfl
@[simp] theorem putCtx_moving (s : State) (t p : Nat) (c : Ctx) : (s.putCtx t p c).moving = s.moving := rfl
@[simp] theorem putCtx_abroad (s : State) (t p : Nat) (c : Ctx) : (s.putCtx t p c).abroad = s.abroad := rfl

/-! ### State.updTile -/

@[simp] theorem updTile_cycle (s : State) (t : Nat) (f : Tile → Tile) : (s.updTile t f).cycle = s.cycle := rfl
@[simp] theorem updTile_time (s : State) (t : Nat) (f : Tile → Tile) : (s.updTile t f).time = s.time := rfl
@[simp] theorem updTile_ctxs (s : State) (t : Nat) (f : Tile → Tile) : (s.updTile t f).ctxs = s.ctxs := rfl
@[simp] theorem updTile_mem (s : State) (t : Nat) (f : Tile → Tile) : (s.updTile t f).mem = s.mem := rfl
@[simp] theorem updTile_poison (s : State) (t : Nat) (f : Tile → Tile) : (s.updTile t f).poison = s.poison := rfl
@[simp] theorem updTile_code (s : State) (t : Nat) (f : Tile → Tile) : (s.updTile t f).code = s.code := rfl
@[simp] theorem updTile_starts (s : State) (t : Nat) (f : Tile → Tile) : (s.updTile t f).starts = s.starts := rfl
@[simp] theorem updTile_hub (s : State) (t : Nat) (f : Tile → Tile) : (s.updTile t f).hub = s.hub := rfl
@[simp] theorem updTile_due (s : State) (t : Nat) (f : Tile → Tile) : (s.updTile t f).due = s.due := rfl
@[simp] theorem updTile_inbox (s : State) (t : Nat) (f : Tile → Tile) : (s.updTile t f).inbox = s.inbox := rfl
@[simp] theorem updTile_agenda (s : State) (t : Nat) (f : Tile → Tile) : (s.updTile t f).agenda = s.agenda := rfl
@[simp] theorem updTile_issuing (s : State) (t : Nat) (f : Tile → Tile) : (s.updTile t f).issuing = s.issuing := rfl
@[simp] theorem updTile_engine (s : State) (t : Nat) (f : Tile → Tile) : (s.updTile t f).engine = s.engine := rfl
@[simp] theorem updTile_ids (s : State) (t : Nat) (f : Tile → Tile) : (s.updTile t f).ids = s.ids := rfl
@[simp] theorem updTile_free (s : State) (t : Nat) (f : Tile → Tile) : (s.updTile t f).free = s.free := rfl
@[simp] theorem updTile_copies (s : State) (t : Nat) (f : Tile → Tile) : (s.updTile t f).copies = s.copies := rfl
@[simp] theorem updTile_stores (s : State) (t : Nat) (f : Tile → Tile) : (s.updTile t f).stores = s.stores := rfl
@[simp] theorem updTile_unsent (s : State) (t : Nat) (f : Tile → Tile) : (s.updTile t f).unsent = s.unsent := rfl
@[simp] theorem updTile_replies (s : State) (t : Nat) (f : Tile → Tile) : (s.updTile t f).replies = s.replies := rfl
@[simp] theorem updTile_sfReplies (s : State) (t : Nat) (f : Tile → Tile) : (s.updTile t f).sfReplies = s.sfReplies := rfl
@[simp] theorem updTile_links (s : State) (t : Nat) (f : Tile → Tile) : (s.updTile t f).links = s.links := rfl
@[simp] theorem updTile_moving (s : State) (t : Nat) (f : Tile → Tile) : (s.updTile t f).moving = s.moving := rfl
@[simp] theorem updTile_abroad (s : State) (t : Nat) (f : Tile → Tile) : (s.updTile t f).abroad = s.abroad := rfl

/-! ### State.dropCtx -/

@[simp] theorem dropCtx_cycle (s : State) (t p : Nat) : (s.dropCtx t p).cycle = s.cycle := rfl
@[simp] theorem dropCtx_time (s : State) (t p : Nat) : (s.dropCtx t p).time = s.time := rfl
@[simp] theorem dropCtx_tiles (s : State) (t p : Nat) : (s.dropCtx t p).tiles = s.tiles := rfl
@[simp] theorem dropCtx_mem (s : State) (t p : Nat) : (s.dropCtx t p).mem = s.mem := rfl
@[simp] theorem dropCtx_poison (s : State) (t p : Nat) : (s.dropCtx t p).poison = s.poison := rfl
@[simp] theorem dropCtx_code (s : State) (t p : Nat) : (s.dropCtx t p).code = s.code := rfl
@[simp] theorem dropCtx_starts (s : State) (t p : Nat) : (s.dropCtx t p).starts = s.starts := rfl
@[simp] theorem dropCtx_hub (s : State) (t p : Nat) : (s.dropCtx t p).hub = s.hub := rfl
@[simp] theorem dropCtx_due (s : State) (t p : Nat) : (s.dropCtx t p).due = s.due := rfl
@[simp] theorem dropCtx_inbox (s : State) (t p : Nat) : (s.dropCtx t p).inbox = s.inbox := rfl
@[simp] theorem dropCtx_agenda (s : State) (t p : Nat) : (s.dropCtx t p).agenda = s.agenda := rfl
@[simp] theorem dropCtx_issuing (s : State) (t p : Nat) : (s.dropCtx t p).issuing = s.issuing := rfl
@[simp] theorem dropCtx_engine (s : State) (t p : Nat) : (s.dropCtx t p).engine = s.engine := rfl
@[simp] theorem dropCtx_ids (s : State) (t p : Nat) : (s.dropCtx t p).ids = s.ids := rfl
@[simp] theorem dropCtx_free (s : State) (t p : Nat) : (s.dropCtx t p).free = s.free := rfl
@[simp] theorem dropCtx_copies (s : State) (t p : Nat) : (s.dropCtx t p).copies = s.copies := rfl
@[simp] theorem dropCtx_stores (s : State) (t p : Nat) : (s.dropCtx t p).stores = s.stores := rfl
@[simp] theorem dropCtx_unsent (s : State) (t p : Nat) : (s.dropCtx t p).unsent = s.unsent := rfl
@[simp] theorem dropCtx_replies (s : State) (t p : Nat) : (s.dropCtx t p).replies = s.replies := rfl
@[simp] theorem dropCtx_sfReplies (s : State) (t p : Nat) : (s.dropCtx t p).sfReplies = s.sfReplies := rfl
@[simp] theorem dropCtx_links (s : State) (t p : Nat) : (s.dropCtx t p).links = s.links := rfl
@[simp] theorem dropCtx_moving (s : State) (t p : Nat) : (s.dropCtx t p).moving = s.moving := rfl
@[simp] theorem dropCtx_abroad (s : State) (t p : Nat) : (s.dropCtx t p).abroad = s.abroad := rfl

/-! ### State.after -/

@[simp] theorem after_cycle (s : State) (n : Nat) (i : Instr) (k : Nat) : (s.after n i k).cycle = s.cycle := rfl
@[simp] theorem after_time (s : State) (n : Nat) (i : Instr) (k : Nat) : (s.after n i k).time = s.time := rfl
@[simp] theorem after_tiles (s : State) (n : Nat) (i : Instr) (k : Nat) : (s.after n i k).tiles = s.tiles := rfl
@[simp] theorem after_ctxs (s : State) (n : Nat) (i : Instr) (k : Nat) : (s.after n i k).ctxs = s.ctxs := rfl
@[simp] theorem after_mem (s : State) (n : Nat) (i : Instr) (k : Nat) : (s.after n i k).mem = s.mem := rfl
@[simp] theorem after_poison (s : State) (n : Nat) (i : Instr) (k : Nat) : (s.after n i k).poison = s.poison := rfl
@[simp] theorem after_code (s : State) (n : Nat) (i : Instr) (k : Nat) : (s.after n i k).code = s.code := rfl
@[simp] theorem after_starts (s : State) (n : Nat) (i : Instr) (k : Nat) : (s.after n i k).starts = s.starts := rfl
@[simp] theorem after_hub (s : State) (n : Nat) (i : Instr) (k : Nat) : (s.after n i k).hub = s.hub := rfl
@[simp] theorem after_inbox (s : State) (n : Nat) (i : Instr) (k : Nat) : (s.after n i k).inbox = s.inbox := rfl
@[simp] theorem after_agenda (s : State) (n : Nat) (i : Instr) (k : Nat) : (s.after n i k).agenda = s.agenda := rfl
@[simp] theorem after_issuing (s : State) (n : Nat) (i : Instr) (k : Nat) : (s.after n i k).issuing = s.issuing := rfl
@[simp] theorem after_engine (s : State) (n : Nat) (i : Instr) (k : Nat) : (s.after n i k).engine = s.engine := rfl
@[simp] theorem after_ids (s : State) (n : Nat) (i : Instr) (k : Nat) : (s.after n i k).ids = s.ids := rfl
@[simp] theorem after_free (s : State) (n : Nat) (i : Instr) (k : Nat) : (s.after n i k).free = s.free := rfl
@[simp] theorem after_copies (s : State) (n : Nat) (i : Instr) (k : Nat) : (s.after n i k).copies = s.copies := rfl
@[simp] theorem after_stores (s : State) (n : Nat) (i : Instr) (k : Nat) : (s.after n i k).stores = s.stores := rfl
@[simp] theorem after_unsent (s : State) (n : Nat) (i : Instr) (k : Nat) : (s.after n i k).unsent = s.unsent := rfl
@[simp] theorem after_replies (s : State) (n : Nat) (i : Instr) (k : Nat) : (s.after n i k).replies = s.replies := rfl
@[simp] theorem after_sfReplies (s : State) (n : Nat) (i : Instr) (k : Nat) : (s.after n i k).sfReplies = s.sfReplies := rfl
@[simp] theorem after_links (s : State) (n : Nat) (i : Instr) (k : Nat) : (s.after n i k).links = s.links := rfl
@[simp] theorem after_moving (s : State) (n : Nat) (i : Instr) (k : Nat) : (s.after n i k).moving = s.moving := rfl
@[simp] theorem after_abroad (s : State) (n : Nat) (i : Instr) (k : Nat) : (s.after n i k).abroad = s.abroad := rfl

/-! ### State.afterTile -/

@[simp] theorem afterTile_cycle (s : State) (t n : Nat) (i : Instr) (k : Nat) : (s.afterTile t n i k).cycle = s.cycle := rfl
@[simp] theorem afterTile_time (s : State) (t n : Nat) (i : Instr) (k : Nat) : (s.afterTile t n i k).time = s.time := rfl
@[simp] theorem afterTile_ctxs (s : State) (t n : Nat) (i : Instr) (k : Nat) : (s.afterTile t n i k).ctxs = s.ctxs := rfl
@[simp] theorem afterTile_mem (s : State) (t n : Nat) (i : Instr) (k : Nat) : (s.afterTile t n i k).mem = s.mem := rfl
@[simp] theorem afterTile_poison (s : State) (t n : Nat) (i : Instr) (k : Nat) : (s.afterTile t n i k).poison = s.poison := rfl
@[simp] theorem afterTile_code (s : State) (t n : Nat) (i : Instr) (k : Nat) : (s.afterTile t n i k).code = s.code := rfl
@[simp] theorem afterTile_starts (s : State) (t n : Nat) (i : Instr) (k : Nat) : (s.afterTile t n i k).starts = s.starts := rfl
@[simp] theorem afterTile_hub (s : State) (t n : Nat) (i : Instr) (k : Nat) : (s.afterTile t n i k).hub = s.hub := rfl
@[simp] theorem afterTile_due (s : State) (t n : Nat) (i : Instr) (k : Nat) : (s.afterTile t n i k).due = s.due := rfl
@[simp] theorem afterTile_inbox (s : State) (t n : Nat) (i : Instr) (k : Nat) : (s.afterTile t n i k).inbox = s.inbox := rfl
@[simp] theorem afterTile_agenda (s : State) (t n : Nat) (i : Instr) (k : Nat) : (s.afterTile t n i k).agenda = s.agenda := rfl
@[simp] theorem afterTile_issuing (s : State) (t n : Nat) (i : Instr) (k : Nat) : (s.afterTile t n i k).issuing = s.issuing := rfl
@[simp] theorem afterTile_engine (s : State) (t n : Nat) (i : Instr) (k : Nat) : (s.afterTile t n i k).engine = s.engine := rfl
@[simp] theorem afterTile_ids (s : State) (t n : Nat) (i : Instr) (k : Nat) : (s.afterTile t n i k).ids = s.ids := rfl
@[simp] theorem afterTile_free (s : State) (t n : Nat) (i : Instr) (k : Nat) : (s.afterTile t n i k).free = s.free := rfl
@[simp] theorem afterTile_copies (s : State) (t n : Nat) (i : Instr) (k : Nat) : (s.afterTile t n i k).copies = s.copies := rfl
@[simp] theorem afterTile_stores (s : State) (t n : Nat) (i : Instr) (k : Nat) : (s.afterTile t n i k).stores = s.stores := rfl
@[simp] theorem afterTile_unsent (s : State) (t n : Nat) (i : Instr) (k : Nat) : (s.afterTile t n i k).unsent = s.unsent := rfl
@[simp] theorem afterTile_replies (s : State) (t n : Nat) (i : Instr) (k : Nat) : (s.afterTile t n i k).replies = s.replies := rfl
@[simp] theorem afterTile_sfReplies (s : State) (t n : Nat) (i : Instr) (k : Nat) : (s.afterTile t n i k).sfReplies = s.sfReplies := rfl
@[simp] theorem afterTile_links (s : State) (t n : Nat) (i : Instr) (k : Nat) : (s.afterTile t n i k).links = s.links := rfl
@[simp] theorem afterTile_moving (s : State) (t n : Nat) (i : Instr) (k : Nat) : (s.afterTile t n i k).moving = s.moving := rfl
@[simp] theorem afterTile_abroad (s : State) (t n : Nat) (i : Instr) (k : Nat) : (s.afterTile t n i k).abroad = s.abroad := rfl

/-! ### State.now -/

@[simp] theorem now_cycle (s : State) (i : Instr) : (s.now i).cycle = s.cycle := rfl
@[simp] theorem now_time (s : State) (i : Instr) : (s.now i).time = s.time := rfl
@[simp] theorem now_tiles (s : State) (i : Instr) : (s.now i).tiles = s.tiles := rfl
@[simp] theorem now_ctxs (s : State) (i : Instr) : (s.now i).ctxs = s.ctxs := rfl
@[simp] theorem now_mem (s : State) (i : Instr) : (s.now i).mem = s.mem := rfl
@[simp] theorem now_poison (s : State) (i : Instr) : (s.now i).poison = s.poison := rfl
@[simp] theorem now_code (s : State) (i : Instr) : (s.now i).code = s.code := rfl
@[simp] theorem now_starts (s : State) (i : Instr) : (s.now i).starts = s.starts := rfl
@[simp] theorem now_hub (s : State) (i : Instr) : (s.now i).hub = s.hub := rfl
@[simp] theorem now_due (s : State) (i : Instr) : (s.now i).due = s.due := rfl
@[simp] theorem now_inbox (s : State) (i : Instr) : (s.now i).inbox = s.inbox := rfl
@[simp] theorem now_issuing (s : State) (i : Instr) : (s.now i).issuing = s.issuing := rfl
@[simp] theorem now_engine (s : State) (i : Instr) : (s.now i).engine = s.engine := rfl
@[simp] theorem now_ids (s : State) (i : Instr) : (s.now i).ids = s.ids := rfl
@[simp] theorem now_free (s : State) (i : Instr) : (s.now i).free = s.free := rfl
@[simp] theorem now_copies (s : State) (i : Instr) : (s.now i).copies = s.copies := rfl
@[simp] theorem now_stores (s : State) (i : Instr) : (s.now i).stores = s.stores := rfl
@[simp] theorem now_unsent (s : State) (i : Instr) : (s.now i).unsent = s.unsent := rfl
@[simp] theorem now_replies (s : State) (i : Instr) : (s.now i).replies = s.replies := rfl
@[simp] theorem now_sfReplies (s : State) (i : Instr) : (s.now i).sfReplies = s.sfReplies := rfl
@[simp] theorem now_links (s : State) (i : Instr) : (s.now i).links = s.links := rfl
@[simp] theorem now_moving (s : State) (i : Instr) : (s.now i).moving = s.moving := rfl
@[simp] theorem now_abroad (s : State) (i : Instr) : (s.now i).abroad = s.abroad := rfl

/-! ### State.write -/

@[simp] theorem write_cycle (s : State) (a : Nat) (l : List Byte) (b : Bool) : (s.write a l b).cycle = s.cycle := rfl
@[simp] theorem write_time (s : State) (a : Nat) (l : List Byte) (b : Bool) : (s.write a l b).time = s.time := rfl
@[simp] theorem write_tiles (s : State) (a : Nat) (l : List Byte) (b : Bool) : (s.write a l b).tiles = s.tiles := rfl
@[simp] theorem write_ctxs (s : State) (a : Nat) (l : List Byte) (b : Bool) : (s.write a l b).ctxs = s.ctxs := rfl
@[simp] theorem write_code (s : State) (a : Nat) (l : List Byte) (b : Bool) : (s.write a l b).code = s.code := rfl
@[simp] theorem write_starts (s : State) (a : Nat) (l : List Byte) (b : Bool) : (s.write a l b).starts = s.starts := rfl
@[simp] theorem write_hub (s : State) (a : Nat) (l : List Byte) (b : Bool) : (s.write a l b).hub = s.hub := rfl
@[simp] theorem write_due (s : State) (a : Nat) (l : List Byte) (b : Bool) : (s.write a l b).due = s.due := rfl
@[simp] theorem write_inbox (s : State) (a : Nat) (l : List Byte) (b : Bool) : (s.write a l b).inbox = s.inbox := rfl
@[simp] theorem write_agenda (s : State) (a : Nat) (l : List Byte) (b : Bool) : (s.write a l b).agenda = s.agenda := rfl
@[simp] theorem write_issuing (s : State) (a : Nat) (l : List Byte) (b : Bool) : (s.write a l b).issuing = s.issuing := rfl
@[simp] theorem write_engine (s : State) (a : Nat) (l : List Byte) (b : Bool) : (s.write a l b).engine = s.engine := rfl
@[simp] theorem write_ids (s : State) (a : Nat) (l : List Byte) (b : Bool) : (s.write a l b).ids = s.ids := rfl
@[simp] theorem write_free (s : State) (a : Nat) (l : List Byte) (b : Bool) : (s.write a l b).free = s.free := rfl
@[simp] theorem write_copies (s : State) (a : Nat) (l : List Byte) (b : Bool) : (s.write a l b).copies = s.copies := rfl
@[simp] theorem write_stores (s : State) (a : Nat) (l : List Byte) (b : Bool) : (s.write a l b).stores = s.stores := rfl
@[simp] theorem write_unsent (s : State) (a : Nat) (l : List Byte) (b : Bool) : (s.write a l b).unsent = s.unsent := rfl
@[simp] theorem write_replies (s : State) (a : Nat) (l : List Byte) (b : Bool) : (s.write a l b).replies = s.replies := rfl
@[simp] theorem write_sfReplies (s : State) (a : Nat) (l : List Byte) (b : Bool) : (s.write a l b).sfReplies = s.sfReplies := rfl
@[simp] theorem write_links (s : State) (a : Nat) (l : List Byte) (b : Bool) : (s.write a l b).links = s.links := rfl
@[simp] theorem write_moving (s : State) (a : Nat) (l : List Byte) (b : Bool) : (s.write a l b).moving = s.moving := rfl
@[simp] theorem write_abroad (s : State) (a : Nat) (l : List Byte) (b : Bool) : (s.write a l b).abroad = s.abroad := rfl

/-! ### State.finish -/

@[simp] theorem finish_cycle (s : State) (e : Issued) (c : Ctx) : (s.finish e c).cycle = s.cycle := rfl
@[simp] theorem finish_time (s : State) (e : Issued) (c : Ctx) : (s.finish e c).time = s.time := rfl
@[simp] theorem finish_tiles (s : State) (e : Issued) (c : Ctx) : (s.finish e c).tiles = s.tiles := rfl
@[simp] theorem finish_mem (s : State) (e : Issued) (c : Ctx) : (s.finish e c).mem = s.mem := rfl
@[simp] theorem finish_poison (s : State) (e : Issued) (c : Ctx) : (s.finish e c).poison = s.poison := rfl
@[simp] theorem finish_code (s : State) (e : Issued) (c : Ctx) : (s.finish e c).code = s.code := rfl
@[simp] theorem finish_starts (s : State) (e : Issued) (c : Ctx) : (s.finish e c).starts = s.starts := rfl
@[simp] theorem finish_hub (s : State) (e : Issued) (c : Ctx) : (s.finish e c).hub = s.hub := rfl
@[simp] theorem finish_due (s : State) (e : Issued) (c : Ctx) : (s.finish e c).due = s.due := rfl
@[simp] theorem finish_inbox (s : State) (e : Issued) (c : Ctx) : (s.finish e c).inbox = s.inbox := rfl
@[simp] theorem finish_agenda (s : State) (e : Issued) (c : Ctx) : (s.finish e c).agenda = s.agenda := rfl
@[simp] theorem finish_issuing (s : State) (e : Issued) (c : Ctx) : (s.finish e c).issuing = s.issuing := rfl
@[simp] theorem finish_ids (s : State) (e : Issued) (c : Ctx) : (s.finish e c).ids = s.ids := rfl
@[simp] theorem finish_free (s : State) (e : Issued) (c : Ctx) : (s.finish e c).free = s.free := rfl
@[simp] theorem finish_copies (s : State) (e : Issued) (c : Ctx) : (s.finish e c).copies = s.copies := rfl
@[simp] theorem finish_stores (s : State) (e : Issued) (c : Ctx) : (s.finish e c).stores = s.stores := rfl
@[simp] theorem finish_unsent (s : State) (e : Issued) (c : Ctx) : (s.finish e c).unsent = s.unsent := rfl
@[simp] theorem finish_replies (s : State) (e : Issued) (c : Ctx) : (s.finish e c).replies = s.replies := rfl
@[simp] theorem finish_sfReplies (s : State) (e : Issued) (c : Ctx) : (s.finish e c).sfReplies = s.sfReplies := rfl
@[simp] theorem finish_links (s : State) (e : Issued) (c : Ctx) : (s.finish e c).links = s.links := rfl
@[simp] theorem finish_moving (s : State) (e : Issued) (c : Ctx) : (s.finish e c).moving = s.moving := rfl
@[simp] theorem finish_abroad (s : State) (e : Issued) (c : Ctx) : (s.finish e c).abroad = s.abroad := rfl

/-! ### State.raise -/

@[simp] theorem raise_cycle (s : State) (e : Issued) (c : Ctx) (t : Trap) : (s.raise e c t).cycle = s.cycle := rfl
@[simp] theorem raise_time (s : State) (e : Issued) (c : Ctx) (t : Trap) : (s.raise e c t).time = s.time := rfl
@[simp] theorem raise_tiles (s : State) (e : Issued) (c : Ctx) (t : Trap) : (s.raise e c t).tiles = s.tiles := rfl
@[simp] theorem raise_mem (s : State) (e : Issued) (c : Ctx) (t : Trap) : (s.raise e c t).mem = s.mem := rfl
@[simp] theorem raise_poison (s : State) (e : Issued) (c : Ctx) (t : Trap) : (s.raise e c t).poison = s.poison := rfl
@[simp] theorem raise_code (s : State) (e : Issued) (c : Ctx) (t : Trap) : (s.raise e c t).code = s.code := rfl
@[simp] theorem raise_starts (s : State) (e : Issued) (c : Ctx) (t : Trap) : (s.raise e c t).starts = s.starts := rfl
@[simp] theorem raise_hub (s : State) (e : Issued) (c : Ctx) (t : Trap) : (s.raise e c t).hub = s.hub := rfl
@[simp] theorem raise_due (s : State) (e : Issued) (c : Ctx) (t : Trap) : (s.raise e c t).due = s.due := rfl
@[simp] theorem raise_inbox (s : State) (e : Issued) (c : Ctx) (t : Trap) : (s.raise e c t).inbox = s.inbox := rfl
@[simp] theorem raise_agenda (s : State) (e : Issued) (c : Ctx) (t : Trap) : (s.raise e c t).agenda = s.agenda := rfl
@[simp] theorem raise_issuing (s : State) (e : Issued) (c : Ctx) (t : Trap) : (s.raise e c t).issuing = s.issuing := rfl
@[simp] theorem raise_ids (s : State) (e : Issued) (c : Ctx) (t : Trap) : (s.raise e c t).ids = s.ids := rfl
@[simp] theorem raise_free (s : State) (e : Issued) (c : Ctx) (t : Trap) : (s.raise e c t).free = s.free := rfl
@[simp] theorem raise_copies (s : State) (e : Issued) (c : Ctx) (t : Trap) : (s.raise e c t).copies = s.copies := rfl
@[simp] theorem raise_stores (s : State) (e : Issued) (c : Ctx) (t : Trap) : (s.raise e c t).stores = s.stores := rfl
@[simp] theorem raise_unsent (s : State) (e : Issued) (c : Ctx) (t : Trap) : (s.raise e c t).unsent = s.unsent := rfl
@[simp] theorem raise_replies (s : State) (e : Issued) (c : Ctx) (t : Trap) : (s.raise e c t).replies = s.replies := rfl
@[simp] theorem raise_sfReplies (s : State) (e : Issued) (c : Ctx) (t : Trap) : (s.raise e c t).sfReplies = s.sfReplies := rfl
@[simp] theorem raise_links (s : State) (e : Issued) (c : Ctx) (t : Trap) : (s.raise e c t).links = s.links := rfl
@[simp] theorem raise_moving (s : State) (e : Issued) (c : Ctx) (t : Trap) : (s.raise e c t).moving = s.moving := rfl
@[simp] theorem raise_abroad (s : State) (e : Issued) (c : Ctx) (t : Trap) : (s.raise e c t).abroad = s.abroad := rfl

/-! ### State.drawDelay -/

@[simp] theorem drawDelay_cycle (s : State) (n : Nat) : (s.drawDelay n).2.cycle = s.cycle := rfl
@[simp] theorem drawDelay_time (s : State) (n : Nat) : (s.drawDelay n).2.time = s.time := rfl
@[simp] theorem drawDelay_tiles (s : State) (n : Nat) : (s.drawDelay n).2.tiles = s.tiles := rfl
@[simp] theorem drawDelay_ctxs (s : State) (n : Nat) : (s.drawDelay n).2.ctxs = s.ctxs := rfl
@[simp] theorem drawDelay_mem (s : State) (n : Nat) : (s.drawDelay n).2.mem = s.mem := rfl
@[simp] theorem drawDelay_poison (s : State) (n : Nat) : (s.drawDelay n).2.poison = s.poison := rfl
@[simp] theorem drawDelay_code (s : State) (n : Nat) : (s.drawDelay n).2.code = s.code := rfl
@[simp] theorem drawDelay_starts (s : State) (n : Nat) : (s.drawDelay n).2.starts = s.starts := rfl
@[simp] theorem drawDelay_hub (s : State) (n : Nat) : (s.drawDelay n).2.hub = s.hub := rfl
@[simp] theorem drawDelay_due (s : State) (n : Nat) : (s.drawDelay n).2.due = s.due := rfl
@[simp] theorem drawDelay_inbox (s : State) (n : Nat) : (s.drawDelay n).2.inbox = s.inbox := rfl
@[simp] theorem drawDelay_agenda (s : State) (n : Nat) : (s.drawDelay n).2.agenda = s.agenda := rfl
@[simp] theorem drawDelay_issuing (s : State) (n : Nat) : (s.drawDelay n).2.issuing = s.issuing := rfl
@[simp] theorem drawDelay_engine (s : State) (n : Nat) : (s.drawDelay n).2.engine = s.engine := rfl
@[simp] theorem drawDelay_ids (s : State) (n : Nat) : (s.drawDelay n).2.ids = s.ids := rfl
@[simp] theorem drawDelay_copies (s : State) (n : Nat) : (s.drawDelay n).2.copies = s.copies := rfl
@[simp] theorem drawDelay_stores (s : State) (n : Nat) : (s.drawDelay n).2.stores = s.stores := rfl
@[simp] theorem drawDelay_unsent (s : State) (n : Nat) : (s.drawDelay n).2.unsent = s.unsent := rfl
@[simp] theorem drawDelay_replies (s : State) (n : Nat) : (s.drawDelay n).2.replies = s.replies := rfl
@[simp] theorem drawDelay_sfReplies (s : State) (n : Nat) : (s.drawDelay n).2.sfReplies = s.sfReplies := rfl
@[simp] theorem drawDelay_links (s : State) (n : Nat) : (s.drawDelay n).2.links = s.links := rfl
@[simp] theorem drawDelay_moving (s : State) (n : Nat) : (s.drawDelay n).2.moving = s.moving := rfl
@[simp] theorem drawDelay_abroad (s : State) (n : Nat) : (s.drawDelay n).2.abroad = s.abroad := rfl

/-! ### Ctx.markDone, Ctx.putCsr -/

@[simp] theorem markDone_launch (c : Ctx) (q k : Nat) : (c.markDone q k).launch = c.launch := rfl
@[simp] theorem markDone_num (c : Ctx) (q k : Nat) : (c.markDone q k).num = c.num := rfl
@[simp] theorem markDone_pc (c : Ctx) (q k : Nat) : (c.markDone q k).pc = c.pc := rfl
@[simp] theorem markDone_remainder (c : Ctx) (q k : Nat) : (c.markDone q k).remainder = c.remainder := rfl
@[simp] theorem markDone_regs (c : Ctx) (q k : Nat) : (c.markDone q k).regs = c.regs := rfl
@[simp] theorem markDone_writes (c : Ctx) (q k : Nat) : (c.markDone q k).writes = c.writes := rfl
@[simp] theorem markDone_tokens (c : Ctx) (q k : Nat) : (c.markDone q k).tokens = c.tokens := rfl
@[simp] theorem markDone_ports (c : Ctx) (q k : Nat) : (c.markDone q k).ports = c.ports := rfl
@[simp] theorem markDone_outRows (c : Ctx) (q k : Nat) : (c.markDone q k).outRows = c.outRows := rfl
@[simp] theorem markDone_queues (c : Ctx) (q k : Nat) : (c.markDone q k).queues = c.queues := rfl
@[simp] theorem markDone_last (c : Ctx) (q k : Nat) : (c.markDone q k).last = c.last := rfl
@[simp] theorem markDone_seq (c : Ctx) (q k : Nat) : (c.markDone q k).seq = c.seq := rfl
@[simp] theorem markDone_sched (c : Ctx) (q k : Nat) : (c.markDone q k).sched = c.sched := rfl
@[simp] theorem markDone_base (c : Ctx) (q k : Nat) : (c.markDone q k).base = c.base := rfl
@[simp] theorem markDone_stopping (c : Ctx) (q k : Nat) : (c.markDone q k).stopping = c.stopping := rfl
@[simp] theorem markDone_eret (c : Ctx) (q k : Nat) : (c.markDone q k).eret = c.eret := rfl
@[simp] theorem markDone_resume (c : Ctx) (q k : Nat) : (c.markDone q k).resume = c.resume := rfl
@[simp] theorem markDone_skips (c : Ctx) (q k : Nat) : (c.markDone q k).skips = c.skips := rfl
@[simp] theorem markDone_again (c : Ctx) (q k : Nat) : (c.markDone q k).again = c.again := rfl
@[simp] theorem markDone_wait (c : Ctx) (q k : Nat) : (c.markDone q k).wait = c.wait := rfl
@[simp] theorem markDone_fences (c : Ctx) (q k : Nat) : (c.markDone q k).fences = c.fences := rfl
@[simp] theorem markDone_pending (c : Ctx) (q k : Nat) : (c.markDone q k).pending = c.pending := rfl
@[simp] theorem markDone_undo (c : Ctx) (q k : Nat) : (c.markDone q k).undo = c.undo := rfl
@[simp] theorem markDone_group (c : Ctx) (q k : Nat) : (c.markDone q k).group = c.group := rfl
@[simp] theorem markDone_slicePos (c : Ctx) (q k : Nat) : (c.markDone q k).slicePos = c.slicePos := rfl
@[simp] theorem markDone_home (c : Ctx) (q k : Nat) : (c.markDone q k).home = c.home := rfl
@[simp] theorem markDone_dev (c : Ctx) (q k : Nat) : (c.markDone q k).dev = c.dev := rfl
@[simp] theorem markDone_readyFor (c : Ctx) (q k : Nat) : (c.markDone q k).readyFor = c.readyFor := rfl
@[simp] theorem markDone_release (c : Ctx) (q k : Nat) : (c.markDone q k).release = c.release := rfl
@[simp] theorem markDone_yielded (c : Ctx) (q k : Nat) : (c.markDone q k).yielded = c.yielded := rfl
@[simp] theorem markDone_take (c : Ctx) (q k : Nat) : (c.markDone q k).take = c.take := rfl
@[simp] theorem markDone_away (c : Ctx) (q k : Nat) : (c.markDone q k).away = c.away := rfl
@[simp] theorem markDone_lost (c : Ctx) (q k : Nat) : (c.markDone q k).lost = c.lost := rfl
@[simp] theorem markDone_episode (c : Ctx) (q k : Nat) : (c.markDone q k).episode = c.episode := rfl
@[simp] theorem markDone_dispatched (c : Ctx) (q k : Nat) : (c.markDone q k).dispatched = c.dispatched := rfl
@[simp] theorem markDone_attached (c : Ctx) (q k : Nat) : (c.markDone q k).attached = c.attached := rfl
@[simp] theorem markDone_heldByDebug (c : Ctx) (q k : Nat) : (c.markDone q k).heldByDebug = c.heldByDebug := rfl
@[simp] theorem markDone_stepPending (c : Ctx) (q k : Nat) : (c.markDone q k).stepPending = c.stepPending := rfl
@[simp] theorem markDone_haltRequest (c : Ctx) (q k : Nat) : (c.markDone q k).haltRequest = c.haltRequest := rfl
@[simp] theorem markDone_passBreak (c : Ctx) (q k : Nat) : (c.markDone q k).passBreak = c.passBreak := rfl
@[simp] theorem markDone_commands (c : Ctx) (q k : Nat) : (c.markDone q k).commands = c.commands := rfl
@[simp] theorem markDone_sf (c : Ctx) (q k : Nat) : (c.markDone q k).sf = c.sf := rfl
@[simp] theorem markDone_timed (c : Ctx) (q k : Nat) : (c.markDone q k).timed = c.timed := rfl
@[simp] theorem markDone_recent (c : Ctx) (q k : Nat) : (c.markDone q k).recent = c.recent := rfl
@[simp] theorem markDone_found (c : Ctx) (q k : Nat) : (c.markDone q k).found = c.found := rfl
@[simp] theorem markDone_count (c : Ctx) (q k : Nat) : (c.markDone q k).count = c.count := rfl
@[simp] theorem markDone_stamps (c : Ctx) (q k : Nat) : (c.markDone q k).stamps = c.stamps := rfl
@[simp] theorem markDone_awaits (c : Ctx) (q k : Nat) : (c.markDone q k).awaits = c.awaits := rfl
@[simp] theorem markDone_blocks (c : Ctx) (q k : Nat) : (c.markDone q k).blocks = c.blocks := rfl
@[simp] theorem markDone_cigon (c : Ctx) (q k : Nat) : (c.markDone q k).cigon = c.cigon := rfl
@[simp] theorem putCsr_launch (c : Ctx) (n : Nat) (v : Word64) : (c.putCsr n v).launch = c.launch := rfl
@[simp] theorem putCsr_num (c : Ctx) (n : Nat) (v : Word64) : (c.putCsr n v).num = c.num := rfl
@[simp] theorem putCsr_pc (c : Ctx) (n : Nat) (v : Word64) : (c.putCsr n v).pc = c.pc := rfl
@[simp] theorem putCsr_remainder (c : Ctx) (n : Nat) (v : Word64) : (c.putCsr n v).remainder = c.remainder := rfl
@[simp] theorem putCsr_writes (c : Ctx) (n : Nat) (v : Word64) : (c.putCsr n v).writes = c.writes := rfl
@[simp] theorem putCsr_tokens (c : Ctx) (n : Nat) (v : Word64) : (c.putCsr n v).tokens = c.tokens := rfl
@[simp] theorem putCsr_ports (c : Ctx) (n : Nat) (v : Word64) : (c.putCsr n v).ports = c.ports := rfl
@[simp] theorem putCsr_outRows (c : Ctx) (n : Nat) (v : Word64) : (c.putCsr n v).outRows = c.outRows := rfl
@[simp] theorem putCsr_queues (c : Ctx) (n : Nat) (v : Word64) : (c.putCsr n v).queues = c.queues := rfl
@[simp] theorem putCsr_flights (c : Ctx) (n : Nat) (v : Word64) : (c.putCsr n v).flights = c.flights := rfl
@[simp] theorem putCsr_last (c : Ctx) (n : Nat) (v : Word64) : (c.putCsr n v).last = c.last := rfl
@[simp] theorem putCsr_seq (c : Ctx) (n : Nat) (v : Word64) : (c.putCsr n v).seq = c.seq := rfl
@[simp] theorem putCsr_sched (c : Ctx) (n : Nat) (v : Word64) : (c.putCsr n v).sched = c.sched := rfl
@[simp] theorem putCsr_base (c : Ctx) (n : Nat) (v : Word64) : (c.putCsr n v).base = c.base := rfl
@[simp] theorem putCsr_stopping (c : Ctx) (n : Nat) (v : Word64) : (c.putCsr n v).stopping = c.stopping := rfl
@[simp] theorem putCsr_eret (c : Ctx) (n : Nat) (v : Word64) : (c.putCsr n v).eret = c.eret := rfl
@[simp] theorem putCsr_resume (c : Ctx) (n : Nat) (v : Word64) : (c.putCsr n v).resume = c.resume := rfl
@[simp] theorem putCsr_skips (c : Ctx) (n : Nat) (v : Word64) : (c.putCsr n v).skips = c.skips := rfl
@[simp] theorem putCsr_again (c : Ctx) (n : Nat) (v : Word64) : (c.putCsr n v).again = c.again := rfl
@[simp] theorem putCsr_wait (c : Ctx) (n : Nat) (v : Word64) : (c.putCsr n v).wait = c.wait := rfl
@[simp] theorem putCsr_fences (c : Ctx) (n : Nat) (v : Word64) : (c.putCsr n v).fences = c.fences := rfl
@[simp] theorem putCsr_pending (c : Ctx) (n : Nat) (v : Word64) : (c.putCsr n v).pending = c.pending := rfl
@[simp] theorem putCsr_undo (c : Ctx) (n : Nat) (v : Word64) : (c.putCsr n v).undo = c.undo := rfl
@[simp] theorem putCsr_group (c : Ctx) (n : Nat) (v : Word64) : (c.putCsr n v).group = c.group := rfl
@[simp] theorem putCsr_slicePos (c : Ctx) (n : Nat) (v : Word64) : (c.putCsr n v).slicePos = c.slicePos := rfl
@[simp] theorem putCsr_home (c : Ctx) (n : Nat) (v : Word64) : (c.putCsr n v).home = c.home := rfl
@[simp] theorem putCsr_dev (c : Ctx) (n : Nat) (v : Word64) : (c.putCsr n v).dev = c.dev := rfl
@[simp] theorem putCsr_readyFor (c : Ctx) (n : Nat) (v : Word64) : (c.putCsr n v).readyFor = c.readyFor := rfl
@[simp] theorem putCsr_release (c : Ctx) (n : Nat) (v : Word64) : (c.putCsr n v).release = c.release := rfl
@[simp] theorem putCsr_yielded (c : Ctx) (n : Nat) (v : Word64) : (c.putCsr n v).yielded = c.yielded := rfl
@[simp] theorem putCsr_take (c : Ctx) (n : Nat) (v : Word64) : (c.putCsr n v).take = c.take := rfl
@[simp] theorem putCsr_away (c : Ctx) (n : Nat) (v : Word64) : (c.putCsr n v).away = c.away := rfl
@[simp] theorem putCsr_lost (c : Ctx) (n : Nat) (v : Word64) : (c.putCsr n v).lost = c.lost := rfl
@[simp] theorem putCsr_episode (c : Ctx) (n : Nat) (v : Word64) : (c.putCsr n v).episode = c.episode := rfl
@[simp] theorem putCsr_dispatched (c : Ctx) (n : Nat) (v : Word64) : (c.putCsr n v).dispatched = c.dispatched := rfl
@[simp] theorem putCsr_attached (c : Ctx) (n : Nat) (v : Word64) : (c.putCsr n v).attached = c.attached := rfl
@[simp] theorem putCsr_heldByDebug (c : Ctx) (n : Nat) (v : Word64) : (c.putCsr n v).heldByDebug = c.heldByDebug := rfl
@[simp] theorem putCsr_stepPending (c : Ctx) (n : Nat) (v : Word64) : (c.putCsr n v).stepPending = c.stepPending := rfl
@[simp] theorem putCsr_haltRequest (c : Ctx) (n : Nat) (v : Word64) : (c.putCsr n v).haltRequest = c.haltRequest := rfl
@[simp] theorem putCsr_passBreak (c : Ctx) (n : Nat) (v : Word64) : (c.putCsr n v).passBreak = c.passBreak := rfl
@[simp] theorem putCsr_commands (c : Ctx) (n : Nat) (v : Word64) : (c.putCsr n v).commands = c.commands := rfl
@[simp] theorem putCsr_sf (c : Ctx) (n : Nat) (v : Word64) : (c.putCsr n v).sf = c.sf := rfl
@[simp] theorem putCsr_timed (c : Ctx) (n : Nat) (v : Word64) : (c.putCsr n v).timed = c.timed := rfl
@[simp] theorem putCsr_recent (c : Ctx) (n : Nat) (v : Word64) : (c.putCsr n v).recent = c.recent := rfl
@[simp] theorem putCsr_found (c : Ctx) (n : Nat) (v : Word64) : (c.putCsr n v).found = c.found := rfl
@[simp] theorem putCsr_count (c : Ctx) (n : Nat) (v : Word64) : (c.putCsr n v).count = c.count := rfl
@[simp] theorem putCsr_stamps (c : Ctx) (n : Nat) (v : Word64) : (c.putCsr n v).stamps = c.stamps := rfl
@[simp] theorem putCsr_awaits (c : Ctx) (n : Nat) (v : Word64) : (c.putCsr n v).awaits = c.awaits := rfl
@[simp] theorem putCsr_blocks (c : Ctx) (n : Nat) (v : Word64) : (c.putCsr n v).blocks = c.blocks := rfl
@[simp] theorem putCsr_cigon (c : Ctx) (n : Nat) (v : Word64) : (c.putCsr n v).cigon = c.cigon := rfl

/-! ### Ctx.post -/

@[simp] theorem post_launch (c : Ctx) (w : RegWrite) : (c.post w).launch = c.launch := by unfold Ctx.post; split <;> rfl
@[simp] theorem post_num (c : Ctx) (w : RegWrite) : (c.post w).num = c.num := by unfold Ctx.post; split <;> rfl
@[simp] theorem post_pc (c : Ctx) (w : RegWrite) : (c.post w).pc = c.pc := by unfold Ctx.post; split <;> rfl
@[simp] theorem post_remainder (c : Ctx) (w : RegWrite) : (c.post w).remainder = c.remainder := by unfold Ctx.post; split <;> rfl
@[simp] theorem post_regs (c : Ctx) (w : RegWrite) : (c.post w).regs = c.regs := by unfold Ctx.post; split <;> rfl
@[simp] theorem post_tokens (c : Ctx) (w : RegWrite) : (c.post w).tokens = c.tokens := by unfold Ctx.post; split <;> rfl
@[simp] theorem post_ports (c : Ctx) (w : RegWrite) : (c.post w).ports = c.ports := by unfold Ctx.post; split <;> rfl
@[simp] theorem post_outRows (c : Ctx) (w : RegWrite) : (c.post w).outRows = c.outRows := by unfold Ctx.post; split <;> rfl
@[simp] theorem post_queues (c : Ctx) (w : RegWrite) : (c.post w).queues = c.queues := by unfold Ctx.post; split <;> rfl
@[simp] theorem post_flights (c : Ctx) (w : RegWrite) : (c.post w).flights = c.flights := by unfold Ctx.post; split <;> rfl
@[simp] theorem post_last (c : Ctx) (w : RegWrite) : (c.post w).last = c.last := by unfold Ctx.post; split <;> rfl
@[simp] theorem post_seq (c : Ctx) (w : RegWrite) : (c.post w).seq = c.seq := by unfold Ctx.post; split <;> rfl
@[simp] theorem post_sched (c : Ctx) (w : RegWrite) : (c.post w).sched = c.sched := by unfold Ctx.post; split <;> rfl
@[simp] theorem post_base (c : Ctx) (w : RegWrite) : (c.post w).base = c.base := by unfold Ctx.post; split <;> rfl
@[simp] theorem post_stopping (c : Ctx) (w : RegWrite) : (c.post w).stopping = c.stopping := by unfold Ctx.post; split <;> rfl
@[simp] theorem post_eret (c : Ctx) (w : RegWrite) : (c.post w).eret = c.eret := by unfold Ctx.post; split <;> rfl
@[simp] theorem post_resume (c : Ctx) (w : RegWrite) : (c.post w).resume = c.resume := by unfold Ctx.post; split <;> rfl
@[simp] theorem post_skips (c : Ctx) (w : RegWrite) : (c.post w).skips = c.skips := by unfold Ctx.post; split <;> rfl
@[simp] theorem post_again (c : Ctx) (w : RegWrite) : (c.post w).again = c.again := by unfold Ctx.post; split <;> rfl
@[simp] theorem post_wait (c : Ctx) (w : RegWrite) : (c.post w).wait = c.wait := by unfold Ctx.post; split <;> rfl
@[simp] theorem post_fences (c : Ctx) (w : RegWrite) : (c.post w).fences = c.fences := by unfold Ctx.post; split <;> rfl
@[simp] theorem post_pending (c : Ctx) (w : RegWrite) : (c.post w).pending = c.pending := by unfold Ctx.post; split <;> rfl
@[simp] theorem post_undo (c : Ctx) (w : RegWrite) : (c.post w).undo = c.undo := by unfold Ctx.post; split <;> rfl
@[simp] theorem post_group (c : Ctx) (w : RegWrite) : (c.post w).group = c.group := by unfold Ctx.post; split <;> rfl
@[simp] theorem post_slicePos (c : Ctx) (w : RegWrite) : (c.post w).slicePos = c.slicePos := by unfold Ctx.post; split <;> rfl
@[simp] theorem post_home (c : Ctx) (w : RegWrite) : (c.post w).home = c.home := by unfold Ctx.post; split <;> rfl
@[simp] theorem post_dev (c : Ctx) (w : RegWrite) : (c.post w).dev = c.dev := by unfold Ctx.post; split <;> rfl
@[simp] theorem post_readyFor (c : Ctx) (w : RegWrite) : (c.post w).readyFor = c.readyFor := by unfold Ctx.post; split <;> rfl
@[simp] theorem post_release (c : Ctx) (w : RegWrite) : (c.post w).release = c.release := by unfold Ctx.post; split <;> rfl
@[simp] theorem post_yielded (c : Ctx) (w : RegWrite) : (c.post w).yielded = c.yielded := by unfold Ctx.post; split <;> rfl
@[simp] theorem post_take (c : Ctx) (w : RegWrite) : (c.post w).take = c.take := by unfold Ctx.post; split <;> rfl
@[simp] theorem post_away (c : Ctx) (w : RegWrite) : (c.post w).away = c.away := by unfold Ctx.post; split <;> rfl
@[simp] theorem post_lost (c : Ctx) (w : RegWrite) : (c.post w).lost = c.lost := by unfold Ctx.post; split <;> rfl
@[simp] theorem post_episode (c : Ctx) (w : RegWrite) : (c.post w).episode = c.episode := by unfold Ctx.post; split <;> rfl
@[simp] theorem post_dispatched (c : Ctx) (w : RegWrite) : (c.post w).dispatched = c.dispatched := by unfold Ctx.post; split <;> rfl
@[simp] theorem post_attached (c : Ctx) (w : RegWrite) : (c.post w).attached = c.attached := by unfold Ctx.post; split <;> rfl
@[simp] theorem post_heldByDebug (c : Ctx) (w : RegWrite) : (c.post w).heldByDebug = c.heldByDebug := by unfold Ctx.post; split <;> rfl
@[simp] theorem post_stepPending (c : Ctx) (w : RegWrite) : (c.post w).stepPending = c.stepPending := by unfold Ctx.post; split <;> rfl
@[simp] theorem post_haltRequest (c : Ctx) (w : RegWrite) : (c.post w).haltRequest = c.haltRequest := by unfold Ctx.post; split <;> rfl
@[simp] theorem post_passBreak (c : Ctx) (w : RegWrite) : (c.post w).passBreak = c.passBreak := by unfold Ctx.post; split <;> rfl
@[simp] theorem post_commands (c : Ctx) (w : RegWrite) : (c.post w).commands = c.commands := by unfold Ctx.post; split <;> rfl
@[simp] theorem post_sf (c : Ctx) (w : RegWrite) : (c.post w).sf = c.sf := by unfold Ctx.post; split <;> rfl
@[simp] theorem post_timed (c : Ctx) (w : RegWrite) : (c.post w).timed = c.timed := by unfold Ctx.post; split <;> rfl
@[simp] theorem post_recent (c : Ctx) (w : RegWrite) : (c.post w).recent = c.recent := by unfold Ctx.post; split <;> rfl
@[simp] theorem post_found (c : Ctx) (w : RegWrite) : (c.post w).found = c.found := by unfold Ctx.post; split <;> rfl
@[simp] theorem post_count (c : Ctx) (w : RegWrite) : (c.post w).count = c.count := by unfold Ctx.post; split <;> rfl
@[simp] theorem post_stamps (c : Ctx) (w : RegWrite) : (c.post w).stamps = c.stamps := by unfold Ctx.post; split <;> rfl
@[simp] theorem post_awaits (c : Ctx) (w : RegWrite) : (c.post w).awaits = c.awaits := by unfold Ctx.post; split <;> rfl
@[simp] theorem post_blocks (c : Ctx) (w : RegWrite) : (c.post w).blocks = c.blocks := by unfold Ctx.post; split <;> rfl
@[simp] theorem post_cigon (c : Ctx) (w : RegWrite) : (c.post w).cigon = c.cigon := by unfold Ctx.post; split <;> rfl

end Sys2Proof.Machine
end

