-- ==== Sys2Proof/Laws/Tables.lean ====
section
/-! SUPPORT. Laws of the sparse tables and of the byte memories: reading after writing, and the canonical form that every
operation keeps. -/

namespace Sys2Proof

open Machine

/-! ### Reading after writing -/

theorem table_find_put_self {α : Type} (t : Table α) (n : Nat) (v : α) : Table.find? (Table.put t n v) n = some v := by
  induction t with
  | nil => simp [Table.put, Table.find?]
  | cons x t ih =>
    obtain ⟨k, w⟩ := x
    simp only [Table.put]
    split
    · simp [Table.find?]
    · split
      · simp [Table.find?]
      · rename_i h1 h2
        have h3 : ¬ k = n := fun h => h2 h.symm
        simp [Table.find?, h3, h1, ih]

theorem table_find_put_other {α : Type} (t : Table α) (n m : Nat) (v : α) (h : m ≠ n) :
    Table.find? (Table.put t n v) m = Table.find? t m := by
  induction t with
  | nil => simp [Table.put, Table.find?, Ne.symm h]
  | cons x t ih =>
    obtain ⟨k, w⟩ := x
    simp only [Table.put]
    split
    · rename_i h1
      simp only [Table.find?, if_neg (Ne.symm h)]
      by_cases h2 : m < n
      · have h3 : ¬ k = m := by omega
        have h4 : m < k := by omega
        simp [h2, h3, h4]
      · simp [h2]
    · split
      · rename_i h1 h2
        subst h2
        simp [Table.find?, Ne.symm h]
      · simp only [Table.find?, ih]

theorem table_put_put {α : Type} (t : Table α) (n : Nat) (v w : α) :
    Table.put (Table.put t n v) n w = Table.put t n w := by
  induction t with
  | nil => simp [Table.put]
  | cons x t ih =>
    obtain ⟨k, u⟩ := x
    simp only [Table.put]
    by_cases h1 : n < k
    · simp [h1, Table.put]
    · by_cases h2 : n = k
      · simp [h2, Table.put]
      · simp [h1, h2, Table.put, ih]

/-! ### The order of keys -/

/-- Every key of a table is above a number. -/
def Table.above {α : Type} (t : Table α) (n : Nat) : Prop := ∀ x ∈ t, n < x.1

theorem table_sorted_cons {α : Type} (k : Nat) (v : α) (t : Table α) :
    Table.sorted ((k, v) :: t) = true ↔ Table.above t k ∧ Table.sorted t = true := by
  induction t generalizing k v with
  | nil => simp [Table.sorted, Table.above]
  | cons x t ih =>
    obtain ⟨j, w⟩ := x
    constructor
    · intro h
      simp only [Table.sorted, Bool.and_eq_true, decide_eq_true_eq] at h
      obtain ⟨h1, h2⟩ := h
      refine ⟨?_, h2⟩
      intro y hy
      rcases List.mem_cons.mp hy with rfl | hy
      · exact h1
      · exact Nat.lt_trans h1 (((ih j w).mp h2).1 y hy)
    · rintro ⟨h1, h2⟩
      have h3 : k < j := h1 (j, w) List.mem_cons_self
      simp [Table.sorted, h3, h2]

theorem table_find_above {α : Type} (t : Table α) (n m : Nat) (h : Table.above t n) (hm : m ≤ n) : Table.find? t m = none := by
  cases t with
  | nil => rfl
  | cons x t =>
    obtain ⟨k, v⟩ := x
    have hk : n < k := h (k, v) List.mem_cons_self
    have h1 : ¬ k = m := by omega
    have h2 : m < k := by omega
    simp [Table.find?, h1, h2]

theorem table_mem_put {α : Type} (t : Table α) (n : Nat) (v : α) (x : Nat × α) (h : x ∈ Table.put t n v) :
    x = (n, v) ∨ x ∈ t := by
  induction t with
  | nil => exact Or.inl (by simpa [Table.put] using h)
  | cons y t ih =>
    obtain ⟨k, w⟩ := y
    simp only [Table.put] at h
    split at h
    · rcases List.mem_cons.mp h with h | h
      · exact Or.inl h
      · exact Or.inr h
    · split at h
      · rcases List.mem_cons.mp h with h | h
        · exact Or.inl h
        · exact Or.inr (List.mem_cons_of_mem _ h)
      · rcases List.mem_cons.mp h with h | h
        · exact Or.inr (by simp [h])
        · rcases ih h with h | h
          · exact Or.inl h
          · exact Or.inr (List.mem_cons_of_mem _ h)

theorem table_mem_erase {α : Type} (t : Table α) (n : Nat) (x : Nat × α) (h : x ∈ Table.erase t n) : x ∈ t := by
  induction t with
  | nil => exact h
  | cons y t ih =>
    obtain ⟨k, w⟩ := y
    simp only [Table.erase] at h
    split at h
    · exact h
    · split at h
      · exact List.mem_cons_of_mem _ h
      · rcases List.mem_cons.mp h with h | h
        · simp [h]
        · exact List.mem_cons_of_mem _ (ih h)

theorem table_sorted_put {α : Type} (t : Table α) (n : Nat) (v : α) (h : Table.sorted t = true) :
    Table.sorted (Table.put t n v) = true := by
  induction t with
  | nil => rfl
  | cons x t ih =>
    obtain ⟨k, w⟩ := x
    obtain ⟨h1, h2⟩ := (table_sorted_cons k w t).mp h
    simp only [Table.put]
    split
    · rename_i hn
      refine (table_sorted_cons n v _).mpr ⟨?_, h⟩
      intro y hy
      rcases List.mem_cons.mp hy with rfl | hy
      · exact hn
      · exact Nat.lt_trans hn (h1 y hy)
    · split
      · rename_i _ hk
        exact (table_sorted_cons n v t).mpr ⟨fun y hy => hk ▸ h1 y hy, h2⟩
      · rename_i hn hk
        refine (table_sorted_cons k w _).mpr ⟨?_, ih h2⟩
        intro y hy
        rcases table_mem_put t n v y hy with rfl | hy
        · simp only
          omega
        · exact h1 y hy

theorem table_sorted_erase {α : Type} (t : Table α) (n : Nat) (h : Table.sorted t = true) :
    Table.sorted (Table.erase t n) = true := by
  induction t with
  | nil => rfl
  | cons x t ih =>
    obtain ⟨k, w⟩ := x
    obtain ⟨h1, h2⟩ := (table_sorted_cons k w t).mp h
    simp only [Table.erase]
    split
    · exact h
    · split
      · exact h2
      · exact (table_sorted_cons k w _).mpr ⟨fun y hy => h1 y (table_mem_erase t n y hy), ih h2⟩

theorem table_find_erase_self {α : Type} (t : Table α) (n : Nat) (h : Table.sorted t = true) :
    Table.find? (Table.erase t n) n = none := by
  induction t with
  | nil => rfl
  | cons x t ih =>
    obtain ⟨k, w⟩ := x
    obtain ⟨h1, h2⟩ := (table_sorted_cons k w t).mp h
    simp only [Table.erase]
    split
    · rename_i hn
      have hk : ¬ k = n := by omega
      simp [Table.find?, hk, hn]
    · split
      · rename_i _ hk
        exact table_find_above t k n h1 (by omega)
      · rename_i hn hk
        have hk' : ¬ k = n := fun e => hk e.symm
        simp [Table.find?, hk', hn, ih h2]

theorem table_find_erase_other {α : Type} (t : Table α) (n m : Nat) (h : Table.sorted t = true) (hm : m ≠ n) :
    Table.find? (Table.erase t n) m = Table.find? t m := by
  induction t with
  | nil => rfl
  | cons x t ih =>
    obtain ⟨k, w⟩ := x
    obtain ⟨h1, h2⟩ := (table_sorted_cons k w t).mp h
    simp only [Table.erase]
    split
    · rfl
    · split
      · rename_i _ hk
        subst hk
        simp only [Table.find?, if_neg (Ne.symm hm)]
        by_cases hlt : m < n
        · simp [hlt, table_find_above t n m h1 (Nat.le_of_lt hlt)]
        · simp [hlt]
      · simp only [Table.find?, ih h2]

/-- A table that lists no default reads what was set. -/
theorem table_getD_set_self {α : Type} [DecidableEq α] (t : Table α) (n : Nat) (v d : α) (h : Table.sorted t = true) :
    Table.getD (Table.set t n v d) n d = v := by
  unfold Table.getD Table.set
  split
  · rename_i hv
    simp [table_find_erase_self t n h, hv]
  · simp [table_find_put_self]

theorem table_getD_set_other {α : Type} [DecidableEq α] (t : Table α) (n m : Nat) (v d : α) (h : Table.sorted t = true)
    (hm : m ≠ n) : Table.getD (Table.set t n v d) m d = Table.getD t m d := by
  unfold Table.getD Table.set
  split
  · rw [table_find_erase_other t n m h hm]
  · rw [table_find_put_other t n m v hm]

end Sys2Proof

namespace Sys2Proof.Machine

/-! ### Byte memories -/

theorem memory_wf_iff (m : Memory) :
    Memory.wf m = true ↔ Table.sorted m = true ∧ ∀ c ∈ m, c.2 ≠ emptyByte := by
  simp [Memory.wf]

theorem memory_wf_nil : Memory.wf [] = true := rfl

theorem memory_wf_write (m : Memory) (a : Nat) (b : Byte) (h : Memory.wf m = true) : Memory.wf (Memory.write m a b) = true := by
  rw [memory_wf_iff] at h ⊢
  obtain ⟨h1, h2⟩ := h
  unfold Memory.write Table.set
  split
  · exact ⟨table_sorted_erase m a h1, fun c hc => h2 c (table_mem_erase m a c hc)⟩
  · rename_i hb
    refine ⟨table_sorted_put m a b h1, fun c hc => ?_⟩
    rcases table_mem_put m a b c hc with rfl | hc
    · exact hb
    · exact h2 c hc

theorem memory_wf_writeN (m : Memory) (a : Nat) (l : List Byte) (h : Memory.wf m = true) :
    Memory.wf (Memory.writeN m a l) = true := by
  induction l generalizing m a with
  | nil => exact h
  | cons b l ih => exact ih _ _ (memory_wf_write m a b h)

theorem memory_wf_writeAll (m : Memory) (l : List (Nat × Byte)) (h : Memory.wf m = true) :
    Memory.wf (Memory.writeAll m l) = true := by
  induction l generalizing m with
  | nil => exact h
  | cons x l ih => exact ih _ (memory_wf_write m x.1 x.2 h)

theorem memory_read_write_self (m : Memory) (a : Nat) (b : Byte) (h : Memory.wf m = true) :
    Memory.read (Memory.write m a b) a = b :=
  table_getD_set_self m a b emptyByte ((memory_wf_iff m).mp h).1

theorem memory_read_write_other (m : Memory) (a a' : Nat) (b : Byte) (h : Memory.wf m = true) (ha : a' ≠ a) :
    Memory.read (Memory.write m a b) a' = Memory.read m a' :=
  table_getD_set_other m a a' b emptyByte ((memory_wf_iff m).mp h).1 ha

theorem memory_read_writeN_outside (m : Memory) (a : Nat) (l : List Byte) (x : Nat) (h : Memory.wf m = true)
    (hx : x < a ∨ a + l.length ≤ x) : Memory.read (Memory.writeN m a l) x = Memory.read m x := by
  induction l generalizing m a with
  | nil => rfl
  | cons b l ih =>
    simp only [List.length_cons] at hx
    rw [Memory.writeN, ih _ _ (memory_wf_write m a b h) (by omega), memory_read_write_other m a x b h (by omega)]

theorem memory_read_writeN_inside (m : Memory) (a : Nat) (l : List Byte) (i : Nat) (h : Memory.wf m = true)
    (hi : i < l.length) : Memory.read (Memory.writeN m a l) (a + i) = l.getD i 0 := by
  induction l generalizing m a i with
  | nil => simp at hi
  | cons b l ih =>
    cases i with
    | zero =>
      rw [Memory.writeN, memory_read_writeN_outside _ _ _ _ (memory_wf_write m a b h) (by omega),
        Nat.add_zero, memory_read_write_self m a b h]
      rfl
    | succ i =>
      have h1 : a + (i + 1) = (a + 1) + i := by omega
      rw [Memory.writeN, h1, ih _ _ _ (memory_wf_write m a b h) (by simpa using hi)]
      rfl

theorem memory_read_writeAll_outside (m : Memory) (l : List (Nat × Byte)) (x : Nat) (h : Memory.wf m = true)
    (hx : ∀ c ∈ l, c.1 ≠ x) : Memory.read (Memory.writeAll m l) x = Memory.read m x := by
  induction l generalizing m with
  | nil => rfl
  | cons c l ih =>
    rw [Memory.writeAll, ih _ (memory_wf_write m c.1 c.2 h) fun d hd => hx d (List.mem_cons_of_mem _ hd),
      memory_read_write_other m c.1 x c.2 h (Ne.symm (hx c List.mem_cons_self))]

theorem memory_readN_length (m : Memory) (a n : Nat) : (Memory.readN m a n).length = n := by
  induction n generalizing a with
  | zero => rfl
  | succ n ih => simp [Memory.readN, ih]

/-- Memories in canonical form are equal when every byte reads alike. -/
theorem memory_ext (m m' : Memory) (h : Memory.wf m = true) (h' : Memory.wf m' = true)
    (e : ∀ a, Memory.read m a = Memory.read m' a) : m = m' := by
  induction m generalizing m' with
  | nil =>
    cases m' with
    | nil => rfl
    | cons c t =>
      have h1 := e c.1
      have h2 := ((memory_wf_iff _).mp h').2 c List.mem_cons_self
      simp [Memory.read, Table.getD, Table.find?] at h1
      exact absurd h1.symm h2
  | cons c t ih =>
    obtain ⟨k, v⟩ := c
    obtain ⟨hs, hv⟩ := (memory_wf_iff _).mp h
    obtain ⟨ha, hst⟩ := (table_sorted_cons k v t).mp hs
    cases m' with
    | nil =>
      have h1 := e k
      simp [Memory.read, Table.getD, Table.find?] at h1
      exact absurd h1 (hv (k, v) List.mem_cons_self)
    | cons c' t' =>
      obtain ⟨k', v'⟩ := c'
      obtain ⟨hs', hv'⟩ := (memory_wf_iff _).mp h'
      obtain ⟨ha', hst'⟩ := (table_sorted_cons k' v' t').mp hs'
      have hk : k = k' := by
        rcases Nat.lt_trichotomy k k' with hlt | heq | hgt
        · have h1 := e k
          have h2 : ¬ k' = k := by omega
          simp [Memory.read, Table.getD, Table.find?, h2, hlt] at h1
          exact absurd h1 (hv (k, v) List.mem_cons_self)
        · exact heq
        · have h1 := e k'
          have h2 : ¬ k = k' := by omega
          simp [Memory.read, Table.getD, Table.find?, h2, hgt] at h1
          exact absurd h1.symm (hv' (k', v') List.mem_cons_self)
      subst hk
      have hvv : v = v' := by
        have h1 := e k
        simpa [Memory.read, Table.getD, Table.find?] using h1
      subst hvv
      congr 1
      refine ih t' ((memory_wf_iff _).mpr ⟨hst, fun c hc => hv c (List.mem_cons_of_mem _ hc)⟩)
        ((memory_wf_iff _).mpr ⟨hst', fun c hc => hv' c (List.mem_cons_of_mem _ hc)⟩) fun a => ?_
      by_cases hak : a ≤ k
      · simp [Memory.read, Table.getD, table_find_above t k a ha hak, table_find_above t' k a ha' hak]
      · have h1 := e a
        have h2 : ¬ k = a := by omega
        have h3 : ¬ a < k := by omega
        simpa [Memory.read, Table.getD, Table.find?, h2, h3] using h1

end Sys2Proof.Machine
end

