-- ==== Sys2Proof/Laws/Ops.lean ====
section
/-! SUPPORT. What the shared operations can do, said once: how a syllable leaves its engine, what a result on its way changes, and
that the memory writes keep the canonical form. -/

namespace Sys2Proof.Machine

/-! ### Contexts -/

@[simp] theorem ctx_putCtx (s : State) (t p : Nat) (c : Ctx) : (s.putCtx t p c).ctx? t p = some c :=
  table_find_put_self s.ctxs (ctxKey t p) c

theorem ctx_putCtx_other (s : State) (t p t' p' : Nat) (c : Ctx) (h : ctxKey t' p' ≠ ctxKey t p) :
    (s.putCtx t p c).ctx? t' p' = s.ctx? t' p' :=
  table_find_put_other s.ctxs (ctxKey t p) (ctxKey t' p') c h

@[simp] theorem putCtx_putCtx (s : State) (t p : Nat) (c d : Ctx) : (s.putCtx t p c).putCtx t p d = s.putCtx t p d := by
  simp [State.putCtx, table_put_put]

theorem finish_ctx (s : State) (e : Issued) (c : Ctx) :
    (s.finish e c).ctx? e.tile e.place = some (c.markDone e.q.seq e.q.slot) :=
  table_find_put_self s.ctxs (ctxKey e.tile e.place) _

theorem raise_ctx (s : State) (e : Issued) (c : Ctx) (t : Trap) :
    (s.raise e c t).ctx? e.tile e.place = some (c.trapAt s.cycle e.q.seq e.q.slot t) :=
  table_find_put_self s.ctxs (ctxKey e.tile e.place) _

theorem finish_others (s : State) (e : Issued) (c : Ctx) : s.SameOthers (s.finish e c) e.tile e.place :=
  fun k hk => table_find_put_other s.ctxs (ctxKey e.tile e.place) k _ hk

theorem raise_others (s : State) (e : Issued) (c : Ctx) (t : Trap) : s.SameOthers (s.raise e c t) e.tile e.place :=
  fun k hk => table_find_put_other s.ctxs (ctxKey e.tile e.place) k _ hk

theorem finish_memory (s : State) (e : Issued) (c : Ctx) : s.SameMemory (s.finish e c) := ⟨fun _ => rfl, rfl, rfl⟩

/-! ### How a syllable leaves its engine -/

theorem commit_done_putCtx (s : State) (e : Issued) (c' : Ctx) :
    (Act.done (s.putCtx e.tile e.place c')).commit e = s.finish e c' := by
  have h : ({ s.putCtx e.tile e.place c' with engine := none } : State).ctx? e.tile e.place = some c' :=
    table_find_put_self s.ctxs (ctxKey e.tile e.place) c'
  simp only [Act.commit, State.updCtx, h]
  simp [State.putCtx, State.finish, table_put_put]

theorem commit_done (t : State) (e : Issued) (c : Ctx) (h : t.ctx? e.tile e.place = some c) :
    (Act.done t).commit e = t.finish e c := by
  have h' : ({ t with engine := none } : State).ctx? e.tile e.place = some c := h
  simp [Act.commit, State.updCtx, h', State.putCtx, State.finish]

theorem commit_trap (t : State) (e : Issued) (c : Ctx) (tr : Trap) (h : t.ctx? e.tile e.place = some c) :
    (Act.trap t tr).commit e = t.raise e c tr := by
  have h' : ({ t with engine := none } : State).ctx? e.tile e.place = some c := h
  simp [Act.commit, State.updCtx, h', State.putCtx, State.raise]

theorem onSyllable_at (s : State) (e : Issued) (c : Ctx) (f : Issued → Ctx → Act) (h : s.AtEngine e c) :
    onSyllable s f = .next ((f e c).commit e) := by
  simp [onSyllable, h.1, h.2]

/-- A syllable goes on exactly where it is at its engine. -/
theorem onSyllable_next (s t : State) (f : Issued → Ctx → Act) (h : onSyllable s f = .next t) :
    ∃ e c, s.AtEngine e c ∧ t = (f e c).commit e := by
  unfold onSyllable at h
  split at h
  · rename_i e he
    split at h
    · rename_i c hc
      exact ⟨e, c, ⟨he, hc⟩, by injection h with h; exact h.symm⟩
    · cases h
  · cases h

theorem onCtx_ok (s : State) (e : Issued) (c c' : Ctx) (f : Queued → Ctx → Except Trap Ctx) (h : s.AtEngine e c)
    (hf : f e.q c = .ok c') : onCtx s f = .next (s.finish e c') := by
  simp [onCtx, onSyllable_at s e c _ h, hf, commit_done_putCtx]

theorem onCtx_error (s : State) (e : Issued) (c : Ctx) (t : Trap) (f : Queued → Ctx → Except Trap Ctx) (h : s.AtEngine e c)
    (hf : f e.q c = .error t) : onCtx s f = .next (s.raise e c t) := by
  simp [onCtx, onSyllable_at s e c _ h, hf, commit_trap s e c t h.2]

/-- What a syllable that works on its context alone can do. -/
theorem onCtx_next (s t : State) (f : Queued → Ctx → Except Trap Ctx) (h : onCtx s f = .next t) :
    ∃ e c, s.AtEngine e c ∧
      ((∃ c', f e.q c = .ok c' ∧ t = s.finish e c') ∨ ∃ tr, f e.q c = .error tr ∧ t = s.raise e c tr) := by
  obtain ⟨e, c, hec, rfl⟩ := onSyllable_next s t _ h
  refine ⟨e, c, hec, ?_⟩
  cases hf : f e.q c with
  | ok c' => exact Or.inl ⟨c', rfl, by simp [commit_done_putCtx]⟩
  | error tr => exact Or.inr ⟨tr, rfl, by simp [commit_trap s e c tr hec.2]⟩

/-! ### Results on their way -/

theorem mem_insertWrite (w x : RegWrite) (l : List RegWrite) : x ∈ insertWrite w l ↔ x = w ∨ x ∈ l := by
  induction l with
  | nil => simp [insertWrite]
  | cons y l ih =>
    simp only [insertWrite]
    split
    · simp only [List.mem_cons, ih]
      tauto
    · simp only [List.mem_cons]

theorem before_total (a b : RegWrite) : a.before b = true ∨ b.before a = true := by
  unfold RegWrite.before
  simp only [Bool.or_eq_true, Bool.and_eq_true, decide_eq_true_eq, beq_iff_eq]
  omega

theorem before_trans (a b c : RegWrite) (h1 : a.before b = true) (h2 : b.before c = true) : a.before c = true := by
  unfold RegWrite.before at *
  simp only [Bool.or_eq_true, Bool.and_eq_true, decide_eq_true_eq, beq_iff_eq] at *
  omega

theorem pairwise_insertWrite (w : RegWrite) (l : List RegWrite) (h : l.Pairwise fun a b => a.before b = true) :
    (insertWrite w l).Pairwise fun a b => a.before b = true := by
  induction l with
  | nil => simp [insertWrite]
  | cons y l ih =>
    rw [List.pairwise_cons] at h
    simp only [insertWrite]
    split
    · rename_i hy
      rw [List.pairwise_cons]
      refine ⟨fun x hx => ?_, ih h.2⟩
      rcases (mem_insertWrite w x l).mp hx with rfl | hx
      · exact hy
      · exact h.1 x hx
    · rename_i hy
      have hw : w.before y = true := (before_total w y).resolve_right hy
      rw [List.pairwise_cons]
      refine ⟨fun x hx => ?_, List.pairwise_cons.mpr h⟩
      rcases List.mem_cons.mp hx with rfl | hx
      · exact hw
      · exact before_trans w y x hw (h.1 x hx)

/-- A result keeps the order of R52. -/
theorem post_ordered (c : Ctx) (w : RegWrite) (h : c.Ordered) : (c.post w).Ordered := by
  refine ⟨by simpa using h.1, ?_⟩
  unfold Ctx.post
  split
  · exact h.2
  · exact pairwise_insertWrite w c.writes h.2

theorem filter_insertWrite_other (w : RegWrite) (r : Reg) (l : List RegWrite) (h : w.reg ≠ r) :
    (insertWrite w l).filter (fun x => x.reg == r) = l.filter (fun x => x.reg == r) := by
  induction l with
  | nil => simp [insertWrite, h]
  | cons y l ih =>
    simp only [insertWrite]
    split
    · simp only [List.filter_cons, ih]
    · simp [List.filter_cons, h]

/-- A result changes no other register. -/
theorem post_sameReg (c : Ctx) (w : RegWrite) (r : Reg) (h : w.reg ≠ r) : c.SameReg (c.post w) r := by
  refine ⟨by simp, by simp, ?_⟩
  unfold Ctx.post
  split
  · rfl
  · exact filter_insertWrite_other w r c.writes h

/-- g0 and p0 discard what is written to them. -/
theorem post_discards (c : Ctx) (w : RegWrite) (h : w.reg.discards = true) : c.post w = c := by simp [Ctx.post, h]

theorem post_hardWired (c : Ctx) (w : RegWrite) (h : c.HardWired) : (c.post w).HardWired := by
  refine ⟨by simpa using h.1, by simpa using h.2.1, by simpa using h.2.2.1, fun x hx => ?_⟩
  unfold Ctx.post at hx
  split at hx
  · exact h.2.2.2 x hx
  · rename_i hw
    rcases (mem_insertWrite w x c.writes).mp hx with rfl | hx
    · simpa using hw
    · exact h.2.2.2 x hx

theorem sameReg_refl (c : Ctx) (r : Reg) : c.SameReg c r := ⟨rfl, rfl, rfl⟩

theorem sameReg_trans (a b c : Ctx) (r : Reg) (h1 : a.SameReg b r) (h2 : b.SameReg c r) : a.SameReg c r :=
  ⟨h2.1.trans h1.1, h2.2.1.trans h1.2.1, h2.2.2.trans h1.2.2⟩

/-! ### Memory -/

theorem write_canonical (s : State) (a : Nat) (l : List Byte) (b : Bool) (h : s.Canonical) : (s.write a l b).Canonical :=
  ⟨memory_wf_writeN s.mem a l h.1, h.2⟩

theorem writeCells_canonical (s : State) (tile : Nat) (l : List (Nat × Byte)) (b : Bool) (h : s.Canonical) :
    (s.writeCells tile l b).Canonical :=
  ⟨memory_wf_writeAll s.mem _ h.1, h.2⟩

theorem finish_canonical (s : State) (e : Issued) (c : Ctx) (h : s.Canonical) : (s.finish e c).Canonical := h

theorem raise_canonical (s : State) (e : Issued) (c : Ctx) (t : Trap) (h : s.Canonical) : (s.raise e c t).Canonical := h

theorem putCtx_canonical (s : State) (t p : Nat) (c : Ctx) (h : s.Canonical) : (s.putCtx t p c).Canonical := h

theorem updTile_canonical (s : State) (t : Nat) (f : Tile → Tile) (h : s.Canonical) : (s.updTile t f).Canonical := h

/-- A write changes no byte outside its own. -/
theorem write_sameMemoryBut (s : State) (a : Nat) (l : List Byte) (b : Bool) (h : s.Canonical) :
    s.SameMemoryBut (s.write a l b) a l.length :=
  fun x hx => memory_read_writeN_outside s.mem a l x h.1 hx

end Sys2Proof.Machine
end

