-- ==== Sys2Proof/Tests/Slice0.lean ====
section
/-! SUPPORT. Small tests: terms that the syntax refuses, words of the manual and the instructions that they are, results that the
manual's worked examples give, and for every statement a state and operands that meet its hypotheses. -/

set_option Elab.async false

open Sys2Proof Sys2Proof.Machine

namespace Sys2Proof.Tests

/-! ### A small state: one context of one launch, with a syllable at its engine -/

/-- A context whose g registers are listed. -/
def labCtx (g : Table Word64) : Ctx :=
  { Launch.plain.context 0 0 32 0 0 with
    regs := { (Launch.plain.context 0 0 32 0 0).regs with g := g }
    flights := [⟨0, 0, 8, 40, 0x7F, 0, 0, 0, 0, [], 0⟩] }

/-- The syllable of a slot of that context's first bundle, dispatched in tile cycle 40. -/
def labIssued (slot : Nat) : Issued := ⟨0, 0, { Queued.none_ with slot := slot, disp := 40, left := 40 }⟩

/-- Its tile. -/
def labTile : Tile := { Tile.reset with clock := 40 }

/-- The package in cycle 40 with that context at place 0 of tile 0. -/
def labWith (slot : Nat) (c : Ctx) (t : Tile) (h : Hub) : State :=
  { State.reset with
    cycle := 40, time := 40, tiles := [(0, t)], ctxs := [(0, c)], hub := { h with launches := [(0, Launch.plain)] }
    engine := some (labIssued slot) }

def lab (slot : Nat) (c : Ctx) : State := labWith slot c labTile Hub.reset

theorem lab_atEngine (slot : Nat) (c : Ctx) (t : Tile) (h : Hub) : (labWith slot c t h).AtEngine (labIssued slot) c := ⟨rfl, rfl⟩

/-- A valid handle at 0x2_0000 with the fields listed by their codes (Table 9.4). -/
def labHandle (l : List (Nat × Nat)) : Handle :=
  BitVec.ofNat 256 ((((0x00, 0x20000) :: (0x10, 1) :: l).map fun x => x.2 * 2 ^ (handleField x.1).1).sum)

/-- What the context at place 0 of tile 0 holds after one step, if the machine goes on. -/
def after (o : Host.Outcome State Fault Refusal) : Option Ctx :=
  match o with
  | .next t => t.ctx? 0 0
  | _ => none

/-- Whether a step goes on. -/
def goesOn (o : Host.Outcome State Fault Refusal) : Bool :=
  match o with
  | .next _ => true
  | _ => false

/-! ### Terms that are no instructions (02_bundles R36-R47 and the encoding tables) -/

theorem test_illFormed_headers : Instr.wf (.plainBundle ⟨0x40, 0, false, 0, 6⟩) = false ∧
    Instr.wf (.plainBundleWithLend ⟨0, 0, false, 0, 0⟩ 0) = false ∧ Instr.wf (.plainBundleWithLend ⟨0x20, 0, false, 0, 0⟩ 0x100) = false := by
  decide

theorem test_illFormed_control : Instr.wf (.setrrb 1) = false ∧ Instr.wf (.waitt 4 false 0) = false ∧ Instr.wf (.fencex 0) = false ∧
    Instr.wf (.slice 60 1 4) = false ∧ Instr.wf (.slice 0 1 1) = false ∧ Instr.wf (.slice 4 1 9) = false ∧ Instr.wf (.csrr 4 5) = false ∧
    Instr.wf (.csrw 4 0) = false := by
  decide

theorem test_illFormed_scalar : Instr.wf (.add ⟨4, 6, 8, false, 0, 0⟩) = false ∧ Instr.wf (.add ⟨4, 6, 9, false, 0, 3⟩) = false ∧
    Instr.wf (.and ⟨4, 6, 9, false, 0, 1⟩) = false ∧ Instr.wf (.mul ⟨4, 6, 9, false, 0, 2⟩) = false ∧
    Instr.wf (.popc ⟨4, 6, 9, false, 0, 0⟩) = false ∧ Instr.wf (.cmp ⟨0x24, 6, 9, false, 0, 1⟩) = false ∧
    Instr.wf (.cmpi ⟨0x24, 6, 0x1000, none⟩) = false ∧ Instr.wf (.shli ⟨4, 6, true, 32⟩) = false ∧
    Instr.wf (.ld ⟨4, 6, 7, 0, none⟩) = false ∧ Instr.wf (.st ⟨4, 6, 4, 0, none⟩) = false ∧ Instr.wf (.ldx ⟨4, 6, 2, 8, 0⟩) = false ∧
    Instr.wf (.stx ⟨4, 6, 4, 9, 0⟩) = false ∧ Instr.wf (.hset 1 4 0x11) = false := by
  decide

theorem test_illFormed_vector : Instr.wf (.fadd ⟨0, 1, 2, 12, 0, 3, 0, none⟩) = false ∧ Instr.wf (.fadd ⟨0, 1, 2, 12, 0, 0, 10, none⟩) = false ∧
    Instr.wf (.fadd ⟨0, 1, 2, 3, 0, 0, 0, none⟩) = false ∧ Instr.wf (.fadd ⟨0, 1, 15, 12, 0, 0, 0, none⟩) = false ∧
    Instr.wf (.fma ⟨0, 1, 15, 2, 0, 0, 0, some 64⟩) = false ∧ Instr.wf (.fsqrt ⟨0, 1, 2, 12, 0, 0, 0, none⟩) = false ∧
    Instr.wf (.fcmp ⟨0, 1, 2, 12, 1, 1, 0, none⟩) = false ∧ Instr.wf (.fclass ⟨0, 1, 12, 12, 0, 0, 1, none⟩) = false ∧
    Instr.wf (.iadd ⟨0, 1, 2, 12, 0, 0, 0, none⟩) = false ∧ Instr.wf (.iand ⟨0, 1, 2, 12, 0, 3, 1, none⟩) = false ∧
    Instr.wf (.icmp ⟨0, 1, 2, 12, 0, 3, 12, none⟩) = false ∧ Instr.wf (.vsel ⟨0, 1, 2, 3, 0, 8, 0, none⟩) = false ∧
    Instr.wf (.movl ⟨0, 1, 2, 12, 0, 0, 0, none⟩) = false ∧ Instr.wf (.vbcast ⟨0, 1, 2, 3, 0, 0, 0, none⟩) = false ∧
    Instr.wf (.cvt ⟨0, 1, 12, 12, 0, 0, 0, none⟩) = false ∧ Instr.wf (.qpack ⟨0, 1, 2, 12, 0, 6, 0, none⟩) = false := by
  decide

theorem test_illFormed_vector2 : Instr.wf (.vreds ⟨0, 1, 12, 12, 0, 0, 1, none⟩) = false ∧ Instr.wf (.vredm ⟨0, 1, 12, 12, 0, 0, 2, none⟩) = false ∧
    Instr.wf (.vscan ⟨0, 1, 12, 12, 0, 0, 1, none⟩) = false ∧ Instr.wf (.vcompress ⟨0, 1, 12, 12, 0, 0, 1, none⟩) = false ∧
    Instr.wf (.vfsh ⟨0, 1, 2, 3, 0, 3, 2, none⟩) = false ∧ Instr.wf (.vldx ⟨0, 1, 14, 12, 0, 0, 0, none⟩) = false ∧
    Instr.wf (.vstx ⟨1, 1, 15, 2, 0, 0, 0, some 4⟩) = false ∧ Instr.wf (.vrng ⟨0, 12, 12, 12, 0, 1, 0, none⟩) = false ∧
    Instr.wf (.vdrop ⟨0, 1, 2, 12, 0, 0, 0, none⟩) = false ∧ Instr.wf (.vdigestAbsorb 15 none) = false ∧
    Instr.wf (.vmovg 4 1 (some 4)) = false ∧ Instr.wf (.vmovgSetm 0 (some 4)) = false := by
  decide

theorem test_illFormed_engines : Instr.wf (.wfmt 2) = false ∧ Instr.wf (.wload 8 0 0 0) = false ∧ Instr.wf (.push 0 8 0 false) = false ∧
    Instr.wf (.pushx 0 0 2 false false) = false ∧ Instr.wf (.accz 1 false true) = false ∧ Instr.wf (.shift 0 0) = false ∧
    Instr.wf (.drain 0 7 12 0 false) = false ∧ Instr.wf (.drain 0 8 9 0 false) = false ∧ Instr.wf (.afmt 0 3 0) = false ∧
    Instr.wf (.vstat 1 4 1) = false := by
  decide

theorem test_illFormed_queue : Instr.wf (.bind 4 0 12 false) = false ∧ Instr.wf (.unbind 0 true 0) = false ∧ Instr.wf (.unbind 8 false 1) = false ∧
    Instr.wf (.sqry 4 0 4) = false ∧ Instr.wf (.cpych 4 0 0 1) = false ∧ Instr.wf (.accw 4 6 7 0 0 0 false) = false ∧
    Instr.wf (.accw 4 6 3 0 2 0 false) = false ∧ Instr.wf (.casw 5 6 0 0 0 false) = false ∧ Instr.wf (.msend 4 6 0 1 0 false) = false ∧
    Instr.wf (.mqry 4 1 1) = false ∧ Instr.wf (.barr 4 6 0 0) = false ∧ Instr.wf (.bqry 0 4 0 0) = false ∧
    Instr.wf (.mrgfin 4 6 true true) = false ∧ Instr.wf (.domeq 4 6 true 1) = false ∧ Instr.wf (.sfload 4 6 false 33) = false := by
  decide

theorem test_illFormed_steps : Instr.wf (.slotQueueLeave 1152 0 0) = false ∧ Instr.wf (.illegalOpcode 0 4 0) = false ∧
    Instr.wf (.illegalEncoding 0 0 8 0) = false := by
  decide

/-! ### Words of the manual, bit by bit from its encodings -/

/-- 02_bundles: the worked bundle: kind 010, present X Y V, stall 2, wait 0x02, scope 001; ADD; ADDI with lend byte 6; FMA with lend byte 12. -/
theorem test_decode_bundle : (decodeHeader 0x4E080220 0x000C0600).toOption = some (.plainBundleWithLend ⟨0x38, 2, false, 2, 1⟩ 0x000C0600) ∧
    (decode 1 none 0x04418700).toOption = some (.add ⟨4, 6, 7, false, 0, 0⟩) ∧
    (decode 2 (some 6) 0x409246A0).toOption = some (.addi ⟨9, 9, 0x06A0, some 6⟩) ∧
    (decode 3 (some 12) 0x10427C00).toOption = some (.fma ⟨1, 0, 9, 15, 0, 0, 0, some 12⟩) := by decide

/-- 07_issue and 08_scalar: CSRW LC0, LOOPR 0, LDI g8, LDIH g8 with lend byte 0x56, (!p3) CMP.ltu p4; FENCEX; TEMIT; LDX.w; LDACQ.d. -/
theorem test_decode_scalar : (decode 0 none 0x48500014).toOption = some (.csrw 5 0x14) ∧
    (decode 0 none 0x18000000).toOption = some (.loopr 0 0) ∧ (decode 1 none 0x5C801234).toOption = some (.ldi ⟨8, 0x1234, none⟩) ∧
    (decode 1 (some 0x56) 0x60801E26).toOption = some (.ldih ⟨8, 0x1E26, some 0x56⟩) ∧
    (decode 1 none 0x6641898E).toOption = some (.cmp ⟨0x24, 6, 9, true, 3, 2⟩) ∧ (decode 0 none 0x34000009).toOption = some (.fencex 9) ∧
    (decode 0 none 0x4C400123).toOption = some (.temit 4 0x123) ∧ (decode 1 none 0xB0421128).toOption = some (.ldx ⟨4, 8, 2, 9, 2⟩) ∧
    (decode 2 none 0xA8471800).toOption = some (.ldacq ⟨4, 28, 3, 0, none⟩) := by decide

/-- 10_vector: VLDX, VBCAST, FMS, VSTX; LOOP 1 by -8 syllables. -/
theorem test_decode_vector : (decode 3 (some 11) 0xA63BF000).toOption = some (.vldx ⟨8, 14, 15, 12, 0, 0, 0, some 11⟩) ∧
    (decode 3 (some 13) 0x78EBF000).toOption = some (.vbcast ⟨3, 10, 15, 12, 0, 0, 0, some 13⟩) ∧
    (decode 3 none 0x162E6101).toOption = some (.fms ⟨8, 11, 9, 8, 1, 0, 1, none⟩) ∧
    (decode 3 (some 11) 0xA83BE000).toOption = some (.vstx ⟨0, 14, 15, 8, 0, 0, 0, some 11⟩) ∧
    (decode 0 (some 0) 0x14103FF8).toOption = some (.loop 1 0x3FF8) := by decide

/-- 11_matrix and 12_vault: PUSH.first 0, i1, wb0; DRAIN.f32 o0, 2, i3; VSTAT g4, 5, bank; RD 1, 0, [g8+128]. -/
theorem test_decode_engines : (decode 4 none 0x10010001).toOption = some (.push 0 1 0 true) ∧
    (decode 4 none 0x242800C0).toOption = some (.drain 2 8 3 0 false) ∧ (decode 5 none 0x28A02000).toOption = some (.vstat 5 4 0) ∧
    (decode 5 none 0x10204001).toOption = some (.rd ⟨1, 0, 8, 1, none⟩) := by decide

/-- 09_streams, 13_copy to 17_sorrel: one word or more of each family of the Q slot. -/
theorem test_decode_queue : (decode 6 none 0x04C01410).toOption = some (.bind 12 5 2 false) ∧
    (decode 6 none 0x14400010).toOption = some (.sqry 4 2 0) ∧ (decode 6 none 0x21742024).toOption = some (.cpy 23 16 2 0 0 18) ∧
    (decode 6 none 0x2D368099).toOption = some (.accw 19 26 0 1 1 2 true) ∧ (decode 6 none 0x41B20000).toOption = some (.msend 27 8 0 0 0 false) ∧
    (decode 6 none 0x49C20000).toOption = some (.mland 28 8 0 0) ∧ (decode 6 none 0x60414000).toOption = some (.binit 4 5 0) ∧
    (decode 6 none 0x64418090).toOption = some (.barr 4 6 1 4) ∧ (decode 6 none 0x68418014).toOption = some (.bwait 4 6 5 false) := by decide

theorem test_decode_queue2 : (decode 6 none 0x70B10103).toOption = some (.bqry 11 4 2 3) ∧
    (decode 6 none 0x6C400180).toOption = some (.binv 4 3) ∧ (decode 6 none 0x81044000).toOption = some (.pgsub 16 17 0 false) ∧
    (decode 6 none 0x89800300).toOption = some (.pgcast 24 0 6 false false) ∧ (decode 6 none 0x8D300000).toOption = some (.mrgopen 19 false) ∧
    (decode 6 none 0x91A4C000).toOption = some (.mrg 26 19) ∧ (decode 6 none 0x95E44000).toOption = some (.mrgfin 30 17 false false) ∧
    (decode 6 none 0xA0824002).toOption = some (.sfload 8 9 false 2) ∧ (decode 6 none 0xA4B24000).toOption = some (.sfclamp 11 9) ∧
    (decode 6 none 0xB0C24000).toOption = some (.sfread 12 9) ∧ (decode 6 none 0xAC61C101).toOption = some (.sfsweep 6 7 2 1) := by decide

/-- 19_cigon, worked example: sd x5, 0(x6); gl.ord.rel pkg; sd x7, 8(x6); gl.phase 1, core; gl.push.first 0, x8, wb0; gl.drain.i32 3, x9. -/
theorem test_decode_cigon :
    (match cigonOf 0x00533023 0 with | some (.scalar (.store 3 5 6 0)) => true | _ => false) = true ∧
    (match cigonOf 0x0070202B 0 with | some (.order true 3) => true | _ => false) = true ∧
    (match cigonOf 0x00733423 0 with | some (.scalar (.store 3 7 6 8)) => true | _ => false) = true ∧
    (match cigonOf 0x0010002B 0 with | some (.phase 1 0) => true | _ => false) = true ∧
    (match cigonOf 0x8004200B 0 with | some (.push 0 true 0 8 0) => true | _ => false) = true ∧
    (match cigonOf 0x0604D18B 0 with | some (.drain 3 0 9 3 false) => true | _ => false) = true := by decide

/-- R461, R466, R467: an FENCE.I, a scope of 110, and a gl.ord.rel before a load are refused. -/
theorem test_decode_cigon_refuses : (cigonOf 0x0000100F 0).isNone = true ∧ (cigonOf 0x0600002B 0).isNone = true ∧
    cigonRefused (cigonLines 0 [0x0070202B, 0x00033283]) = [0] ∧ cigonRefused (cigonLines 0 [0x0070202B, 0x00733423]) = [] := by decide

/-- R49, R50, R26, R28, R43: what the decoder refuses, with the opcode or its detail. -/
theorem test_decode_refuses : decode 1 none 0x9C000000 = .error .opcode ∧ decode 3 none 0x00000001 = .error (.encoding 0x0A04) ∧
    decodeHeader 0x60000000 0 = .error (.encoding 0x0200) ∧ decodeHeader 0x40000000 0 = .error (.encoding 0x0202) := by decide

/-! ### Scalar: results of the manual, and what meets the hypotheses of the statements -/

/-- A context with g6 = a and g9 = b. -/
def pairCtx (a b : Word64) : Ctx := labCtx [(6, a), (9, b)]

/-- That context with g6 poisoned. -/
def poisonCtx : Ctx := { pairCtx 1 2 with regs := { (pairCtx 1 2).regs with gPoison := 0x40 } }

/-- A g register as a syllable dispatched in tile cycle d reads it. -/
def gAt (c : Option Ctx) (d n : Nat) : Option Word64 := c.map fun c => (c.regsAt d).g.getD n 0

/-- R186: 1 plus the greatest 64-bit number wraps, and clamps under .sat with SATURATED. -/
theorem test_add : gAt (after (exec (.add ⟨4, 6, 9, false, 0, 0⟩) (lab 1 (pairCtx 0xFFFFFFFFFFFFFFFF 1)))) 41 4 = some 0 ∧
    gAt (after (exec (.add ⟨4, 6, 9, false, 0, 2⟩) (lab 1 (pairCtx 0x7FFFFFFFFFFFFFFF 1)))) 41 4 = some 0x7FFFFFFFFFFFFFFF := by decide +kernel

/-- R187: MULH of two negative numbers; R188: a division by zero and the signed overflow. -/
theorem test_multiplyDivide : gAt (after (exec (.mulh ⟨4, 6, 9, false, 0, 0⟩) (lab 1 (pairCtx 0xFFFFFFFFFFFFFFFF 0xFFFFFFFFFFFFFFFF)))) 43 4 = some 0 ∧
    gAt (after (exec (.div ⟨4, 6, 9, false, 0, 0⟩) (lab 1 (pairCtx 7 0)))) 60 4 = some 0xFFFFFFFFFFFFFFFF ∧
    gAt (after (exec (.div ⟨4, 6, 9, false, 0, 0⟩) (lab 1 (pairCtx 0x8000000000000000 0xFFFFFFFFFFFFFFFF)))) 60 4 = some 0x8000000000000000 := by decide +kernel

/-- 08_scalar, worked example: LDI 0x1234 then LDIH 0x15_9E26 leave 0x4_8D15_9E26 in g8. -/
theorem test_ldih : gAt (after (exec (.ldih ⟨8, 0x1E26, some 0x56⟩) (lab 1 (labCtx [(8, 0x1234)])))) 41 8 = some 0x48D159E26 := by decide +kernel

/-- R189: SHLI.w by 31 zero-extends and SRA of a negative number keeps its sign. -/
theorem test_shift : gAt (after (exec (.shli ⟨4, 6, true, 31⟩) (lab 1 (pairCtx 3 0)))) 41 4 = some 0x80000000 ∧
    gAt (after (exec (.sra ⟨4, 6, 9, false, 0, 0⟩) (lab 1 (pairCtx 0x8000000000000000 63)))) 41 4 = some 0xFFFFFFFFFFFFFFFF := by decide +kernel

/-- R190, R192: BFI drops the bits beyond 63; CLZ.w of zero is 32. -/
theorem test_fields : gAt (after (exec (.bfi ⟨4, 6, 9, false, 0, 0⟩) (lab 1 (pairCtx 0xFF 0x73C)))) 41 4 = some 0xF000000000000000 ∧
    gAt (after (exec (.clz ⟨4, 6, 0, false, 0, 1⟩) (lab 1 (pairCtx 0 0)))) 41 4 = some 32 := by decide +kernel

/-- R196: an address that is not a multiple of the size raises SRAM_RANGE with detail 0x0800. -/
theorem test_ld_misaligned : ((after (exec (.ld ⟨4, 6, 3, 0, none⟩) (lab 1 (pairCtx 4 0)))).bind (·.stopping)).map (·.trap) =
    some { cause := 0x04, detail := 0x0800, address := 4 } := by decide +kernel

/-- R196, R197: a byte stored and its bytes read back; the load sees it four cycles after dispatch. -/
theorem test_st_ld : (match exec (.st ⟨9, 6, 1, 0, none⟩) (lab 1 (pairCtx 0x100 0xABCD)) with
    | .next t => gAt (after (exec (.ld ⟨4, 6, 4, 1, none⟩) { t with engine := some { labIssued 1 with q := { (labIssued 1).q with seq := 1 } } })) 44 4
    | _ => none) = some 0xFFFFFFFFFFFFFFAB := by decide +kernel

/-- Pairs of values that the register statements tell apart. -/
def pairs : List (Word64 × Word64) :=
  [(1, 2), (7, 0), (0x7FFFFFFFFFFFFFFF, 1), (0x8000000000000000, 0xFFFFFFFFFFFFFFFF), (0x80000000, 0xFFFFFFFF), (5, 0x100000000), (3, 63)]

/-- What the register statements ask of a state: sources that are clean, under a true guard. -/
theorem witness_registers : (lab 1 (pairCtx 1 2)).AtEngine (labIssued 1) (pairCtx 1 2) ∧ (pairCtx 1 2).CleanG (labIssued 1).q 6 ∧
    (pairCtx 1 2).CleanG (labIssued 1).q 9 ∧ (pairCtx 1 2).CleanG (labIssued 1).q 4 ∧
    (pairs.all fun p => guardHolds (pairCtx p.1 p.2) (labIssued 1).q 0 false && !(pairCtx p.1 p.2).gPoisoned (labIssued 1).q 6 &&
      !(pairCtx p.1 p.2).gPoisoned (labIssued 1).q 9 && (pairCtx p.1 p.2).gRaw (labIssued 1).q 6 == p.1 &&
      (pairCtx p.1 p.2).gRaw (labIssued 1).q 9 == p.2) = true := by
  refine ⟨⟨rfl, rfl⟩, ?_, ?_, ?_, by decide +kernel⟩ <;> unfold Ctx.CleanG <;> decide +kernel

/-- ArithmeticAndLogicResults: values at the edges of the three clauses of .sat. -/
theorem witness_saturation : (0x7FFFFFFFFFFFFFFF : Word64).toInt + (1 : Word64).toInt = 2 ^ 63 ∧
    (0x8000000000000000 : Word64).toInt - (1 : Word64).toInt < -(2 ^ 63) ∧ (0x8000000000000000 : Word64).toInt + (0 : Word64).toInt = -(2 ^ 63) := by decide +kernel

/-- MultiplyAndDivideResults: a zero divisor, the overflow and a plain division, in both widths. -/
theorem witness_division : (0x8000000000000000 : Word64) = BitVec.intMin 64 ∧ (0xFFFFFFFFFFFFFFFF : Word64) = -1 ∧
    ((0x100000000 : Word64).setWidth 32 : BitVec 32) = 0 ∧ (0x100000000 : Word64) ≠ 0 ∧
    ((0x80000000 : Word64).setWidth 32 : BitVec 32) = BitVec.intMin 32 ∧ ((0xFFFFFFFF : Word64).setWidth 32 : BitVec 32) = -1 := by decide +kernel

/-- GuardsAndPoison, CompareSelectResults: a false guard, a poisoned first and a poisoned second source. -/
theorem witness_guards : guardHolds (pairCtx 1 2) (labIssued 1).q 0 true = false ∧ r3Of (.add ⟨4, 6, 9, false, 0, 0⟩) = some ⟨4, 6, 9, false, 0, 0⟩ ∧
    (lab 1 poisonCtx).AtEngine (labIssued 1) poisonCtx ∧ ¬ poisonCtx.CleanG (labIssued 1).q 6 ∧ poisonCtx.CleanG (labIssued 1).q 9 :=
  ⟨rfl, rfl, ⟨rfl, rfl⟩, by unfold Ctx.CleanG; decide +kernel, by unfold Ctx.CleanG; decide +kernel⟩

/-- A context with handle 3 holding a field, handle 4 poisoned. -/
def handleCtx : Ctx := { pairCtx 0x10000 2 with regs := { (pairCtx 0x10000 2).regs with h := [(3, 0x1234)], hPoison := 0x10 } }

/-- HandleFieldResults: a clean and a poisoned handle, a clean and a poisoned register, and a value too wide for its field. -/
theorem witness_handles : (lab 1 handleCtx).AtEngine (labIssued 1) handleCtx ∧ (handleCtx.regsAt 40).hPoison.getLsbD 3 = false ∧
    (handleCtx.regsAt 40).hPoison.getLsbD 4 = true ∧ handleCtx.CleanG (labIssued 1).q 6 ∧ ¬ poisonCtx.CleanG (labIssued 1).q 6 ∧
    ¬ (handleCtx.gRaw (labIssued 1).q 6).toNat < 2 ^ (handleField 4).2 :=
  ⟨⟨rfl, rfl⟩, by decide +kernel, by decide +kernel, by unfold Ctx.CleanG; decide +kernel, by unfold Ctx.CleanG; decide +kernel, by decide +kernel⟩

/-- LoadResults, StoreResults: an address at the last word below the reserved window, and one in a sync region. -/
theorem witness_access : (lab 1 (pairCtx 0x0FAFF8 2)).AtEngine (labIssued 1) (pairCtx 0x0FAFF8 2) ∧
    ScAllowed (lab 1 (pairCtx 0x0FAFF8 2)) (labIssued 1) (pairCtx 0x0FAFF8 2) 0x0FAFF8 8 false false ∧
    ScAllowed (lab 1 (pairCtx 0x0FAFF8 2)) (labIssued 1) (pairCtx 0x0FAFF8 2) 0x0FAFF8 8 true true ∧
    (lab 1 (pairCtx 0x0FAFF8 2)).Canonical ∧ (pairCtx 0x0FAFF8 2).CleanG (labIssued 1).q 6 ∧ (pairCtx 0x0FAFF8 2).CleanG (labIssued 1).q 0 :=
  ⟨⟨rfl, rfl⟩, ⟨by decide +kernel, by decide +kernel, by decide +kernel⟩, ⟨by decide +kernel, by decide +kernel, by decide +kernel⟩, ⟨rfl, rfl⟩, by unfold Ctx.CleanG; decide +kernel, by unfold Ctx.CleanG; decide +kernel⟩

/-- A launch that declares one entry: its context 0 reads granule 4 on path SC. -/
def checkedLaunch : Launch := { Launch.plain with sets := some [⟨false, 0, 0, false, false, 4, 1⟩] }

/-- ScalarAccessTraps: addresses of each clause, at its edge; a granule that no entry declares; a poisoned base. -/
theorem witness_accessTraps : (0x0FAFF9 : Nat) % 8 ≠ 0 ∧ (0x100000 : Nat) < 0x0FFFF8 + 16 ∧ (0x0FB000 : Nat) < 0x0FAFF8 + 16 ∧ 0x0FAFF8 + 16 ≤ 0x100000 ∧
    (State.setCheck { lab 1 (pairCtx 0x100 2) with hub := { Hub.reset with launches := [(0, checkedLaunch)] } } 0 (pairCtx 0x200 2) 0 0 true false
      false false 0x200 8).isSome = true ∧
    ScAllowed (lab 1 poisonCtx) (labIssued 1) poisonCtx 0 8 false false ∧ ¬ poisonCtx.CleanG (labIssued 1).q 6 :=
  ⟨by decide +kernel, by decide +kernel, by decide +kernel, by decide +kernel, by decide +kernel, ⟨by decide +kernel, by decide +kernel, by decide +kernel⟩, by unfold Ctx.CleanG; decide +kernel⟩

/-- ScalarFrames: a register syllable and a store that go on. -/
theorem witness_frames : registerScalar (.add ⟨4, 6, 9, false, 0, 0⟩) = true ∧
    goesOn (exec (.add ⟨4, 6, 9, false, 0, 0⟩) (lab 1 (pairCtx 1 2))) = true ∧
    goesOn (exec (.st ⟨9, 6, 3, 0, none⟩) (lab 1 (pairCtx 0x100 2))) = true := by decide +kernel

/-! ### Control -/

/-- The small package with bundle starts at 0 and 0xFFFC. -/
def labStarts (c : Ctx) : State := { lab 0 c with starts := [codeKey 0 0, codeKey 0 0xFFFC] }

/-- A context with CSRs. -/
def csrCtx (l : List (Nat × Word64)) : Ctx :=
  let c := pairCtx 0xFFFC 0x10000
  { c with regs := { c.regs with csr := l.foldl (fun t x => t.set x.1 x.2 0) c.regs.csr } }

/-- BranchResults: a target at the last start, one below 0, one at 0x1_0000, one that is no start; both guards; clean and poisoned registers. -/
theorem witness_branches : (labStarts (pairCtx 0xFFFC 0x10000)).AtEngine (labIssued 0) (pairCtx 0xFFFC 0x10000) ∧
    (labStarts (pairCtx 0xFFFC 0x10000)).Target 0 0xFFFC ∧ 4 * (0x3FFF : BitVec 20).toInt = 0xFFFC ∧ 4 * (0x4000 : BitVec 20).toInt = 0x10000 ∧
    4 * (0xFFFFF : BitVec 20).toInt < 0 ∧ (labStarts (pairCtx 0xFFFC 0x10000)).startBit 0 4 = false ∧
    guardHolds (pairCtx 0xFFFC 0x10000) (labIssued 0).q 0 false = true ∧ guardHolds (pairCtx 0xFFFC 0x10000) (labIssued 0).q 0 true = false ∧
    (pairCtx 0xFFFC 0x10000).CleanG (labIssued 0).q 6 ∧ (pairCtx 0xFFFC 0x10000).gRaw (labIssued 0).q 6 = 0xFFFC ∧
    (pairCtx 0xFFFC 0x10000).gRaw (labIssued 0).q 9 = 0x10000 ∧ ¬ poisonCtx.CleanG (labIssued 0).q 6 ∧
    (poisonCtx.gRaw (labIssued 0).q 6).toNat % 4 ≠ 0 := by
  refine ⟨⟨rfl, rfl⟩, ?_⟩
  unfold State.Target Ctx.CleanG
  decide +kernel

/-- A JMP in a poisoned register that holds a bundle start. -/
theorem witness_jmp_poisoned : (labStarts { poisonCtx with regs := { poisonCtx.regs with g := [] } }).Target 0 0 ∧
    ¬ ({ poisonCtx with regs := { poisonCtx.regs with g := [] } } : Ctx).CleanG (labIssued 0).q 6 := by
  unfold State.Target Ctx.CleanG
  decide +kernel

/-- R157: LOOP with 2 left branches back and counts to 1; with 1 left it falls through and clears the mask bit. -/
theorem test_loop : (after (exec (.loop 0 0) (labStarts (csrCtx [(0x14, 2)])))).map (fun c => (c.pc, c.regs.csr.getD 0x14 0)) = some (0, 1) ∧
    (after (exec (.loop 0 0) (labStarts (csrCtx [(0x14, 1), (0x10, 0x100)])))).map (fun c => (c.regs.csr.getD 0x14 0, c.statusBit 8)) =
      some (0, false) := by decide +kernel

/-- LoopResults: more than one iteration left and at most one; a target that is a start, also past the top of code, and one that is none. -/
theorem witness_loops : (labStarts (csrCtx [(0x14, 2)])).AtEngine (labIssued 0) (csrCtx [(0x14, 2)]) ∧
    1 < ((csrCtx [(0x14, 2)]).regs.csr.getD 0x14 0).toNat ∧ ((csrCtx []).regs.csr.getD 0x14 0).toNat ≤ 1 ∧
    (labStarts (csrCtx [])).Target 0 0 ∧ ¬ (labStarts (csrCtx [])).Target 0 4 ∧
    ((0xFFFC : Nat) : Int) = (0 + 4 * (0x3FFF : BitVec 14).toInt) % 0x10000 ∧ guardHolds (csrCtx []) (labIssued 0).q 0 true = false := by
  refine ⟨⟨rfl, rfl⟩, ?_⟩
  unfold State.Target
  decide +kernel

/-- A context whose token 1 waits for 8 bytes, and whose token 2 carries an error that no trap has reported. -/
def tokenCtx : Ctx := { pairCtx 40 41 with tokens := [(1, { remaining := 8, expected := 8 }), (2, { error := true, cause := 0x0D, detail := 1 })] }

/-- WaitResults: tokens that are complete and one that is not; an error to report; cycles that have come and that have not. -/
theorem witness_waits : (lab 0 tokenCtx).AtEngine (labIssued 0) tokenCtx ∧
    tokenCtx.raises 40 0 (maskTokens 3) = [] ∧ tokenCtx.raises 40 0 (maskTokens 4) = [2] ∧
    (((tokenCtx.token 0).remaining == 0 || (tokenCtx.token 0).error) && decide ((tokenCtx.token 0).doneFrom ≤ 40)) = true ∧
    (((tokenCtx.token 1).remaining == 0 || (tokenCtx.token 1).error) && decide ((tokenCtx.token 1).doneFrom ≤ 40)) = false ∧
    (tokenCtx.gRaw (labIssued 0).q 6).toNat ≤ (lab 0 tokenCtx).cycle.toNat ∧
    (lab 0 tokenCtx).cycle.toNat < (tokenCtx.gRaw (labIssued 0).q 9).toNat ∧ tokenCtx.CleanG (labIssued 0).q 6 := by
  refine ⟨⟨rfl, rfl⟩, ?_⟩
  unfold Ctx.CleanG
  decide +kernel

/-- Two contexts whose launch declares, for group 1, a granule that both write. -/
def conflictLaunch : Launch := { Launch.plain with contexts := 2, live := [(0, 0), (0, 1)], sets := some [⟨false, 1, 1, true, false, 4, 1⟩] }

def labConflict : State :=
  { lab 0 (pairCtx 1 2) with
    ctxs := [(0, pairCtx 1 2), (1, { pairCtx 1 2 with num := 1, group := 1 })]
    hub := { Hub.reset with launches := [(0, conflictLaunch)] } }

/-- A context with a bundle of PHASE 1 at its head and a store of an earlier bundle still in its X queue. -/
def phaseCtx : Ctx := { pairCtx 0x100 2 with seq := 1, queues := [(1, [{ (labIssued 1).q with word := encode (.st ⟨9, 6, 1, 0, none⟩) }])] }

def labPhase : State :=
  { lab 0 phaseCtx with
    code := Memory.writeN [] (codeKey 0 0) (leBytes 4 0x10000000 ++ leBytes 4 (encode (.phase 1)).toNat), starts := [codeKey 0 0, codeKey 0 8] }

/-- OrderResults: a bundle with PHASE behind an older store. -/
theorem witness_phase : labPhase.AtEngine (labIssued 0) phaseCtx ∧ (labPhase.bundleAt 0 phaseCtx.pc).control = some (.phase 1) ∧
    phaseCtx.cigon = none ∧ phaseCtx.remainder = 0 ∧
    labPhase.unpublished 0 phaseCtx phaseCtx.seq (headerOf (labPhase.bundleAt 0 phaseCtx.pc).word).scope.toNat = true := by
  refine ⟨⟨rfl, rfl⟩, ?_⟩
  decide +kernel

/-- OrderResults: a group without a conflict, and one with. -/
theorem witness_orders : (lab 0 (pairCtx 1 2)).AtEngine (labIssued 0) (pairCtx 1 2) ∧ (lab 0 (pairCtx 1 2)).groupConflict 0 (pairCtx 1 2) 0 = none ∧
    labConflict.AtEngine (labIssued 0) (pairCtx 1 2) ∧ (labConflict.groupConflict 0 (pairCtx 1 2) 1).isSome = true :=
  ⟨⟨rfl, rfl⟩, by decide +kernel, ⟨rfl, rfl⟩, by decide +kernel⟩

/-- A context in its handler, whose record at 0x0F_AFC0 names the bundle at 0xFFFC; its ERET state names the same. -/
def handlerCtx : Ctx := { csrCtx [(0x10, 2), (0x13, 0x0FAFC0)] with eret := some ⟨0xFFFC, 0, [1], 5, [], []⟩ }

def labHandler : State := { labStarts handlerCtx with mem := Memory.writeN [] (sramKey 0 0x0FAFC8) [0xFC, 0xFF] }

/-- TrapAndReturnResults: a good TRAPREC at its last place, one that is misaligned, one beyond; a record without and with poison; the bundle named at
entry, and another. -/
theorem witness_returns : labHandler.AtEngine (labIssued 0) handlerCtx ∧ handlerCtx.Ordered ∧ handlerCtx.stopping = none ∧
    (0x0FAFC0 : Nat) % 64 = 0 ∧ (handlerCtx.regs.csr.getD 0x13 0).toNat = 0x0FAFC0 ∧
    labHandler.Target 0 (leNat (labHandler.read (sramKey 0 0x0FAFC0 + 8) 2)) ∧ handlerCtx.eret.map (·.addr) = some 0xFFFC ∧
    ScPoison labHandler (labIssued 0) handlerCtx 0x0FAFC0 16 = false ∧
    ScPoison { labHandler with poison := [sramKey 0 0x0FAFC0 / 64] } (labIssued 0) handlerCtx 0x0FAFC0 16 = true ∧
    ((csrCtx [(0x13, 0x0FAFE0)]).regs.csr.getD 0x13 0).toNat % 64 ≠ 0 ∧ 0x0FAFC0 < ((csrCtx [(0x13, 0x0FB000)]).regs.csr.getD 0x13 0).toNat := by
  refine ⟨⟨rfl, rfl⟩, ?_⟩
  unfold Ctx.Ordered RegFile.Ordered State.Target
  decide +kernel

/-- R168: a CSRW to LC1 sets bit 1 of the active-loop mask; R170: PLOG AND of p0 and p1. -/
theorem test_csrw : (after (exec (.csrw 6 0x15) (lab 0 (pairCtx 3 0)))).map (fun c => (c.regs.csr.getD 0x15 0, c.statusBit 9)) = some (3, true) ∧
    (after (exec (.plog 2 0 1 8) (lab 0 (pairCtx 3 0)))).map (fun c => (c.regsAt 41).p.getLsbD 2) = some false := by decide +kernel

/-- CsrResults: clean and poisoned sources; a tile whose tracing takes TEMIT, with room in its FIFO. -/
theorem witness_csrs : (lab 0 (csrCtx [(0x80, 1)])).AtEngine (labIssued 0) (csrCtx [(0x80, 1)]) ∧ (csrCtx [(0x80, 1)]).CleanG (labIssued 0).q 6 ∧
    ¬ poisonCtx.CleanG (labIssued 0).q 6 ∧ (csrCtx [(0x80, 1)]).traces 0 = true ∧ (csrCtx []).traces 0 = false ∧
    ((lab 0 (csrCtx [])).tile 0).trace.length < 256 := by
  refine ⟨⟨rfl, rfl⟩, ?_⟩
  unfold Ctx.CleanG
  decide +kernel

/-- R172: SHAPE asks 65 columns of a tile with 64, and the rest by default. -/
theorem test_shape : (after (exec (.shape 6 1 0) (lab 0 (pairCtx 0x410000 0)))).map
    (fun c => ((c.regsAt 41).z.getD 0 0, (c.regsAt 41).p.getLsbD 1)) = some (0x0040008000400040, false) := by decide +kernel

/-- PredicateAndShapeResults: clean registers, a mask that names p31 and not p1, the revalidation mark clear and set, a request at the capability. -/
theorem witness_shapes : (lab 0 (pairCtx 0x400000 0x80000000)).AtEngine (labIssued 0) (pairCtx 0x400000 0x80000000) ∧
    (pairCtx 0x400000 0x80000000).Ordered ∧ (pairCtx 0x400000 0x80000000).CleanG (labIssued 0).q 6 ∧
    ((pairCtx 0x400000 0x80000000).gRaw (labIssued 0).q 9).getLsbD 31 = true ∧ ((pairCtx 0x400000 0x80000000).gRaw (labIssued 0).q 9).getLsbD 1 = false ∧
    ((lab 0 (pairCtx 1 2)).tile 0).columns < 2 ^ 16 ∧ (csrCtx []).statusBit 5 = false ∧ (csrCtx [(0x10, 0x20)]).statusBit 5 = true := by
  refine ⟨⟨rfl, rfl⟩, ?_⟩
  unfold Ctx.Ordered RegFile.Ordered Ctx.CleanG
  decide +kernel

/-- A launch with two rounds of one slice for each tile, and a variant for bands A and B. -/
def slicedLaunch : Launch := { Launch.plain with levels := [⟨2, 64, 0⟩, ⟨18, 1, 1⟩], variants := [some 0, some 64, none], deterministic := true }

def labSliced (c : Ctx) : State := { lab 0 c with hub := { Hub.reset with launches := [(0, slicedLaunch)] } }

/-- SliceVariantAndExtensionResults: a slice left and none; a band pending with a variant, and none pending; no microcode, and an entry of a trusted
object. -/
theorem witness_slices : (labSliced (csrCtx [])).AtEngine (labIssued 0) (csrCtx []) ∧
    (((labSliced (csrCtx [])).launchOf (csrCtx [])).bind fun l => l.nextSlice 0 0 1).isSome = true ∧
    ((labSliced (csrCtx [])).launchOf (csrCtx [])).bind (fun l => l.nextSlice 0 0 2) = none ∧
    (csrCtx [(0x40, 0x200)]).bandPending = true ∧ (csrCtx []).bandPending = false ∧
    (((labSliced (csrCtx [])).launchOf (csrCtx [])).bind fun l => (l.variants[0]?).join) = some 0 ∧
    (lab 0 (csrCtx [])).microEntry (csrCtx []) 0 1 = none ∧
    (State.microEntry { lab 0 (csrCtx []) with hub := { Hub.reset with entries := [(0, 1, [0])], launches := [(0, { Launch.plain with trusted := true })] } }
      (csrCtx []) 0 1).isSome = true := by
  refine ⟨⟨rfl, rfl⟩, ?_⟩
  decide +kernel

/-! ### Vectors -/

/-- The handle of the worked example of 09_streams: base 0x2_0000, f32, rows of 400 bytes, 48 of them. -/
def exampleHandle : Handle := 0x01000000000000000000000000000001C0000000000030006440000000020000#256

/-- A port with that handle, bound at its first row. -/
def examplePort : Port := ⟨exampleHandle, false, 0, 0, false, 8, 0, 0⟩

/-- A V syllable whose bundle gave it the first row of output port 8. -/
def rowIssued : Issued := { labIssued 3 with q := { (labIssued 3).q with rows := [⟨8, some examplePort, 0, 0⟩] } }

/-- A context with latch a1 all ones in its first lanes, mask m1 with lane 3 off. -/
def vectorCtx : Ctx :=
  let c := pairCtx 0x100 2
  { c with regs := { c.regs with v := [(1, 0x3F8000003F800000), (5, 0x3F8000003F800000)], m := [(0, BitVec.allOnes 64), (1, 0xFFFFFFFFFFFFFFF7)] } }

def floatOp : VOp := ⟨0, 9, 8, 12, 0, 0, 0, none⟩
def intOp (md : BitVec 4) : VOp := ⟨0, 9, 8, 12, 1, 3, md, none⟩

/-- R238: 1.0 + 0.0 in lane 0; R240: IADD of the same patterns. -/
theorem test_lanes : (after (exec (.fadd floatOp) (lab 3 vectorCtx))).map (fun c => elemAt 32 ((c.regsAt 44).v.getD 0 0).toNat 0) = some 0x3F800000 ∧
    (after (exec (.iadd { intOp 0 with b := 9 }) (lab 3 vectorCtx))).map (fun c => elemAt 32 ((c.regsAt 42).v.getD 0 0).toNat 1) =
      some 0x7F000000 := by decide +kernel

/-- FloatLaneResults, VectorResultIsWritten, ReductionResults, CompareAndMoveLaneResults: a floating operation whose sources are clear. -/
theorem witness_floatLanes : (lab 3 vectorCtx).AtEngine (labIssued 3) vectorCtx ∧
    (vEnv (lab 3 vectorCtx) (labIssued 3) vectorCtx floatOp 0 0 0 false).Clear ∧ floatFmt 0 = some fp32 ∧ floatOp.dst.toNat < 12 := by
  refine ⟨⟨rfl, rfl⟩, ?_⟩
  unfold VEnv.Clear
  decide +kernel

/-- IntegerLaneResults, ReductionResults, CompareAndMoveLaneResults: an integer operation under a mask, wrapping and saturating. -/
theorem witness_intLanes : (lab 3 vectorCtx).AtEngine (labIssued 3) vectorCtx ∧
    (vEnv (lab 3 vectorCtx) (labIssued 3) vectorCtx (intOp 0) 3 3 3 false).Clear ∧
    (vEnv (lab 3 vectorCtx) (labIssued 3) vectorCtx (intOp 1) 3 3 3 false).Clear ∧ floatFmt 3 = none ∧ (intOp 0).isS32 = true ∧
    (intOp 1).md.getLsbD 0 = true ∧ (intOp 10).md.toNat / 2 < 6 ∧ (intOp 14).md.toNat / 2 < 8 ∧ (intOp 0).mask ≠ 0 := by
  refine ⟨⟨rfl, rfl⟩, ?_⟩
  unfold VEnv.Clear
  decide +kernel

/-- CompareAndMoveLaneResults: MOVL from each source, VMOVG of a latch and of a broadcast register, VMOVG.setm. -/
theorem witness_moves : (lab 3 vectorCtx).AtEngine (labIssued 3) vectorCtx ∧
    firstByStage (vEnv (lab 3 vectorCtx) (labIssued 3) vectorCtx ⟨0, 9, 12, 12, 0, 0, 0, none⟩ 0 0 0 false).rowChecks = none ∧
    firstByStage (vsrc (lab 3 vectorCtx) (labIssued 3) vectorCtx 15 0 0 (some 6)).traps = none ∧
    firstByStage (vsrc (lab 3 vectorCtx) (labIssued 3) vectorCtx 9 0 0 none).traps = none ∧ vectorCtx.CleanG (labIssued 3).q 6 := by
  refine ⟨⟨rfl, rfl⟩, ?_⟩
  unfold Ctx.CleanG
  decide +kernel

/-- ConversionResults: CVT from f32 to a narrow type, QPACK, VRNG and VDROP with clear sources. -/
theorem witness_conversions : (lab 3 vectorCtx).AtEngine (labIssued 3) vectorCtx ∧
    (vEnv (lab 3 vectorCtx) (labIssued 3) vectorCtx ⟨0, 9, 0, 12, 0, 6, 0, none⟩ 0 6 6 true).Clear ∧
    (vEnv (lab 3 vectorCtx) (labIssued 3) vectorCtx ⟨0, 12, 12, 12, 0, 9, 0, none⟩ 9 9 9 false).Clear ∧
    (vEnv (lab 3 vectorCtx) (labIssued 3) vectorCtx ⟨0, 9, 8, 15, 0, 0, 0, some 6⟩ 0 0 0 false).Clear ∧ floatFmt 0 = some fp32 := by
  refine ⟨⟨rfl, rfl⟩, ?_⟩
  unfold VEnv.Clear
  decide +kernel

/-- GatherScatterResults: a gather to a latch, one to a row of an output port, and a scatter, none of which traps. -/
theorem witness_gather : (lab 3 vectorCtx).AtEngine (labIssued 3) vectorCtx ∧ (lab 3 vectorCtx).Canonical ∧
    (let v := vEnv (lab 3 vectorCtx) (labIssued 3) vectorCtx ⟨0, 8, 15, 12, 0, 0, 0, some 6⟩ 3 0 0 false
     firstByStage (v.rowChecks ++ v.laneTraps false ++ [v.a.poison, v.b.poison]) = none) ∧
    (let v := vEnv (lab 3 vectorCtx) (labIssued 3) vectorCtx ⟨0, 8, 15, 8, 0, 0, 0, some 6⟩ 3 0 0 false
     firstByStage (v.a.traps ++ v.b.traps ++ v.d.traps ++ v.laneTraps true ++ [v.a.poison, v.b.poison]) = none) := by
  refine ⟨⟨rfl, rfl⟩, ⟨rfl, rfl⟩, ?_⟩
  decide +kernel

/-- GatherScatterResults, VectorResultIsWritten: an output port with its row. -/
theorem witness_vectorRow : State.AtEngine { lab 3 vectorCtx with engine := some rowIssued } rowIssued vectorCtx ∧
    12 ≤ (12 : BitVec 4).toNat ∧ (rowIssued.q.rowOn 8).bound = some examplePort ∧ ((labIssued 3).q.rowOn 8).bound = none ∧
    (let v := vEnv { lab 3 vectorCtx with engine := some rowIssued } rowIssued vectorCtx ⟨12, 8, 15, 12, 0, 0, 0, some 6⟩ 3 0 0 false
     firstByStage (v.rowChecks ++ v.laneTraps false ++ [v.a.poison, v.b.poison]) = none) := by
  refine ⟨⟨rfl, rfl⟩, ?_⟩
  decide +kernel

/-- DigestResults: a clear source and a latch destination; DigestIsSha256: one vector of 256 bytes. -/
theorem witness_digest : (lab 3 vectorCtx).AtEngine (labIssued 3) vectorCtx ∧
    (let x := vsrc (lab 3 vectorCtx) (labIssued 3) vectorCtx 9 0 0 none
     firstByStage (x.traps ++ [x.poison]) = none) ∧
    firstByStage (vEnv (lab 3 vectorCtx) (labIssued 3) vectorCtx ⟨0, 12, 12, 12, 0, 0, 0, none⟩ 0 0 0 false).rowChecks = none ∧
    (∀ x ∈ [List.replicate 256 (0 : Byte)], x.length = 256) ∧ [List.replicate 256 (0 : Byte)].length < 2 ^ 48 := by
  refine ⟨⟨rfl, rfl⟩, ?_⟩
  decide +kernel

/-- FIPS 180-4: the digest of the three bytes 0x61, 0x62, 0x63 begins BA 78 16 BF. -/
theorem test_sha256 : (sha256 [0x61, 0x62, 0x63]).take 4 = [0xBA, 0x78, 0x16, 0xBF] := by decide +kernel

/-- 05_numbers, worked examples of conversions to E4M3: 768.0 saturates to 448, and 2^-11 rounds to zero. -/
theorem test_convert : (satType 6 0 0 false (readNum 0 0x44400000)).1 = 0x7E ∧ (satType 6 0 0 false (readNum 0 0x3A000000)).1 = 0 ∧
    (satType 6 0 0 false (readNum 0 0x7FC00001)).1 = 0x7F := by decide +kernel

/-! ### The matrix array and the vault -/

/-- A tile whose array belongs to context 0 of launch 0. -/
def arrayTile : Tile := { labTile with array := { MatrixArray.empty with owner := some (0, 0), acc := [(0, 5)], wb0 := [(0, 1)] } }

/-- A port over a tensor of 128 columns, or of n, and 4 rows of a type. -/
def typedPort (type n : Nat) : Port := ⟨labHandle [(0x02, type), (0x04, 1), (0x05, n), (0x06, 4), (0x08, 256)], false, 0, 0, false, 8, 0, 0⟩

/-- An M syllable with rows on an input port, an output port and a scale port. -/
def arrayIssued (p : Port) : Issued :=
  { labIssued 4 with q := { (labIssued 4).q with rows := [⟨0, some p, 0, 0⟩, ⟨8, some (typedPort 0 64), 0, 0⟩, ⟨3, some (typedPort 0 64), 1, 0⟩] } }

def labArray (c : Ctx) (p : Port) : State := { labWith 4 c arrayTile Hub.reset with engine := some (arrayIssued p) }

/-- A context that holds a handle for PUSHX in h1 and one for PUSHG in h2, with UNFOLD 1x1. -/
def sparseCtx : Ctx :=
  let c := csrCtx [(0x5D, 0x0004010100000101), (0x5C, 0)]
  { c with regs := { c.regs with
      h := [(1, labHandle [(0x02, 5), (0x04, 3), (0x05, 128), (0x06, 4), (0x07, 4), (0x08, 1), (0x09, 128), (0x0A, 512), (0x0B, 2048)]),
        (2, labHandle [(0x02, 5), (0x03, 5), (0x04, 1), (0x05, 128), (0x06, 4), (0x0E, 0x30000)])] } }

/-- R262: 3 times the weight +1 added to 5 in column 0 (11_matrix). -/
theorem test_push : (match exec (.push 0 0 0 false) { labArray (pairCtx 1 2) (typedPort 5 128) with mem := [(sramKey 0 0x20000, 3)] } with
    | .next t => elemAt 32 ((t.tile 0).array.row 0).toNat 0
    | _ => 0) = 8 := by decide +kernel

/-- ArrayStateResults, EngineRefusals: the owner, without and with the revalidation mark; stream numbers on both sides of 4. -/
theorem witness_array : (labArray (pairCtx 1 2) (typedPort 5 128)).AtEngine (arrayIssued (typedPort 5 128)) (pairCtx 1 2) ∧
    (labArray (pairCtx 1 2) (typedPort 5 128)).OwnsArray (arrayIssued (typedPort 5 128)) (pairCtx 1 2) ∧ arrayTile.array.Ordered ∧
    (3 : BitVec 4).toNat < 4 ∧ (4 : BitVec 4).toNat < 8 ∧ (csrCtx [(0x10, 0x20)]).statusBit 5 = true ∧ (csrCtx [(0x10, 0x20)]).Ordered ∧
    (labArray (csrCtx [(0x10, 0x20)]) (typedPort 5 128)).standing 0 (csrCtx [(0x10, 0x20)]) = .mine := by
  refine ⟨⟨rfl, rfl⟩, ?_⟩
  unfold State.OwnsArray MatrixArray.Ordered Ctx.Ordered RegFile.Ordered
  decide +kernel

/-- EngineRefusals: an array owned by another context of the launch, and one whose owner's image has no place to go. -/
theorem witness_arrayOwners : (labWith 4 (pairCtx 1 2) { arrayTile with array := { arrayTile.array with owner := some (0, 1) } } Hub.reset).standing 0
      (pairCtx 1 2) = .sameLaunch ∧
    (labWith 4 (pairCtx 1 2) { arrayTile with
      array := { arrayTile.array with owner := some (1, 1), image := some (2, 0) }
      slots := (List.range 4).map fun j => (j, ⟨5, j, true, true⟩) } Hub.reset).standing 0 (pairCtx 1 2) = .noSlot := by decide +kernel

/-- WeightLoadResult: a ternary row into a ternary array, and an i8 row under Booth digits; the last plane and bank. -/
theorem witness_wload : (labArray (pairCtx 1 2) (typedPort 8 512)).AtEngine (arrayIssued (typedPort 8 512)) (pairCtx 1 2) ∧
    (∀ x ∈ ((labArray (pairCtx 1 2) (typedPort 8 512)).rowIn 0 (pairCtx 1 2) (arrayIssued (typedPort 8 512)).q
      ⟨0, some (typedPort 8 512), 0, 0⟩).traps, x = none) ∧
    ((labArray (pairCtx 1 2) (typedPort 8 512)).rowIn 0 (pairCtx 1 2) (arrayIssued (typedPort 8 512)).q
      ⟨0, some (typedPort 8 512), 0, 0⟩).poison = none ∧ (typedPort 8 512).handle.type = 8 ∧ (pairCtx 1 2).boothAt 40 = false ∧
    (typedPort 5 128).handle.type = 5 ∧ (csrCtx [(0x5C, 1)]).boothAt 40 = true ∧ (3 : BitVec 3).toNat < 4 ∧ (1 : BitVec 3).toNat < 2 ∧
    arrayTile.columns ≤ 64 := by
  refine ⟨⟨rfl, rfl⟩, ?_⟩
  decide +kernel

/-- BeatResults: PUSH of an i8 row, PUSHX and PUSHG of handles that they accept. -/
theorem witness_beats : (labArray sparseCtx (typedPort 5 128)).AtEngine (arrayIssued (typedPort 5 128)) sparseCtx ∧
    (let s := labArray sparseCtx (typedPort 5 128)
     let e := arrayIssued (typedPort 5 128)
     (∀ x ∈ beatPoison s e sparseCtx 0 0 false, x = none) ∧ (∀ x ∈ (s.rowIn 0 sparseCtx e.q (e.q.rowOn 0)).traps, x = none) ∧
     (s.rowIn 0 sparseCtx e.q (e.q.rowOn 0)).poison = none ∧
     unfoldOk (sparseCtx.hRaw e.q 1) (sparseCtx.csrAt 40 0x5D).toNat = true ∧ handlePoison sparseCtx e.q 1 = none ∧
     (∀ x ∈ byteTraps s e sparseCtx ((unfoldAddrs (sparseCtx.hRaw e.q 1) (sparseCtx.csrAt 40 0x5D).toNat 0).filterMap id), x = none) ∧
     bytePoison s e ((unfoldAddrs (sparseCtx.hRaw e.q 1) (sparseCtx.csrAt 40 0x5D).toNat 0).filterMap id) = none ∧
     gatherOk (sparseCtx.hRaw e.q 2) = true ∧ handlePoison sparseCtx e.q 2 = none ∧
     (let g := gatherRow s 0 (sparseCtx.hRaw e.q 2) 0 0
      (∀ x ∈ byteTraps s e sparseCtx g.reads, x = none) ∧ bytePoison s e g.reads = none ∧ g.bad = false)) := by
  refine ⟨⟨rfl, rfl⟩, ?_⟩
  decide +kernel

/-- ShiftAndDrainResults: an unpoisoned row in integer and in FP32 mode, an output row and a scale row. -/
theorem witness_drain : (labArray (csrCtx [(0x5B, 1)]) (typedPort 5 128)).AtEngine (arrayIssued (typedPort 5 128)) (csrCtx [(0x5B, 1)]) ∧
    arrayTile.array.rowPoison.getLsbD 0 = false ∧ (csrCtx [(0x5B, 1)]).fpRow 40 0 = true ∧ (csrCtx [(0x5B, 1)]).fpRow 40 1 = false ∧
    (let s := labArray (csrCtx [(0x5B, 1)]) (typedPort 5 128)
     let e := arrayIssued (typedPort 5 128)
     e.q.rowOn 8 = ⟨8, some (typedPort 0 64), 0, 0⟩ ∧ (∀ x ∈ s.rowTraps 0 (csrCtx []) e.q (e.q.rowOn 8), x = none) ∧
     (∀ x ∈ (s.rowIn 0 (csrCtx []) e.q (e.q.rowOn 3)).traps, x = none) ∧ (s.rowIn 0 (csrCtx []) e.q (e.q.rowOn 3)).poison = none) := by
  refine ⟨⟨rfl, rfl⟩, ?_⟩
  decide +kernel

/-- A context that owns every bank group, its SRAM address in g6, and the vault with row 5 of bank 1 open. -/
def vaultCtx : Ctx :=
  let c := csrCtx [(0x63, 0xFF)]
  { c with regs := { c.regs with g := [(6, 0x400)] } }

def vaultTile (opened : Table Nat) : Tile := { labTile with vault := { Vault.reset with opened := opened } }

def labVault (opened : Table Nat) : State := { labWith 5 vaultCtx (vaultTile opened) Hub.reset with mem := Memory.writeN [] (sramKey 0 0) (List.replicate 32 0x44) }

/-- R302: ACT opens its row, and REFPB takes one off the debt. -/
theorem test_act : (match exec (.act 1 5) (labVault []) with
    | .next t => (t.vault 0).opened.find? 1
    | _ => none) = some 5 ∧
    (match exec (.refpb 2) (labVault []) with
    | .next t => some (t.vault 0).debt
    | _ => none) = some (-1) := by decide +kernel

/-- RowAndStatusResults: closed banks, no broken minimum, a debt above its least. -/
theorem witness_rows : (labVault []).AtEngine (labIssued 5) vaultCtx ∧ vaultCtx.ownsBank 31 = true ∧ vaultCtx.vgroups = BitVec.allOnes 8 ∧
    ownTiming ((labVault []).vault 0) vaultCtx (labIssued 5).q (.act 31 8127) (vaultOffset 31 8127 0) = none ∧
    ownTiming ((labVault []).vault 0) vaultCtx (labIssued 5).q (.pre 1) (((labVault []).vault 0).locate 1 0) = none ∧
    ownTiming ((labVault []).vault 0) vaultCtx (labIssued 5).q .prea 0 = none ∧
    ownTiming ((labVault []).vault 0) vaultCtx (labIssued 5).q (.refpb 1) (((labVault []).vault 0).locate 1 0) = none ∧
    ownTiming ((labVault []).vault 0) vaultCtx (labIssued 5).q .refab 0 = none ∧
    ((labVault []).vault 0).opened = [] ∧ Table.sorted ((labVault [(1, 5)]).vault 0).opened = true ∧ ((labVault []).vault 0).round.getLsbD 1 = false ∧
    -8 < ((labVault []).vault 0).debt := by
  refine ⟨⟨rfl, rfl⟩, ?_⟩
  decide +kernel

/-- RowAndStatusResults: what VSTAT shows of a bank, of the bands, and of an increment that falls in this cycle. -/
theorem witness_status : ((labVault [(1, 5)]).vault 0).opened.getD 1 0 < 2 ^ 13 ∧ ((labVault []).vault 0).measured < 3 ∧
    ((labVault []).vault 0).accrual < 3 ∧
    (State.vault (labWith 5 vaultCtx { labTile with vault := { Vault.reset with stepDue := true } } Hub.reset) 0).stepDue = true := by decide +kernel

/-- ColumnCommandResults: an open row, clean SRAM, metadata that keeps two of four. -/
theorem witness_columns : (labVault [(1, 5)]).AtEngine (labIssued 5) vaultCtx ∧ (labVault [(1, 5)]).Canonical ∧
    (let s := labVault [(1, 5)]
     let e := labIssued 5
     let v := s.vault 0
     let o : ColOp := ⟨1, 0, 6, 0, none⟩
     (∀ x ∈ colChecks o 256 false s e vaultCtx, x = none) ∧ (∀ x ∈ colChecks o 144 true s e vaultCtx, x = none) ∧
     ownTiming v vaultCtx e.q (.rd o) (v.locate 1 0) = none ∧ (v.opened.find? 1).isSome = true ∧
     sramRange 0 32 0x0C08 0x0C09 32 = none ∧ s.setCheck 0 vaultCtx 0 2 true false false false 0 32 = none ∧
     s.poisoned (sramKey 0 0) 32 = false ∧ (dense24 (vaultCtx.rdxBytes e.q) (s.read (vaultKey 0 (v.locate 1 0)) 128) (s.read (sramKey 0 0) 32)).isSome = true ∧
     s.poisoned (sramKey 0 (0x400 + 128)) 16 = false) := by
  refine ⟨⟨rfl, rfl⟩, ?_⟩
  unfold State.Canonical
  decide +kernel

/-- EngineRefusals: a bank of another group, the last reserved row, an open bank, a flagged bank, a debt at its least. -/
theorem witness_vaultRefusals : (csrCtx [(0x63, 0x7F)]).ownsBank 31 = false ∧ (csrCtx [(0x63, 0x7F)]).vgroups ≠ BitVec.allOnes 8 ∧
    vaultCtx.ownsBank 31 = true ∧ 8128 ≤ (8191 : BitVec 13).toNat ∧ ¬ (1 = 31 ∧ 8128 ≤ (5 : BitVec 13).toNat) ∧
    ownTiming ((labVault []).vault 0) vaultCtx (labIssued 5).q (.act 1 5) (vaultOffset 1 5 0) = none ∧ (((labVault [(1, 5)]).vault 0).opened.find? 1).isSome = true ∧
    ownTiming ((labVault []).vault 0) vaultCtx (labIssued 5).q (.refpb 1) (((labVault []).vault 0).locate 1 0) = none ∧
    ({ Vault.reset with round := 2 } : Vault).round.getLsbD 1 = true ∧ ({ Vault.reset with debt := -8 } : Vault).debt ≤ -8 := by decide +kernel

/-! ### The Q slot -/

/-- A Q syllable with scope part. -/
def queueIssued : Issued := { labIssued 6 with q := { (labIssued 6).q with scope := 1 } }

/-- A launch with a unicast flow from context 0 of tile 0, in slot 32, and one to it. -/
def flowLaunch : Launch := { Launch.plain with flows := [⟨3, 0, 0, false, [1], 0, [32], 8⟩, ⟨4, 1, 0, false, [0], 0, [5], 8⟩] }

def labQueue (c : Ctx) (t : Tile) : State :=
  { lab 6 c with
    engine := some queueIssued
    tiles := [(0, t)]
    hub := { Hub.reset with launches := [(0, flowLaunch)], owners := [(0, 0)] } }

/-- A context with registers, h5 the example's handle, h6 an invalid one, and two tokens. -/
def queueCtx (g : Table Word64) : Ctx :=
  { tokenCtx with regs := { tokenCtx.regs with g := g, h := [(5, exampleHandle), (6, 0), (7, labHandle [(0x04, 1), (0x05, 16), (0x06, 4), (0x08, 64)])] } }

/-- R223: BIND of the worked example leaves port 2 with 96 rows (09_streams). -/
theorem test_bind : ((bindPort 12 5 2 false false (queueCtx []) queueIssued.q).toOption).map Port.total = some 96 := by decide +kernel

/-- StreamSyllableResults: a free port with a good handle and with a bad one, a bound port, and rows of its bundle. -/
theorem witness_streams : (labQueue (queueCtx []) labTile).AtEngine queueIssued (queueCtx []) ∧
    (queueCtx []).CleanG queueIssued.q 6 ∧ handlePoison (queueCtx []) queueIssued.q 5 = none ∧ Table.find? (queueCtx []).ports 2 = none ∧
    bindRefusal ⟨(queueCtx []).hRaw queueIssued.q 5, false, 0, 0, false, 0, 0, 0⟩ false = none ∧
    bindRefusal ⟨(queueCtx []).hRaw queueIssued.q 6, false, 0, 0, false, 0, 0, 0⟩ false = some 0x0900 ∧ Table.sorted (queueCtx []).ports = true ∧
    Table.sorted (queueCtx []).tokens = true ∧ Table.find? ({ queueCtx [] with ports := [(2, examplePort)] } : Ctx).ports 2 = some examplePort ∧
    ({ queueCtx [] with ports := [(2, examplePort)] } : Ctx).boundFor queueIssued.q 2 = some examplePort ∧ (queueCtx []).boundFor queueIssued.q 2 = none ∧
    rowIssued.q.rows.any (fun u => u.port == 8) = true ∧ queueIssued.q.rows.any (fun u => u.port == 8) = false := by
  refine ⟨⟨rfl, rfl⟩, ?_⟩
  unfold Ctx.CleanG
  decide +kernel

/-- R322: TOKQ reads what remains of token 1. -/
theorem test_tokq : gAt (after (exec (.tokq 4 1 0) (labQueue (queueCtx []) labTile))) 42 4 = some 8 := by decide +kernel

/-- CopySyllableResults: no bytes and some; boxes that fit and one that does not; a return word; a channel with and without a resume point; tokens
without an error, and with one reported and not. -/
theorem witness_copies : (labQueue (queueCtx [(6, 0x400), (9, 64)]) labTile).AtEngine queueIssued (queueCtx [(6, 0x400), (9, 64)]) ∧
    (queueCtx [(6, 0x400), (9, 64)]).CleanG queueIssued.q 6 ∧ (queueCtx [(6, 0x400), (9, 64)]).CleanG queueIssued.q 9 ∧
    ((queueCtx [(6, 0x400), (9, 64)]).gRaw queueIssued.q 9).toNat % 2 ^ 32 ≠ 0 ∧ ((queueCtx []).gRaw queueIssued.q 9).toNat % 2 ^ 32 = 0 ∧
    badBox ((queueCtx []).hRaw queueIssued.q 7) ((queueCtx []).hRaw queueIssued.q 7) = false ∧ boxBytes ((queueCtx []).hRaw queueIssued.q 7) = 256 ∧
    badBox ((queueCtx []).hRaw queueIssued.q 6) ((queueCtx []).hRaw queueIssued.q 7) = true ∧
    2 ^ 40 < boxBytes (labHandle [(0x04, 3), (0x05, 0xFFFF), (0x06, 0xFFFF), (0x07, 0xFFFF), (0x08, 1)]) ∧
    badBox (labHandle [(0x04, 3), (0x05, 0xFFFF), (0x06, 0xFFFF), (0x07, 0xFFFF), (0x08, 1)])
      (labHandle [(0x04, 3), (0x05, 0xFFFF), (0x06, 0xFFFF), (0x07, 0xFFFF), (0x08, 1)]) = false ∧
    sramRange 0x400 8 0x0800 0x0801 8 = none ∧
    (labQueue (queueCtx []) labTile).setCheck 0 (queueCtx []) 0 3 false true true false 0x400 8 = none := by
  refine ⟨⟨rfl, rfl⟩, ?_⟩
  unfold Ctx.CleanG
  decide +kernel

theorem witness_channels : (((labQueue (queueCtx []) labTile).tile 0).channels.getD 0 Channel.stopped).resume = none ∧
    (((labQueue (queueCtx []) { labTile with channels := [(0, { Channel.stopped with resume := some (0x400, 2) })] }).tile 0).channels.getD 0
      Channel.stopped).resume = some (0x400, 2) ∧ ((queueCtx []).token 1).error = false ∧ ((queueCtx []).token 2).error = true ∧
    ((queueCtx []).token 2).reported = false ∧ (queueCtx []).stopping = none := by decide +kernel

/-- A beat that has landed for flow 4 in cycle 104. -/
def landedBeat : InBeat := ⟨0, 0, 4, 104, List.replicate 128 7, [], false⟩

/-- MeshSyllableResults: a send that passes its checks, and one whose slot is not the flow's; a landing that passes, that waits no longer, and that is
lost; a misaligned row. -/
theorem witness_mesh : (labQueue (queueCtx [(6, 0x400), (9, 104)]) { labTile with landing := [landedBeat] }).AtEngine queueIssued
      (queueCtx [(6, 0x400), (9, 104)]) ∧ (labQueue (queueCtx []) labTile).Canonical ∧
    (let c := queueCtx [(6, 0x400), (9, 104)]
     let s := labQueue c { labTile with landing := [landedBeat] }
     let keys := landKeys c queueIssued.q 9 1 4
     (s.sendCheck 0 c queueIssued.q 6 9 1 3 false).toOption.isSome = true ∧ (s.sendCheck 0 c queueIssued.q 6 9 2 3 false).toOption.isSome = false ∧
     s.landCheck 0 c queueIssued.q 6 9 1 4 = none ∧ (s.landCheck 0 c queueIssued.q 9 6 1 4).isSome = true ∧
     keys.any (s.tile 0).marks.contains = false ∧ keys.all (s.tile 0).landed = true ∧ (∀ b ∈ (s.tile 0).landing, b.data.length = 128) ∧
     keys.any (({ labTile with marks := [(0, 0, 4, 104)] } : Tile).marks.contains) = true) := by
  refine ⟨⟨rfl, rfl⟩, ?_⟩
  unfold State.Canonical
  decide +kernel

/-- BarrierSyllableResults: an id of the launch, on its last tile and object, and one beyond; R356. -/
theorem witness_barriers : (labQueue (queueCtx [(6, 0x11F), (9, 0x120)]) labTile).AtEngine queueIssued (queueCtx [(6, 0x11F), (9, 0x120)]) ∧
    (let c := queueCtx [(6, 0x11F), (9, 0x120)]
     let s := labQueue c labTile
     (s.barrierCheck 0 c queueIssued.q 6 [9]).toOption = some (17, 15) ∧ (s.barrierCheck 0 c queueIssued.q 9 [6]).toOption = none ∧
     (s.launchOf c).bind (fun l => l.localTile 17) = some 26) := by
  refine ⟨⟨rfl, rfl⟩, ?_⟩
  decide +kernel

/-- A tile with an open Dome slot 3 that is complete, and slot 4 that is not; page 5 of the launch with a subscriber. -/
def domeTile : Tile :=
  { labTile with
    dome := [(3, ⟨0, ⟨0, 0, 0⟩, false, 1, 1, 1, Partial.fresh 64⟩), (4, ⟨0, ⟨0, 0, 0⟩, false, 2, 0, 0, Partial.fresh 64⟩)]
    pages := [(5, { PageEntry.free with owner := some 0, main := [⟨⟨1, 0, 0⟩, 0x400, 1, false, 9⟩] })] }

/-- YarrowSyllableResults: each check that passes, and one that fails; a page with and without a subscriber. -/
theorem witness_yarrow : (let c := queueCtx [(6, 0x400), (9, 5), (10, 0x103), (11, 0x104), (12, 3), (13, 0x101)]
     (labQueue c domeTile).AtEngine queueIssued c) ∧
    (let c := queueCtx [(6, 0x400), (9, 5), (10, 0x103), (11, 0x104), (12, 3), (13, 0x101)]
     let s := labQueue c domeTile
     let q := queueIssued.q
     s.pgsubCheck 0 c q 13 6 false = none ∧ (s.pgsubCheck 0 c q 6 13 false).isSome = true ∧
     s.pageId 0 c (c.gRaw q 13) = some (1, 1) ∧ s.pgunsubCheck 0 c q 13 = none ∧ (s.pgunsubCheck 0 c q 12).isSome = false ∧
     s.pgcastCheck 0 c q 6 9 false = none ∧ (s.pgcastCheck 0 c q 9 6 false).isSome = true ∧ ((s.tile 0).page 5).main ≠ [] ∧ ((s.tile 0).page 6).main = [] ∧
     s.mrgopenCheck 0 c q 13 = none ∧ (s.mrgopenCheck 0 c q 10).isSome = true ∧ s.mrgCheck 0 c q 6 11 = none ∧ (s.mrgCheck 0 c q 6 9).isSome = true ∧
     s.mrgfinCheck 0 c q 6 12 false false = none ∧ (s.mrgfinCheck 0 c q 6 11 false false).isSome = true ∧ Table.sorted (s.tile 0).dome = true ∧
     Table.sorted (s.tile 0).pages = true) := by
  refine ⟨⟨rfl, rfl⟩, ?_⟩
  decide +kernel

/-- SorrelSyllableResults: an image of one cell, a seed, a sweep of no and of some repeats, and a partition that the launch does not own. -/
theorem witness_sorrel : (let c := queueCtx [(6, 0x400), (9, 0x100000000), (10, 2), (11, 7)]
     (labQueue c labTile).AtEngine queueIssued c) ∧
    (let c := queueCtx [(6, 0x400), (9, 0x100000000), (10, 2), (11, 7)]
     let s := labQueue c labTile
     let q := queueIssued.q
     s.imageCheck 0 c q 6 9 (loadBytes 2) false = none ∧ s.imageCheck 0 c q 6 9 (fun n => ceilDiv n 8) true = none ∧
     (s.imageCheck 0 c q 6 10 (loadBytes 2) false).isSome = true ∧ (∀ x ∈ s.fieldCheck 0 c q true, x = none) ∧
     s.sweepCheck 0 c q 10 11 = none ∧ s.sweepCheck 0 c q 12 11 = none ∧ (c.gRaw q 12).toNat = 0 ∧ (c.gRaw q 10).toNat ≠ 0 ∧
     (s.sweepCheck 0 c q 9 6).isSome = true ∧ (firstTrap ((lab 6 c).fieldCheck 0 c q true)).isSome = true) := by
  refine ⟨⟨rfl, rfl⟩, ?_⟩
  decide +kernel

/-! ### Issue -/

/-- A context at a bundle of one ADD in X, which is in the code; the bundle has dispatched to place 0. -/
def labIssue : State :=
  { lab 1 (pairCtx 1 2) with
    engine := none
    issuing := some (0, 0)
    code := Memory.writeN [] (codeKey 0 0) (leBytes 4 0x08000000 ++ leBytes 4 0x04418700)
    starts := [codeKey 0 0, codeKey 0 8] }

/-- R51, R73: that bundle puts its ADD into the X queue, and the context goes on behind it. -/
theorem test_dispatch : (after (exec (.plainBundle ⟨0x20, 0, false, 0, 0⟩) labIssue)).map (fun c => (c.pc, (c.queue 1).map (·.word))) =
    some (8, [0x04418700]) := by decide +kernel

/-- BundleDispatch: a bundle that may dispatch, and a bundle behind which no bundle starts; an empty run. -/
theorem witness_dispatch : labIssue.issuing = some (0, 0) ∧ labIssue.ctx? 0 0 = some (pairCtx 1 2) ∧ (pairCtx 1 2).Ordered ∧
    labIssue.beforeDispatch 0 (pairCtx 1 2) 0 8 = none ∧ (labIssue.beforeDispatch 0 (pairCtx 1 2) 0 0x10004).isSome = true ∧
    (pairCtx 1 2).stopping = none ∧ (pairCtx 1 2).remainder = 0 ∧
    labIssue.dispatchTrap 0 (pairCtx 1 2) { (labIssued 1).q with word := 0x04418700 } (.add ⟨4, 6, 7, false, 0, 0⟩) = none := by
  refine ⟨rfl, rfl, ?_⟩
  unfold Ctx.Ordered RegFile.Ordered
  decide +kernel

/-- A context whose trap waits for its entry, with its handler at 0xFFFC and its record at 0x400. -/
def stoppingCtx : Ctx :=
  let c := csrCtx [(0x12, 0xFFFC), (0x13, 0x400)]
  { c with stopping := some ⟨{ cause := 0x16, value := 7 }, 0, 0, 0, none, 40, 0, 0, 0⟩ }

/-- R127, R131: TRAP's cause stands in the first bytes of its record, and the context goes on at its handler. -/
theorem test_trapEntry : (match exec (.trapEntry 0 0) (labStarts stoppingCtx) with
    | .next t => leNat (t.read (sramKey 0 0x400) 2) + (match t.ctx? 0 0 with | some c => c.pc | none => 0)
    | _ => 0) = 0x16 + 0xFFFC := by decide +kernel

/-- TrapEntry: a settled trap that its handler takes; IssueAndEndSteps: one that no handler takes, since TRAPREC lies in the window. -/
theorem witness_trapEntry : (labStarts stoppingCtx).ctx? 0 0 = some stoppingCtx ∧ (labStarts stoppingCtx).Canonical ∧ stoppingCtx.Ordered ∧
    stoppingCtx.stopping.any (fun st => stoppingCtx.settled st && !stoppingCtx.toDebugger st && ((labStarts stoppingCtx).noEntry 0 stoppingCtx st).isNone &&
      ((labStarts (csrCtx [(0x12, 0xFFFC), (0x13, 0x0FB000)])).noEntry 0 (csrCtx [(0x12, 0xFFFC), (0x13, 0x0FB000)]) st).isSome && decide (st.trap.cause < 2 ^ 16 ∧ st.slot < 8)) = true := by
  refine ⟨rfl, ?_⟩
  unfold State.Canonical Ctx.Ordered RegFile.Ordered
  decide +kernel

/-- A context with the ADD at the head of its X queue, and the tile's clock past its dispatch. -/
def queuedCtx : Ctx := { pairCtx 1 2 with queues := [(1, [{ (labIssued 1).q with word := 0x04418700, disp := 40 }])] }

/-- IssueAndEndSteps: a head that may leave, and one that a younger order of its own context holds. -/
theorem witness_leave : (lab 1 queuedCtx).ctx? 0 0 = some queuedCtx ∧ queuedCtx.stopping = none ∧ (lab 1 queuedCtx).breakMatch 0 queuedCtx = none ∧
    ((lab 1 queuedCtx).vault 0).landed = [] ∧
    (queuedCtx.queue 1).map (fun q => ((decode q.slot q.lend q.word).toOption, (lab 1 queuedCtx).hold 0 queuedCtx q (.add ⟨4, 6, 7, false, 0, 0⟩))) =
      [(some (.add ⟨4, 6, 7, false, 0, 0⟩), none)] ∧ usesArray (.add ⟨4, 6, 7, false, 0, 0⟩) = false ∧
    ((lab 6 (queueCtx [])).hold 0 { queueCtx [] with queues := [(6, [(labIssued 6).q])], sf := some ⟨0, 9⟩ } (labIssued 6).q (.sfread 4 6)).isSome = true := by
  refine ⟨rfl, ?_⟩
  decide +kernel

/-- A context with a PUSH at the head of its M queue, on a tile whose array is being handed over. -/
def pushCtx : Ctx := { pairCtx 1 2 with queues := [(4, [{ (arrayIssued (typedPort 5 128)).q with word := 0x10010001 }])] }

/-- IssueAndEndSteps: an M syllable that nothing but the handover holds. -/
theorem witness_handoverHolds : (let s := labWith 4 pushCtx { arrayTile with array := { arrayTile.array with handover := some 1 } } Hub.reset
    s.ctx? 0 0 = some pushCtx ∧ (s.tile 0).array.handover.isSome = true ∧ usesArray (.push 0 1 0 true) = true ∧
      (pushCtx.queue 4).map (fun q => ((decode q.slot q.lend q.word).toOption, s.hold 0 pushCtx q (.push 0 1 0 true))) =
        [(some (.push 0 1 0 true), none)]) := by decide +kernel

/-- IssueAndEndSteps: waits that end, an error to raise, a promise that has passed, a release that has landed, and a context that may retire. -/
theorem witness_waitSteps :
    (let c : Ctx := { tokenCtx with wait := some (.tokens 0 0 0 1 false none) }
     c.raises 40 0 (maskTokens 1) = [] ∧ c.waitMet 40 1 false = true) ∧
    (tokenCtx.raises 40 0 (maskTokens 4)).head? = some 2 ∧ (40 : Word64) ≤ (lab 0 tokenCtx).cycle ∧
    (State.missedPromise (lab 0 tokenCtx) 0 { csrCtx [(0x10, 2)] with
      tokens := [(1, { remaining := 8, promise := 10 })], wait := some (.tokens 0 0 0 2 false none) }) = some 1 ∧
    (let c : Ctx := { pairCtx 1 2 with wait := some (.halt 0 0 0), flights := [] }
     c.mayRetire = true ∧ c.unreported 40 (List.range 8) = []) ∧ Table.sorted (lab 0 tokenCtx).ctxs = true ∧
    (lab 0 tokenCtx).hub.launches.find? 0 = some Launch.plain := by decide +kernel

/-! ### Streams, vault, array and copies -/

/-- The package in cycle 40 with a context at place 0 of a tile 0, between syllables. -/
def unit (c : Ctx) (t : Tile) : State := { labWith 0 c t Hub.reset with engine := none }

/-- A context with a row on its way to port 2 and an output row that counts on token 1. -/
def rowCtx : Ctx :=
  { pairCtx 1 2 with
    ports := [(2, { examplePort with fetching := 1 })], outRows := [⟨8, 0, [(0x400, 1), (0x401, 2)], false, some 1⟩]
    tokens := [(1, { remaining := 2, expected := 2 })] }

theorem witness_rowSteps : (unit rowCtx labTile).findWho ⟨0, 0, 0⟩ = some (0, 0, rowCtx) ∧ (unit rowCtx labTile).Canonical ∧
    Table.sorted rowCtx.tokens = true ∧ (let p : Port := { examplePort with fetching := 1 }
      Table.find? rowCtx.ports 2 = some p ∧ p.arrived < p.total ∧
        ((unit rowCtx labTile).tile 0).bankTaken (rowLines (p.rowCells (p.place (unit rowCtx labTile) 0 p.arrived) p.arrived ++ p.entryCells p.arrived)) = false) ∧
    rowCtx.olderST 0 = false ∧ labTile.bankTaken (rowLines [0x400, 0x401]) = false ∧ [0x400, 0x401].Nodup := by
  unfold State.Canonical
  decide +kernel

/-- R221: the bytes of that output row, and what is left of its token. -/
theorem test_outputRow : (match exec (.outputRowWrite ⟨0, 0, 0⟩) (unit rowCtx labTile) with
    | .next t => (leNat (t.read (sramKey 0 0x400) 2), (t.ctx? 0 0).map fun c => (c.token 1).remaining)
    | _ => (0, none)) = (0x0201, some 0) := by decide +kernel

/-- Two pieces of 64 bytes that meet and do not overlap. -/
def landingTile : Tile :=
  { labTile with vault := { Vault.reset with landings := [⟨0, 0, 0, [(0x400, List.replicate 64 1, false), (0x440, List.replicate 64 2, false)]⟩] } }

theorem witness_landing : (unit (pairCtx 1 2) landingTile).Canonical ∧ (((unit (pairCtx 1 2) landingTile).vault 0).landings.map (·.pieces.length)) = [2] ∧
    ∀ l ∈ ((unit (pairCtx 1 2) landingTile).vault 0).landings, ((unit (pairCtx 1 2) landingTile).tile 0).starves (rowLines (l.pieces.map (·.1))) = false ∧
      l.pieces.Pairwise fun a b => a.1 + a.2.1.length ≤ b.1 ∨ b.1 + b.2.1.length ≤ a.1 := by
  unfold State.Canonical
  decide +kernel

/-- A context that owns bank group 0. -/
def groupCtx : Ctx := { csrCtx [(0x63, 1)] with dispatched := 1 }

/-- RefreshStepRule: the bank of a running context, one of none, an open one; debts of 7 and of 8; an increment that falls in this cycle; a refresh that
the engine has yet to issue, and may; a forced refresh that has recorded a row. -/
theorem witness_refresh : ((unit (pairCtx 1 2) labTile).bankOwner 0 0).isNone = true ∧
    (((unit groupCtx labTile).bankOwner 0 0).map fun x => (x.1, decide (x.2 = groupCtx))) = some (0, true) ∧
    Table.find? ((unit (pairCtx 1 2) labTile).vault 0).opened 0 = none ∧ ((unit (pairCtx 1 2) labTile).vault 0).forced = none ∧
    0 ∉ ((unit (pairCtx 1 2) labTile).vault 0).closing ∧
    (let v := (unit (pairCtx 1 2) { labTile with vault := { Vault.reset with debt := 7, increments := 32, opened := [(0, 5)] } }).vault 0
     (Table.find? v.opened (v.increments % 32)).isSome = true ∧ v.debt < 8) ∧
    (8 : Int) ≤ ((unit (pairCtx 1 2) { labTile with vault := { Vault.reset with debt := 8, opened := [(0, 5)] } }).vault 0).debt ∧
    ((unit (pairCtx 1 2) { labTile with vault := { Vault.reset with forced := some ⟨40, [(3, 5)], true⟩ } }).vault 0).forced =
      some ⟨40, [(3, 5)], true⟩ ∧
    (let s := unit (pairCtx 1 2) { labTile with vault := { Vault.reset with stepDue := true, refreshing := [3] } }
     (s.vault 0).stepDue = true ∧ (s.vault 0).forced = none ∧ (s.vault 0).closing = [] ∧ (s.vault 0).refreshing = [3] ∧
       Table.find? (s.vault 0).opened 3 = none ∧ s.engineMay 0 .refpb 3 = true) := by decide +kernel

/-- HeatAndPowerRule: a band that allows each threshold, a window that ends now, samples above the limit, below 95% of it, and between, a fault, and a
package that halts its launches, whose contexts have nothing left to do. -/
theorem witness_heat : ((unit (pairCtx 1 2) labTile).vault 0).measured ≤ 2 ∧
    ((unit (pairCtx 1 2) { labTile with vault := { Vault.reset with window := some 40 } }).vault 0).window = some (unit (pairCtx 1 2) labTile).time ∧
    ((unit (pairCtx 1 2) labTile).reg 0x20).toNat = 2300 ∧ 2300 * 1 < [2301].sum ∧ 100 * [2184].sum < 95 * 2300 * 1 ∧
    [2300].sum ≤ 2300 * 1 ∧ 95 * 2300 * 1 ≤ 100 * [2185].sum ∧ 115 * 2300 < 100 * 2646 ∧ ¬ 115 * 2300 < 100 * 2645 ∧
    Table.sorted (unit (pairCtx 1 2) labTile).ctxs = true ∧
    (let s : State := { unit (pairCtx 1 2) labTile with hub := { Hub.reset with launches := [(0, Launch.plain)], halting := some 5 } }
     s.hub.halting = some 5 ∧ ∀ x ∈ s.allCtxs, 4 ≤ x.2.1 ∨ x.2.2.drained = true) := by decide +kernel

/-- R22: a sample above 115% of the limit halts the package. -/
theorem test_powerFault : (match exec (.powerSample 2646) (unit (pairCtx 1 2) labTile) with
    | .next t => t.agenda
    | _ => []) = [.event .powerFaultHalt] := by decide +kernel

/-- HandoverRule: the array belongs to a context of another launch, and the window holds no image. -/
theorem witness_handover : (let t : Tile := { labTile with array := { MatrixArray.empty with owner := some (7, 0) } }
    (unit (pairCtx 1 2) t).ctx? 0 0 = some (pairCtx 1 2) ∧ (unit (pairCtx 1 2) t).standing 0 (pairCtx 1 2) = .handover ∧
      Table.sorted (unit (pairCtx 1 2) t).ctxs = true ∧
      t.array.image ≠ some ((pairCtx 1 2).launch, (pairCtx 1 2).num) ∧ t.slotOf (pairCtx 1 2).launch (pairCtx 1 2).num = none) := by decide +kernel

/-- A copy of 64 bytes from 0x400 to 0x800 of the SRAM, whose syllable is a CPY, and which counts on token 0. -/
def labCopy : CopyOp :=
  CopyOp.make { labIssued 6 with q := { (labIssued 6).q with word := 0x21742024, scope := 1 } } (pairCtx 1 2) 40 .move 0 64 0x800 0 0x400 0

def copyState (o : CopyOp) (t : Tile) : State :=
  { unit { pairCtx 1 2 with tokens := [(0, { expected := 64, remaining := 64 })] } t with copies := [(0, o)], ids := 1 }

theorem witness_copySource : labCopy.Reads (copyState labCopy labTile) 0 ∧
    (copyState labCopy labTile).translate labCopy labCopy.skind labCopy.srcAt .read = .at ((copyState labCopy labTile).globalOf 1 0 0x400) ∧
    (let s := copyState labCopy labTile
     let h := homeOf (s.globalOf 1 0 0x400)
     s.copyHeld 0 labCopy (s.operandHome labCopy.tile labCopy.skind labCopy.srcAt) false = false ∧ h.space = 1 ∧ s.isHere h = true ∧
       s.homeFault labCopy h labCopy.beat true false false = none ∧ s.barred labCopy h = false ∧ (s.copySend labCopy h true).isSome = true ∧
       s.bankFree h labCopy.beat) := by
  unfold CopyOp.Reads State.bankFree
  refine ⟨by decide +kernel, rfl, by decide +kernel⟩

/-- The same in the vault: a row that is open, and one that is not. -/
theorem witness_copyVault : (let o : CopyOp := { labCopy with skind := 1, reach := some 0x400 }
    let open_ : Tile := { labTile with vault := { Vault.reset with opened := [(0, 0)] } }
    o.reach = some 0x400 ∧ o.column = 0 ∧ ((copyState o labTile).vault 0).forced = none ∧ 0 ∉ ((copyState o labTile).vault 0).closing ∧
      ((copyState o labTile).vault 0).busy.getD 0 0 ≤ 40 ∧ (copyState o labTile).transferEnd 0 ≤ 40 ∧
      (∀ b ∈ ((copyState o labTile).vault 0).bus, b.time ≠ 40) ∧ (homeOf 0x400).off / 2 ^ 11 % 2 ^ 13 = 0 ∧ (homeOf 0x400).off / 2 ^ 24 = 0 ∧
      Table.find? ((copyState o open_).vault 0).opened 0 = some 0 ∧ brokenRows (busOf ((copyState o open_).vault 0).bus) 40 .rd 0 = [] ∧
      Table.find? ((copyState o labTile).vault 0).opened 0 = none ∧ brokenRows (busOf ((copyState o labTile).vault 0).bus) 40 .act 0 = []) := by
  decide +kernel

/-- The home of that copy's destination. -/
def labHome : Word64 := (unit (pairCtx 1 2) labTile).globalOf 1 0 0x800

/-- HomeRule: a beat of a move at its home, an ACCW.add.u32, and a CASW whose old value has come back. -/
theorem witness_copyHome : (let o : CopyOp := { labCopy with hand := some (List.replicate 64 7, []), reach := some labHome }
    let s := copyState o labTile
    let c : Ctx := { pairCtx 1 2 with tokens := [(0, { expected := 64, remaining := 64 })] }
    s.translate o o.dkind o.dstAt .write = .at labHome ∧
      Table.find? s.copies 0 = some o ∧ o.owner = some ⟨0, 0, 0⟩ ∧ s.findWho ⟨0, 0, 0⟩ = some (0, 0, c) ∧ o.token = some 0 ∧
      Table.sorted c.tokens = true ∧ (s.mem.wf = true ∧ s.code.wf = true) ∧ o.chain = none ∧ o.walk = none ∧ o.order = none ∧
      (o.hand.map fun h => h.1.length) = some o.beat ∧ 0 < o.beat ∧
      (let h := homeOf labHome
       h.space = 1 ∧ s.isHere h = true ∧ s.homeFault o h o.beat false true false = none ∧ s.orderOf o h = none ∧ s.bankFree h o.beat ∧
         s.arrivedAt h = [] ∧ 0 ∉ (s.tile h.tile).arrived ∧ s.portLink o ∉ (s.tile h.tile).ports)) := by
  unfold State.bankFree
  refine ⟨rfl, by decide +kernel⟩

/-- HomeRule: a beat of a trusted launch that leaves for the SRAM of tile 5, with its way. -/
theorem witness_copyLeaves : (let o : CopyOp := { labCopy with hand := some (List.replicate 64 7, []), dkind := 3, dst := (unit (pairCtx 1 2) labTile).globalOf 1 5 0x800 }
    let s : State := { copyState o labTile with hub := { Hub.reset with launches := [(0, { Launch.plain with trusted := true })] } }
    s.translate o o.dkind o.dstAt o.touch = .at o.dst ∧ o.reach = none ∧ s.copyHeld 0 o (s.operandHome o.tile o.dkind o.dstAt) true = false ∧
      (let h := homeOf o.dst
       h.space < 2 ∧ s.isHere h = true ∧ s.badHome h o.span = none ∧ s.barred o h = false ∧
         (s.copySend o h false).any (fun x => decide (0 < x.1)) = true)) :=
  ⟨rfl, by decide +kernel⟩

theorem witness_copyWord : (let o : CopyOp := { labCopy with mode := .accw 0 0 5, total := 4, row := 4, reach := some labHome }
    let s := copyState o labTile
    s.translate o o.dkind o.dstAt .modify = .at labHome ∧ Table.find? s.copies 0 = some o ∧ o.dst.toNat % o.span = 0 ∧
      (let h := homeOf labHome
       h.space = 1 ∧ s.isHere h = true ∧ s.homeFault o h (accBytes 0) true true true = none ∧ s.orderOf o h = none ∧
         s.poisoned (s.keyOf h) (accBytes 0) = false ∧ s.bankFree h (accBytes 0) ∧ s.arrivedAt h = [] ∧ 0 ∉ (s.tile h.tile).arrived ∧
         s.portLink o ∉ (s.tile h.tile).ports)) ∧
    (let o : CopyOp := { labCopy with mode := .casw 0 1 2 0x408, total := 8, row := 8 }
     Table.find? (copyState o labTile).copies 0 = some o ∧
       (copyState o labTile).bankFree ⟨(copyState o labTile).packageId, 1, o.tile, 0x408⟩ 8) := by
  unfold State.bankFree
  refine ⟨⟨rfl, by decide +kernel⟩, by decide +kernel⟩

/-- R313: ACCW.add.u32 of 5 to a zero word. -/
theorem test_accw_arrives : (match exec (.copyBeatArrival 0) (copyState { labCopy with mode := .accw 0 0 5, total := 4, row := 4, reach := some labHome } labTile) with
    | .next t => leNat (t.read (sramKey 0 0x800) 4)
    | _ => 0) = 5 := by decide +kernel

/-- Tables in the vault of tile 0 that map page 0 from the root 0x800, and a walk from there. -/
def walkState (root : Word64) : State :=
  { unit (pairCtx 1 2) labTile with
    mem := [(0x800, 0x1001), (0x1000, 0x1801), (0x1800, 0x2001), (0x2000, 0x2801), (0x2800, 0x10007)].foldl
      (fun m (x : Nat × Nat) => Memory.writeN m (vaultKey 0 x.1) (leBytes 8 x.2)) []
    hub := { Hub.reset with walks := [⟨root, 0, [0]⟩] } }

theorem witness_walk : (walkState 0x800).hub.walks = [⟨0x800, 0, [0]⟩] ∧
    ((walkState 0x800).walkVa 0x800 0).1.toOption = some (16, 0x10007) ∧ ((walkState 0x4000).walkVa 0x4000 0).1.toOption = none ∧
    Table.sorted (walkState 0x800).copies = true := by decide +kernel

/-- A chain on channel 0 of tile 0. -/
def chainState (stage : Nat) (words : List Word64) : State :=
  unit (pairCtx 1 2) { labTile with channels := [(0, { Channel.stopped with run := some ⟨0x400, 0, none, 0, some ⟨0, 0, 0⟩, (labIssued 6).q, 0, stage, words, 0, 0⟩ })] }

theorem witness_chain : ((chainState 0 []).findWho ⟨0, 0, 0⟩).isSome = true ∧
    ((((chainState 0 []).tile 0).channels.getD 0 Channel.stopped).run.any fun r => !(chainState 0 []).chainWaits r) = true ∧
    (((((chainState 0 []).tile 0).channels.getD 0 Channel.stopped).run).map fun r => (r.stage, r.record)) = some (0, 0x400) ∧
    (((((chainState 1 [0, 0, 0, 1]).tile 0).channels.getD 0 Channel.stopped).run).map fun r =>
      (r.stage, r.cause, (r.word 3).getLsbD 63)) = some (1, 0, false) ∧
    (((((chainState 4 [0, 0, 0, 0x8000000000000000]).tile 0).channels.getD 0 Channel.stopped).run).map fun r =>
      (r.stage, r.cause, r.word 0)) = some (4, 0, 0) := by decide +kernel

/-- A write of launch 3, whose contexts are all elsewhere, that has arrived whole and waits for its horizon. -/
def heldState : State :=
  { unit (pairCtx 1 2) labTile with
    copies := [(5, { labCopy with owner := some ⟨9, 3, 0⟩, pos := 64, held := [⟨sramKey 0 0x800, [1, 2], []⟩], order := some (3, 40) })]
    hub := { Hub.reset with launches := [(0, Launch.plain), (3, { Launch.plain with packet := 3 })] } }

theorem witness_order : heldState.Canonical ∧ heldState.heldFor 0 = [] ∧ Table.find? heldState.hub.launches 0 = some Launch.plain ∧
    heldState.quiescent 3 = true ∧ heldState.quiescent 0 = false ∧ ((heldState.leastHeld (heldState.heldFor 3)).map fun x =>
      (x.1, x.2.reach, x.2.held, x.2.applying)) = some (5, none, [⟨sramKey 0 0x800, [1, 2], []⟩], false) ∧ Table.sorted heldState.copies = true ∧
    (heldState.hub.launches.map fun x => x.2.far.least) = [[], []] ∧
    (heldState.leastHeld (heldState.heldFor 3)).any (fun x =>
      let h := homeOf (heldState.heldAt x.2).1
      h.space == 1 && heldState.keyOf h == sramKey 0 0x800 && h == homeOf (heldState.globalOf 1 0 0x800)) = true ∧
    heldState.bankFree (homeOf (heldState.globalOf 1 0 0x800)) 2 := by
  unfold State.Canonical State.bankFree
  decide +kernel

/-! ### The mesh and messages -/

/-- A beat that departs now for tile 2, and counts on token 0. -/
def labOut : OutBeat := ⟨⟨0, 0, 0⟩, 3, 40, 50, List.replicate 128 1, [], some 0, 0, [2], 0, 10⟩

/-- A beat that arrives now, at a landing buffer with n beats. -/
def beatTile (n : Nat) : Tile :=
  { labTile with
    outbound := [labOut], incoming := [(40, ⟨0, 0, 4, 40, List.replicate 128 1, [], false⟩)]
    landing := (List.range n).map fun k => ⟨0, 0, 4, BitVec.ofNat 64 (100 + k), List.replicate 128 1, [], false⟩ }

theorem witness_beatSteps : (let s := unit { pairCtx 1 2 with tokens := [(0, { expected := 128, remaining := 128 })] }
    ((s (beatTile 15)).tile 0).outbound.find? (fun b => decide (b.depart ≤ (s (beatTile 15)).time)) = some labOut ∧
      (s (beatTile 15)).findWho labOut.who = some (0, 0, { pairCtx 1 2 with tokens := [(0, { expected := 128, remaining := 128 })] }) ∧
      (((s (beatTile 15)).tile 0).incoming.filter fun x => decide (x.1 ≤ (s (beatTile 15)).time)).length = 1 ∧ (beatTile 15).freeze = none ∧
      (Table.find? (s (beatTile 15)).hub.launches 0).isSome = true ∧ (beatTile 15).landing.length < 16 ∧
      (beatTile 15).landed (0, 0, 4, 40) = false ∧ 16 ≤ (beatTile 16).landing.length ∧ (beatTile 15).landed (0, 0, 4, 100) = true) := by
  decide +kernel

/-- R341: the beat that makes sixteen is held, and the next is lost. -/
theorem test_beatArrival : (match exec (.beatArrival 0) (unit (pairCtx 1 2) (beatTile 15)) with
    | .next t => ((t.tile 0).landing.length, (t.tile 0).marks.length)
    | _ => (0, 0)) = (16, 0) ∧ (match exec (.beatArrival 0) (unit (pairCtx 1 2) (beatTile 16)) with
    | .next t => ((t.tile 0).landing.length, (t.tile 0).marks.length)
    | _ => (0, 0)) = (16, 1) := by decide +kernel

/-- A context with an MLAND of one beat of flow 0, due in cycle 40, at the head of its Q queue. -/
def mlandCtx : Ctx := { labCtx [(8, 40)] with queues := [(6, [{ (labIssued 6).q with word := 0x49C20000 }])] }

/-- The package with a value of FREEZELIM. -/
def freezeState (limit : Word64) (t : Tile) : State :=
  { unit mlandCtx t with hub := { Hub.reset with launches := [(0, Launch.plain)], regs := [(0x18, limit)] } }

def frozenTile : Tile := { labTile with freeze := some ⟨40, 40, 0, false⟩ }

theorem witness_freeze : ((freezeState 1 labTile).landingHead 0 0).map (·.2) = some [(0, 0, 0, 40)] ∧
    (freezeState 1 labTile).ctx? 0 0 = some mlandCtx ∧ ((freezeState 1 labTile).tile 0).freeze = none ∧ (freezeState 1 labTile).cycle = 40 ∧
    [(0, 0, 0, (40 : Word64))].any ((freezeState 1 labTile).tile 0).marks.contains = false ∧
    [(0, 0, 0, (40 : Word64))].all ((freezeState 1 labTile).tile 0).landed = false ∧ ((freezeState 1 frozenTile).tile 0).freeze = some ⟨40, 40, 0, false⟩ ∧
    ((freezeState 1 frozenTile).landingHead 0 0).map (·.2) = some [(0, 0, 0, 40)] ∧ mlandCtx.stopping = none ∧
    40 + 1 - 40 < ((freezeState 2 frozenTile).reg 0x18).toNat ∧ ((freezeState 1 frozenTile).reg 0x18).toNat ≤ 40 + 1 - 40 ∧
    [(0, 0, 0, (40 : Word64))].any ({ frozenTile with holds := [(0, 0, 0, 40)] } : Tile).holds.contains = true := by decide +kernel

/-- A launch on two packages, of which this is the first, with a flow from a tile of the second to tile 0. -/
def farLaunch : Launch :=
  { Launch.plain with partitions := [(0, 0), (1, 0)], packages := 2, flows := [⟨6, 18, 0, false, [0], 0, [32], 100⟩] }

/-- The package with port 1 trained and enabled. -/
def linkState : State :=
  { unit (pairCtx 1 2) labTile with hub := { Hub.reset with launches := [(0, farLaunch)], regs := [(0x700 + 8 * 1, 0x30000)] } }

/-- LinkRule: a port that is up and one that is not; a flit whose release is to come, is now, and has passed; a flow of a launch; an alignment under way. -/
theorem witness_links : (linkState.reg (0x700 + 8 * 1)).getLsbD 16 = true ∧ (linkState.reg (0x700 + 8 * 1)).getLsbD 17 = true ∧
    linkState.launchOfFlow 0 0 6 = some 0 ∧ (Table.find? linkState.hub.launches 0).isSome = true ∧ linkState.hub.pkgid = 0 ∧ (5 : BitVec 14) ≠ 0 ∧
    Table.sorted linkState.hub.regs = true ∧ (linkState.reg (0x700 + 8 * 2)).getLsbD 16 = false ∧ linkState.cycle = 40 ∧
    (linkState.reg (0x700 + 8 * 1)).toNat % 2 ^ 16 = 0 ∧ linkState.hub.aligning = false ∧
    ({ linkState.hub with aligning := true } : Hub).aligning = true := by
  decide +kernel

/-- R345: a beat that departed in cycle 38 over a padding of 2 is released in cycle 40, and one over a padding of 0 comes late and carries its mark. -/
theorem test_flit : (let s := unit (pairCtx 1 2) labTile
    let with_ (pad : Word64) : State := { s with hub := { Hub.reset with launches := [(0, farLaunch)], regs := [(0x700 + 8 * 1, 0x30000 + pad)] } }
    let flit (pad : Word64) : List Bool := match exec (.flitReceive 1 true 38 (.beat 0 0 6 60 (List.replicate 128 1) [])) (with_ pad) with
      | .next t => (t.tile 0).incoming.map fun x => x.2.linked
      | _ => []
    (flit 2, flit 0)) = ([false], [true]) := by decide +kernel

/-- A message from tile 1 to object 15 of tile 0. -/
def labMessage (ask : Ask) : Message := ⟨40, 0, ⟨1, 0, 0⟩, 1, 0, 15, ask, 0, 2, 5, 9, 7⟩

def messageState (b : Barrier) (ask : Ask) : State :=
  unit (pairCtx 1 2) { labTile with barriers := [(15, b)], messages := [labMessage ask] }

/-- HomeMessageRule: an owned object of three arrivals with one arrived in phase 5, which the launch may use. -/
theorem witness_homeMessages : (let s := messageState ⟨some 0, 3, 5, [1, 0, 0, 0], []⟩ (.arrive 5)
    Table.sorted (s.tile 0).barriers = true ∧
      ((s.tile 0).messages.filter fun m => decide (m.arrive ≤ s.time) && !m.ask.toPage) = [labMessage (.arrive 5)] ∧
      ((s.tile 0).barriers.getD 15 Barrier.free).owner = some 0) ∧ (0x3 : Word64).toNat % 2 ^ 16 ≠ 0 ∧
    (let k (p : BitVec 32) : Int := (p - (5 : BitVec 32)).toInt
     k 5 = 0 ∧ k 8 = 3 ∧ k 9 = 4 ∧ k 4 < 0) ∧ [(1 : Nat), 0, 0, 0].getD 0 0 + 1 < 3 ∧ [(1 : Nat), 0, 0, 0].getD 3 0 + 1 < 3 ∧
    [(2 : Nat), 0, 0, 0].headD 0 + 1 = 3 ∧ [(2 : Nat), 0, 0, 0].getD 1 0 < 3 ∧ (List.replicate 23 (⟨6, labMessage (.await 6)⟩ : Waiter)).length < 24 ∧
    (some 7).any (· != (labMessage .invalidate).who.launch) = true := by decide +kernel

/-- R364: the last of three arrivals completes the phase. -/
theorem test_barrier_completes : (match exec (.barrierMessageApply 0) (messageState ⟨some 0, 3, 5, [2, 1, 0, 0], []⟩ (.arrive 5)) with
    | .next t => (((t.tile 0).barriers.getD 15 Barrier.free).base, ((t.tile 0).barriers.getD 15 Barrier.free).counts)
    | _ => (0, [])) = (6, [1, 0, 0, 0]) := by decide +kernel

/-- The package with a reply to the context of tile 0 that lands now. -/
def replyState (c : Ctx) (ask : Ask) (a : Answer) : State :=
  { unit c labTile with replies := [⟨40, { labMessage ask with who := ⟨0, 0, 0⟩ }, a⟩] }

def waitCtx (left : Option Nat) : Ctx :=
  { pairCtx 1 2 with wait := some (.barrier 0 0 1 { labMessage (.await 5) with who := ⟨0, 0, 0⟩ } left none) }

theorem witness_replies : (replyState tokenCtx (.arrive 5) .accepted).findWho ⟨0, 0, 0⟩ = some (0, 0, tokenCtx) ∧
    ((replyState tokenCtx (.arrive 5) .accepted).replies.filter fun r => decide (r.land ≤ 40) && r.msg.who == ⟨0, 0, 0⟩ && !r.msg.ask.awaits).length = 1 ∧
    Table.sorted tokenCtx.tokens = true ∧ (labMessage (.arrive 5)).pd ≠ 0 ∧ (labMessage (.query 1)).gd ≠ 0 ∧ (tokenCtx.token 1).error = false ∧
    ((replyState (waitCtx none) (.await 5) (.released true 0)).replies.filter fun r =>
      decide (r.land ≤ 40) && r.msg.who == ⟨0, 0, 0⟩ && r.msg.ask.awaits).length = 1 ∧
    (replyState (waitCtx none) (.await 5) (.released true 0)).findWho ⟨0, 0, 0⟩ = some (0, 0, waitCtx none) ∧
    (unit (waitCtx (some 0)) labTile).ctx? 0 0 = some (waitCtx (some 0)) ∧ (waitCtx (some 0)).Ordered := by
  unfold Ctx.Ordered RegFile.Ordered
  decide +kernel

/-- Page 15 of tile 0, and a message about it. -/
def pageState (p : PageEntry) (ask : Ask) : State := unit tokenCtx { labTile with pages := [(15, p)], messages := [labMessage ask] }

/-- A subscription of the context of tile 1, and one of tile 0. -/
def labSub (tile : Nat) : Subscription := ⟨⟨tile, 0, 0⟩, 0x4000, 1, false, 9⟩

def labCast : Cast := ⟨⟨0, 0, 0⟩, 0, 0x8000, false, [labSub 0], 1, 127, 9⟩

theorem witness_pages : (let s := pageState PageEntry.free (.subscribe 0x4000 false)
    Table.sorted (s.tile 0).pages = true ∧
      ((s.tile 0).messages.filter fun m => decide (m.arrive ≤ s.time) && m.ask.toPage) = [labMessage (.subscribe 0x4000 false)] ∧
      ((s.tile 0).page 15).owner.any (· != 0) = false ∧ (((s.tile 0).page 15).main ++ ((s.tile 0).page 15).late).any (fun y => y.who.tile == 1) = false) ∧
    ((((pageState { PageEntry.free with owner := some 7 } (.subscribe 0x4000 false)).tile 0).page 15).owner.any (· != 0)) = true ∧
    (let p := ((pageState { PageEntry.free with owner := some 0, main := [labSub 1], opened := true } .cancel).tile 0).page 15
     (p.main ++ p.late).any (fun y => y.who.tile == 1) = true ∧ p.opened = true ∧
       ((p.main ++ p.late).find? fun y => y.who == (labMessage .cancel).who) = some (labSub 1)) ∧
    (let s := unit tokenCtx { labTile with casts := [labCast], castBeats := [⟨40, 0, labSub 0, 127, true, List.replicate 128 1, []⟩] }
     (s.tile 0).casts = [labCast] ∧ labCast.next < 128 ∧ s.castCrosses 0 labCast false = false ∧ s.findWho labCast.who = some (0, 0, tokenCtx) ∧
       s.castHeld 0 ⟨40, 0, labSub 0, 127, true, List.replicate 128 1, []⟩ = false ∧ (s.mem.wf && s.code.wf) = true ∧
       ((s.tile 0).castBeats.filter fun b => decide (b.land ≤ s.time)).length = 1 ∧ Table.sorted tokenCtx.tokens = true) := by decide +kernel

/-- A merge of slot 3 that ends now, and an MRG that waits for a reorder entry. -/
def mergeTile : Tile := { domeTile with merges := [⟨⟨0, 0, 0⟩, 3, 0, Partial.fresh 64, false, 9⟩], merging := some 40 }

def stuckCtx : Ctx := { pairCtx 1 2 with queues := [(6, [{ (labIssued 6).q with word := 0x91A4C000, held := 10 }])] }

theorem witness_dome : (unit (pairCtx 1 2) mergeTile).time = 40 ∧ ((unit (pairCtx 1 2) mergeTile).tile 0).merging = some 40 ∧
    ((unit (pairCtx 1 2) mergeTile).tile 0).merges.map (·.slot) = [3] ∧ (Table.find? ((unit (pairCtx 1 2) mergeTile).tile 0).dome 3).isSome = true ∧
    Table.sorted (unit stuckCtx labTile).ctxs = true ∧ (unit stuckCtx labTile).domeStuck 0 0 = true ∧
    (unit stuckCtx labTile).ctx? 0 0 = some stuckCtx ∧ stuckCtx.launch = 0 := by decide +kernel

/-- A command of the context of tile 0 to the field of partition 0, and a chain that waits for it. -/
def labCommand (k : SfKind) : SfCommand := ⟨40, ⟨0, 0, 0⟩, 0, 0, 0, k, 0, 1, 9, 7⟩

def labChain (k : SfKind) : SfChain :=
  { SfChain.single 5 with
    cells := [(0, ⟨false, false, 3, 0, [(1, -2)]⟩), (1, ⟨true, true, 0, 1, [(0, -2)]⟩)], waiting := [labCommand k] }

def sorrelState (h : SfChain) : State :=
  { unit tokenCtx labTile with hub := { Hub.reset with launches := [(0, Launch.plain)], owners := [(0, 0)], chains := [(0, h)] } }

theorem witness_chains : (let h := labChain (.write 16383 1 [true])
    let s := sorrelState h
    s.chainOf 0 = (0, h) ∧ s.chainOf (labCommand (.write 16383 1 [true])).part = (0, h) ∧ Table.find? s.hub.chains 0 = some h ∧
      h.waiting = [labCommand (.write 16383 1 [true])] ∧ (labCommand (.write 16383 1 [true])).arrive ≤ s.time ∧ h.sweep = none ∧ h.busy ≤ s.time ∧
      16383 + 1 ≤ 16384 * h.m ∧ 16384 * h.m < 16383 + 2 ∧ Table.sorted h.cells = true) ∧
    (let h : SfChain := { labChain (.query 0) with waiting := [], sweep := some ⟨labCommand (.sweep 1 256 2), 2, false, false⟩ }
     let s := sorrelState h
     s.chainOf 0 = (0, h) ∧ Table.find? s.hub.chains 0 = some h ∧ h.busy ≤ s.time ∧ h.entropy = false ∧ (1 : Nat) < 2 ∧ 2 ≤ 1 * 2) ∧
    (let s : State := { sorrelState (SfChain.single 5) with sfReplies := [⟨40, labCommand (.query 0), .value 7⟩] }
     s.findWho ⟨0, 0, 0⟩ = some (0, 0, tokenCtx) ∧ (s.sfReplies.filter fun r => decide (r.land ≤ s.time) && r.cmd.who == ⟨0, 0, 0⟩) =
       [⟨40, labCommand (.query 0), .value 7⟩] ∧ (labCommand (.query 0)).gd ≠ 0 ∧ Table.sorted tokenCtx.tokens = true ∧
       (s.mem.wf && s.code.wf) = true ∧ tokenCtx.stopping = none) := by decide +kernel

/-- R412: an image of one bit written to the last cell and to the first. -/
theorem test_sfWrite : (match exec (.sfCommandApply 0 0) (sorrelState (labChain (.write 0 1 [true]))) with
    | .next t => ((t.chainOf 0).2.cells.map fun x => x.2.state, t.sfReplies.map fun r => r.land)
    | _ => ([], [])) = ([true, true], [40 + (1 + 4) + 8]) := by decide +kernel

/-! ### The host -/

/-- Host memory with qwords at an address. -/
def hostMem (a : Nat) (l : List Word64) : Memory := Memory.writeN [] (hostKey a) (l.flatMap fun w => leBytes 8 w.toNat)

/-- A SIGNAL packet that adds 3 at 0x2000, with its completion record at 0x3000 and a completion signal at 0x2100. -/
def signalWords : List Word64 := [0x40001, 0x2000, 3, 2, 0, 0, 0x2100, 0x3000]

/-- Queue 0 of the PF whose slot read is under way. -/
def labQueue0 : HostQueue := { HostQueue.reset with base := 0x10000, enabled := true, notify := 16, shadow := 0x11000, reading := true }

def ringState (l : List Word64) : State :=
  { unit (pairCtx 1 2) labTile with
    mem := hostMem 0x10000 l, ids := 1, hub := { Hub.reset with launches := [(0, Launch.plain)], queues := [(0, labQueue0)] } }

/-- RingRule: an index in range, at its edge and past it; a slot that is valid, one that is not, and a packet that is malformed. -/
theorem witness_rings : (let h := (ringState signalWords).queue 0 0
    Table.sorted (ringState signalWords).hub.queues = true ∧ h.reading = true ∧ h.due = true ∧ (ringState signalWords).hub.recovery = false ∧
      ((16 : Word32) - h.rptr).toNat ≤ 2 ^ h.log ∧ 2 ^ h.log < ((17 : Word32) - h.rptr).toNat ∧ (15 : Word32) ≠ h.notify ∧
      ((ringState signalWords).hostWord h.slot).getLsbD 0 = true ∧ ((ringState []).hostWord h.slot).getLsbD 0 = false ∧
      hostKey h.slot + 8 ≤ hostKey h.shadow ∧
      (let p (l : List Word64) : Packet := ⟨0, 0, l, true, none, ⟨0, 0, 0, 0, 0, 0, 0, 0, 0⟩⟩
       h.taken = [] ∧ (ringState signalWords).packetWaits (p signalWords) = false ∧
         State.packetWaits { ringState signalWords with hub := { (ringState signalWords).hub with packets := [(0, p (signalWords.set 0 0x30001))] } }
           (p signalWords) = true ∧ (p signalWords).wellFormed = true ∧
         (p (signalWords.set 3 3)).wellFormed = false ∧ (p (signalWords.set 0 0x20001)).kind = 2)) ∧ (ringState signalWords).Canonical := by
  unfold State.Canonical
  decide +kernel

/-- R430: the valid bit of the slot goes, and QRPTR and its shadow advance. -/
theorem test_ring : (match exec (.ringSlotRead 0 0) (ringState signalWords) with
    | .next t => (t.hostWord 0x10000, t.hostWord 0x11000, (t.queue 0 0).rptr, t.agenda)
    | _ => (0, 0, 0, [])) = (0x40000, 1, 1, [.event (.signal 1)]) := by decide +kernel

/-- A kernel of one context without tables. -/
def labKernel : Kernel := ⟨0, 0, 8, 1, [], none, [], [], [], [], []⟩

/-- The package with packet 1, resident object 1 on partition 0, and host memory of qwords at 0x2000. -/
def packetState (l m : List Word64) : State :=
  { ringState [] with
    mem := hostMem 0x2000 m
    hub := { (ringState []).hub with
      packets := [(1, ⟨0, 0, l, true, none, ⟨0, 0, 0, 0, 0, 0, 0, 0, 0⟩⟩)], objects := [(1, ⟨[0], 0, false, 0, 2, [labKernel], [], false, [], 0⟩)] } }

/-- A LAUNCH of kernel 0 of object 1 on partition 0, and the same for a kernel that the object lacks. -/
def launchWords (kernel : Nat) : List Word64 := [0x10001, BitVec.ofNat 64 (1 + kernel * 2 ^ 32 + 8 * 2 ^ 48), 1, 0, 0x2000, 7, 0, 0x3000]

/-- PacketRule: launches that are accepted and refused; a service packet that is; a free channel and a busy one; each comparison met, and not met. -/
theorem witness_packets : (let p (l : List Word64) : Packet := ⟨0, 0, l, true, none, ⟨0, 0, 0, 0, 0, 0, 0, 0, 0⟩⟩
    let checks (l : List Word64) : Option Nat := match (packetState l []).checkLaunch 1 (p l) with
      | .ok _ => none
      | .error d => some d
    let service (k mask : Word64) : List Word64 := [0x10001, 0xFFFFFFFF + k * 2 ^ 32 + 48 * 2 ^ 48, mask, 0, 0x2000, 0, 0, 0]
    Table.find? (packetState (launchWords 0) []).hub.packets 1 = some (p (launchWords 0)) ∧ (p (launchWords 0)).object ≠ 0xFFFFFFFF ∧
      checks (launchWords 0) = none ∧ checks (launchWords 1) = some 0x1201 ∧ (p (service 0 1)).object = 0xFFFFFFFF ∧
      (packetState [] []).badService (p (service 1 1)) = none ∧ (packetState [] []).badService (p (service 2 1)) = some 0x1201 ∧
      ((((packetState [] []).tile 0).channels.getD 0 Channel.stopped).run).isNone = true ∧
      (((((chainState 0 []).tile 0).channels.getD 0 Channel.stopped).run).isNone) = false ∧
      (packetState [] [7]).hostWord 0x2000 = 7 ∧ (7 : Word64).toNat < (8 : Word64).toNat ∧
      (p signalWords).word 3 = 2 ∧ (hostKey 0x2100 + 8 ≤ hostKey 0x3000)) ∧ (packetState (launchWords 0) []).Canonical ∧
    Table.sorted (packetState (launchWords 0) []).hub.packets = true := by
  unfold State.Canonical
  decide +kernel

/-- R436: SIGNAL.add of 3 to 7. R437: its completion record's first qword, with its packet id of 0. -/
theorem test_signal : (match exec (.signal 1) (packetState signalWords [7]) with
    | .next t => t.hostWord 0x2000
    | _ => 0) = 10 ∧ (match exec (.packetCompletion 1) (packetState signalWords [7]) with
    | .next t => (t.hostWord 0x3000, t.hostWord 0x2100, t.hub.packets.length)
    | _ => (1, 0, 1)) = (0, BitVec.allOnes 64, 0) := by decide +kernel

/-- The package in cycle 64 without contexts, with a launch of four contexts that waits, or that has ended. -/
def waitingState (l : Launch) : State :=
  { State.reset with
    cycle := 64, time := 64, tiles := [(0, { Tile.reset with clock := 64 })], hub := { Hub.reset with
      launches := [(1, l)], packets := [(1, ⟨0, 0, launchWords 0, true, none, ⟨0, 0, 0, 0, 0, 0, 0, 0, 0⟩⟩)] } }

def waitingLaunch : Launch := { Launch.plain with packet := 1, start := none, contexts := 4, argBytes := 4096, argAddr := 0x2000, live := [] }

theorem witness_launches : Table.find? (waitingState waitingLaunch).hub.launches 1 = some waitingLaunch ∧ waitingLaunch.start = none ∧
    (waitingState waitingLaunch).mayStart waitingLaunch = true ∧ State.mayStart { waitingState waitingLaunch with cycle := 63 } waitingLaunch = false ∧
    (let places := (List.range waitingLaunch.tiles).filterMap fun k => (waitingLaunch.localTile k).map fun t => (k, t)
     (places.map (·.2)).Nodup ∧ ∀ x ∈ places, x.2 < 1152) ∧ waitingLaunch.contexts ≤ 4 ∧ waitingLaunch.argBytes ≤ 4096 ∧
    (let l : Launch := { waitingLaunch with start := some 0 }
     l.live = [] ∧ l.start.isSome = true ∧ (waitingState l).copying 1 = false ∧ Table.sorted (waitingState l).hub.launches = true ∧
       (Table.find? (waitingState l).hub.packets l.packet).isSome = true) ∧ (waitingState waitingLaunch).Canonical := by
  unfold State.Canonical
  decide +kernel

/-- R59, R335: the launch starts in cycle 64, with the context number in the place and g1 at the argument block. -/
theorem test_launchStart : (match exec (.launchStart 1) (waitingState { waitingLaunch with argBytes := 0, partitions := [(0, 0)] }) with
    | .next t => ((t.ctx? 0 3).map fun c => (c.num, c.pc, c.regs.csr.getD 0x71 0), (t.hub.launches.find? 1).bind (·.start))
    | _ => (none, none)) = (some (3, 0, 64), some 64) := by decide +kernel

/-- The window over the SRAM of tile 0. -/
def windowState (base : Word64) : State :=
  { unit (pairCtx 1 2) labTile with hub := { Hub.reset with launches := [(0, Launch.plain)], regs := [(0x30, base)] } }

/-- WindowRule: words that are open, one past the window, one whose home does not exist, one in a save area, and a misaligned one. -/
theorem witness_window : (let s := windowState 0x800000000000
    s.Canonical ∧ 0x2000 + 8 ≤ 2 ^ 34 ∧ s.badHome (s.windowHome 0x2000) 8 = none ∧ inSaveArea (s.windowHome 0x2000) 8 = false ∧
      s.homeRefuses none (s.windowHome 0x2000) 8 true true true = false ∧ s.poisoned (s.keyOf (s.windowHome 0x2000)) 8 = false ∧
      (s.windowHome 0x2000).space = 1 ∧ 2 ^ 34 < 2 ^ 34 - 7 + 8 ∧ (s.badHome (s.windowHome 0xFB000) 8).isSome = true ∧ 0x2000 % 8 = 0) ∧
    (let s : State := { windowState 0 with hub := { (windowState 0).hub with regs := [(0x30, 0x4000000000000), (0x4000, 0x8100)] } }
     s.isHere (s.windowHome 0x2000) = false ∧ s.badHome (s.windowHome 0x2000) 8 = none) ∧
    (let s : State := { windowState 0 with hub := { (windowState 0).hub with regs := [(0x28, 2), (0x30, 0x1800000000000)] } }
     (s.windowHome 0x2000).space = 3 ∧ (s.reg 0x28).getLsbD 1 = true ∧ (s.reg 0x28).getLsbD 0 = false) ∧
    inSaveArea ((windowState 0).windowHome 0x1FFE0000) 1 = true ∧ (windowState 0).badHome ((windowState 0).windowHome 0x1FFE0000) 1 = none := by
  unfold State.Canonical
  decide +kernel

/-- R422: FetchAdd of 5 to a word of 2^32 - 1 answers with it, and wraps. -/
theorem test_window : (match exec (.windowFetchadd 0x2000 4 5)
      { windowState 0x800000000000 with mem := Memory.writeN [] (sramKey 0 0x2000) (leBytes 4 0xFFFFFFFF) } with
    | .next t => (t.hub.answer, leNat (t.read (sramKey 0 0x2000) 8))
    | _ => ([], 0)) = ([0, 0xFF, 0xFF, 0xFF, 0xFF], 4) := by decide +kernel

/-- RegisterRule: a partition that is busy and one that is not; a launch that runs and none; an invalidation that is under way and none. -/
theorem witness_hostRegisters : (let s := windowState 0
    Table.sorted s.hub.regs = true ∧ s.busyPart 0 = true ∧ s.busyPart 63 = false ∧ (s.reg (0x300 + 8 * 63)).getLsbD 0 = false ∧ s.launching = true ∧
      State.reset.launching = false ∧ s.hub.recovery = false ∧ (s.reg 0x518).getLsbD 1 = false ∧ s.copies = []) ∧
    (State.reg { State.reset with hub := { Hub.reset with regs := [(0x518, 2)] } } 0x518).getLsbD 1 = true ∧ 0x10000 ≤ 0x10000 ∧
    Table.sorted (windowState 0).hub.queues = true ∧
    (let s := copyState { labCopy with dkind := 2, hand := some ([1], []) } labTile
     ∃ x ∈ s.copies, (x.2.dkind = 2 ∨ x.2.skind = 2) ∧ (x.2.hand.isSome = true ∨ x.2.reach.isSome = true ∨ x.2.held ≠ [])) := by decide +kernel

/-- R425: PWRLIMIT takes at most 2,300 W. R424: EVENT's bits clear by ones. -/
theorem test_registers : (match exec (.registerWrite 0 0 0x20 8 0xFFF) (windowState 0) with
    | .next t => t.reg 0x20
    | _ => 0) = 2300 ∧ (match exec (.registerWrite 0 0 0x38 8 0x02) { State.reset with hub := { Hub.reset with regs := [(0x38, 3)] } } with
    | .next t => t.reg 0x38
    | _ => 0) = 1 := by decide +kernel

/-- KillRule: a context of partition 0 whose launch has not ended, and its launch on that partition. -/
theorem witness_kill : Table.sorted (windowState 0).ctxs = true ∧ partOf (0 / 16) = 0 ∧ partOf (partTile 1 0) ≠ 0 ∧
    Table.find? (windowState 0).ctxs 0 = some (pairCtx 1 2) ∧ Table.find? (windowState 0).hub.launches 0 = some Launch.plain ∧
    Launch.plain.ending = none ∧ Launch.plain.here.contains (partOf (0 / 16)) = true := by decide +kernel

/-- A VF's UNLOAD and the PF's, of an object of the PF that a context holds, and that none holds. -/
def unloadState (fn : Nat) (args : List Word64) (pc : Nat) (leaving : Bool) : State :=
  { packetState [] args with
    ctxs := [(0, { pairCtx 1 2 with pc := pc })]
    hub := { (ringState []).hub with
      packets := [(1, ⟨fn, 0, [0x10001, 0x300001FFFFFFFF, 1, 0, 0x2000, 0, 0, 0], true, none, ⟨0, 0, 0, 0, 0, 0, 0, 0, 0⟩⟩)]
      objects := [(1, ⟨[0], 0, false, 0, 2, [labKernel], [], leaving, if leaving then [0] else [], 0⟩)] } }

theorem witness_unload : (let s := unloadState 0 [1, 0, 0, 0x4000, 64, 0] 0 false
    let p : Packet := ⟨0, 0, [0x10001, 0x300001FFFFFFFF, 1, 0, 0x2000, 0, 0, 0], true, none, ⟨0, 0, 0, 0, 0, 0, 0, 0, 0⟩⟩
    let o : CodeObject := ⟨[0], 0, false, 0, 2, [labKernel], [], false, [], 0⟩
    Table.find? s.hub.packets 1 = some p ∧ s.badServiceArgs p 1 = false ∧ s.serviceArg p 2 = 0 ∧ s.mayUnload p = some (1, o, [0]) ∧
      (s.mem.wf && s.code.wf) = true ∧ Table.sorted s.hub.objects = true ∧ s.serviceArg p 1 = 0 ∧ s.held 1 o [0] = true ∧
      (unloadState 0 [1, 0, 0, 0x4000, 64, 0] 8 false).held 1 o [0] = false ∧ (unloadState 0 [1, 1, 0, 0x4000, 64, 0] 8 false).serviceArg p 1 = 1 ∧
      (unloadState 0 [2, 0, 0, 0x4000, 64, 0] 8 false).mayUnload p = none ∧ (unloadState 1 [1, 1, 0, 0x4000, 64, 0] 8 false).mayUnload { p with fn := 1 } =
        some (1, o, [0]) ∧ (unloadState 0 [] 8 true).held 1 { o with leaving := true, going := [0] } [0] = false ∧ State.reset.hub.objects = []) := by decide +kernel

/-- R459: an unload of an object that a context holds marks it; it goes with its last holder. -/
theorem test_unload : (match exec (.unload 1) (unloadState 0 [1, 0, 0, 0x4000, 64, 0] 0 false) with
    | .next t => t.hub.objects.map fun x => x.2.leaving
    | _ => []) = [true] ∧ (match exec (.unloadPendingRemoval 1) (unloadState 0 [] 8 true) with
    | .next t => t.hub.objects.length
    | _ => 1) = 0 := by decide +kernel

/-! ### Pre-emption, debug and health -/

/-- A context that is to be taken, at a dispatch boundary. -/
def victim (save : Bool) : Ctx := { pairCtx 1 2 with take := some (!save) }

/-- A saved context, with its slot. -/
def savedState : State :=
  { unit (pairCtx 1 2) { labTile with slots := [(1, ⟨0, 0, true, false⟩)] } with ctxs := [(9, { pairCtx 1 2 with away := true })] }

/-- A launch that waits with priority 2, above the one that runs. -/
def waitsAbove : State :=
  { unit (pairCtx 1 2) labTile with hub := { Hub.reset with
      launches := [(0, Launch.plain), (1, { Launch.plain with packet := 1, start := none, contexts := 4, priority := 2, live := [] })] } }

theorem witness_preempt : (let s := unit (victim false) labTile
    Table.sorted s.ctxs = true ∧ s.ctx? 0 0 = some (victim false) ∧ (victim false).Ordered ∧ (victim false).atBoundary = true ∧
      (victim false).take = some true ∧ s.freePlace 0 [4, 5] = some 4 ∧
      State.freePlace { s with ctxs := [(0, victim false), (4, pairCtx 1 2), (5, pairCtx 1 2)] } 0 [4, 5] = none) ∧
    (let s := unit (victim true) labTile
     (victim true).take = some false ∧ (victim true).savable = true ∧ (s.tile 0).slotFor 0 0 = some 0 ∧ s.ctx? 0 (8 + 0) = none ∧
       Tile.slotFor { labTile with slots := [0, 1, 2, 3].map fun j => (j, (⟨7, j, true, false⟩ : SaveSlot)) } 0 0 = none) ∧
    (let s : State := { unit (pairCtx 1 2) labTile with ctxs := [(4, pairCtx 1 2)] }
     s.findWho ⟨0, 0, 0⟩ = some (0, 4, pairCtx 1 2) ∧ s.freePlace 0 [0, 1, 2, 3] = some 0) ∧
    ((savedState.findWho ⟨0, 0, 0⟩).map fun x => (x.1, x.2.1)) = some (0, 9) ∧ savedState.mayRestore 0 0 (pairCtx 1 2) = true ∧
    (let l : Launch := { Launch.plain with packet := 1, start := none, contexts := 4, priority := 2, live := [] }
     Table.find? waitsAbove.hub.launches 1 = some l ∧ (List.range l.tiles).filterMap l.localTile ≠ [] ∧
       ((waitsAbove.victims 0 l.priority).take (min (waitsAbove.shortOf 0 l.contexts) (waitsAbove.roomFor 0))).length = 1) := by
  unfold Ctx.Ordered RegFile.Ordered
  decide +kernel

/-- R141: the victim moves into the first parked partition. -/
theorem test_park : (match exec (.park 0 0) (unit (victim false) labTile) with
    | .next t => ((t.ctx? 0 0).isSome, (t.ctx? 0 4).map fun c => (c.away, c.take))
    | _ => (true, none)) = (false, some (true, none)) := by decide +kernel

/-- The debug path open, with a context that the debugger holds or does not. -/
def debugState (held : Bool) : State :=
  { unit { csrCtx [(0x13, 0x400)] with attached := true, heldByDebug := held } labTile with
    hub := { Hub.reset with launches := [(0, Launch.plain)], debugOpen := true } }

def heldCtx (held : Bool) : Ctx := { csrCtx [(0x13, 0x400)] with attached := true, heldByDebug := held }

/-- DebugContextRule: a context that is attached, held, and neither; a good record and a bad one. -/
theorem witness_debug : (debugState true).hub.debugOpen = true ∧ (debugState true).hub.debugWaits = false ∧ (debugState true).hub.recovery = false ∧
    (debugState true).ctx? 0 0 = some (heldCtx true) ∧ (heldCtx true).Ordered ∧ (heldCtx false).heldByDebug = false ∧ (heldCtx false).attached = true ∧
    (pairCtx 1 2).attached = false ∧ badRecord ((heldCtx true).regs.csr.getD 0x13 0) = false ∧
    badRecord ((csrCtx [(0x13, 0x401)]).regs.csr.getD 0x13 0) = true ∧ (heldCtx true).resume = none ∧
    (debugState true).findWho ⟨0, 0, 0⟩ = some (0, 0, heldCtx true) ∧ (List.replicate 0x2000 (0 : Byte)).length = 0x2000 ∧ (debugState true).Canonical := by
  unfold State.Canonical Ctx.Ordered RegFile.Ordered
  decide +kernel

/-- DebugMemoryRule: the last byte of each space and one past it; a code byte that no object holds; a trigger that is armed. -/
theorem witness_debugMemory : State.reset.hub.debugOpen = false ∧ 0xFFFFF + 1 ≤ 2 ^ 20 ∧ 0xFFFF + 1 ≤ 2 ^ 16 ∧ ¬ 0xFFFF + 2 ≤ 2 ^ 16 ∧
    0x1FFFFFFF + 1 ≤ 2 ^ 29 ∧ (debugState true).heldCode 0 0xFFFF 1 = false ∧ (unloadState 0 [] 0 false).heldCode 0 0 1 = true ∧
    (debugState true).hub.tagged = false ∧ (debugState true).hub.armed = true ∧ Table.sorted ((debugState true).tile 0).breaks = true ∧ 0 < 1152 ∧
    (debugState true).hub.probe = none ∧ State.reset.hub.debugWaits = false ∧ 64 ≤ 64 - (0xFFFC0 : Nat) % 64 ∧
    (debugState true).bankFree ⟨0, 1, 0, 0xFFFC0⟩ 64 ∧
    ¬ (unit (pairCtx 1 2) { labTile with lines := [0xFFFC0 / 64] }).bankFree ⟨0, 1, 0, 0xFFFC0⟩ 64 ∧
    (let s := unit (pairCtx 1 2) { labTile with vault := { Vault.reset with opened := [(31, 8191)] } }
     let bank := 0x1FFFFFC0 / 2 ^ 24
     bank = 31 ∧ Table.find? (s.vault 0).opened bank = some (0x1FFFFFC0 / 2 ^ 11 % 2 ^ 13) ∧ bank ∉ (s.vault 0).closing ∧
       (s.vault 0).busy.getD bank 0 ≤ s.time ∧ s.engineMay 0 .rd bank = true ∧ s.engineMay 0 .wr bank = true) := by
  unfold State.bankFree
  decide +kernel

/-- R476: a write of the code SRAM through the debug path, and a command while the path is closed. -/
theorem test_debugMemory : (match exec (.memwr 0 .code 0xFFFE [1, 2]) (debugState true) with
    | .next t => (t.hub.answer, t.code.readN (codeKey 0 0xFFFE) 2)
    | _ => ([], [])) = ([0], [1, 2]) ∧ (match exec (.snaprd) State.reset with
    | .next t => t.hub.answer
    | _ => []) = [1] := by decide +kernel

/-- HealthRule: a tile whose die has a spare, on a partition that is busy and on one that is not; steps of supply below and at five; a table that
fits and one that does not. -/
theorem witness_health : (let s := unit (pairCtx 1 2) labTile
    Table.sorted s.hub.remap = true ∧ s.physicalKey 0 ∉ s.hub.failed ∧ (s.physical 0).isSome = true ∧ (0 : Nat) ∉ s.hub.suspect ∧
      Table.getD s.hub.supply 0 0 < 5 ∧ 5 ≤ Table.getD ([(0, 5)] : Table Nat) 0 0 ∧ (0 : Nat) ∉ s.hub.moving ∧ s.busyPart (partOf 0) = true ∧
      s.busyPart (partOf 600) = false ∧ s.spare (dieOf 600) = some 288 ∧
      State.spare { s with hub := { s.hub with failed := (List.range 8).map fun k => 296 * 0 + 288 + k } } 0 = none ∧ s.launching = true ∧
      State.reset.launching = false) ∧
    (let entries : List (Option Nat) := (List.range 288).map fun k => some (287 - k)
     entries.length = 288 ∧ (entries.filterMap id).Nodup ∧ ∀ n, some n ∈ entries → n < 296) ∧
    (unit (pairCtx 1 2) labTile).ctx? 0 0 = some (pairCtx 1 2) ∧ Launch.plain.ending = none ∧
    (let s := State.reset
     Table.sorted s.tiles = true ∧ (s.mem.wf && s.code.wf) = true ∧ s.physical 5 = some 5 ∧ (List.range 288).all (fun k => s.physical k != some 5 || k == 5) = true ∧
       (((List.range 288).map fun k => some (287 - k)).getD 282 none : Option Nat) = some 5) ∧ partOf (5 : Nat) = 0 := by
  refine ⟨by decide +kernel, ?_, by decide +kernel⟩
  refine ⟨by decide +kernel, by decide +kernel, ?_⟩
  intro n h
  simp only [List.mem_map, List.mem_range] at h
  obtain ⟨k, -, hk⟩ := h
  have := Option.some.inj hk
  omega

/-- R10: under a table that reverses its die, what tile 5 held is tile 282's. R135: an uncorrectable word of g6 sets its poison bit. -/
theorem test_remap : (match exec (.remapTableWrite 0 ((List.range 288).map fun k => some (287 - k)))
      { State.reset with mem := [(sramKey 5 7, 9)], tiles := [(5, { Tile.reset with clock := 3 })] } with
    | .next t => (t.mem, t.tiles.map fun x => (x.1, x.2.clock), t.physical 282)
    | _ => ([], [], none)) = ([(sramKey 282 7, 9)], [(282, 3)], some 5) ∧
    (after (exec (.patrolScrub 0 (.g 0) 6 .uncorrectable) (unit (pairCtx 1 2) labTile))).map (·.regs.gPoison) = some 0x40 := by decide +kernel

/-- R483: the sixty-fifth correction within 10 ms makes a tile suspect. -/
theorem test_scrub : (let s := unit (pairCtx 1 2) labTile
    match exec (.patrolScrub 0 .sram 0 .corrected)
      { s with hub := { s.hub with health := List.replicate 64 (s.physicalKey 0, 0, 0, 40) } } with
    | .next t => (t.hub.suspect, t.hub.health.length)
    | _ => ([], 0)) = ([0], 65) := by decide +kernel

/-! ### The whole machine -/

/-- EncodeDecode: an instruction of each slot and a header. -/
theorem witness_encode : Instr.wf (.plainBundleWithLend ⟨0x38, 2, false, 2, 1⟩ 0x000C0600) = true ∧
    slotOf (.plainBundleWithLend ⟨0x38, 2, false, 2, 1⟩ 0x000C0600) = some 7 ∧ Instr.wf (.csrw 5 0x14) = true ∧ slotOf (.csrw 5 0x14) = some 0 ∧
    Instr.wf (.addi ⟨9, 9, 0x06A0, some 6⟩) = true ∧ slotOf (.addi ⟨9, 9, 0x06A0, some 6⟩) = some 1 ∧
    Instr.wf (.fma ⟨1, 0, 9, 15, 0, 0, 0, some 12⟩) = true ∧ slotOf (.fma ⟨1, 0, 9, 15, 0, 0, 0, some 12⟩) = some 3 ∧
    slotOf (.push 0 1 0 true) = some 4 ∧ slotOf (.rd ⟨1, 0, 8, 1, none⟩) = some 5 ∧ Instr.wf (.accw 19 26 0 1 1 2 true) = true ∧
    slotOf (.accw 19 26 0 1 1 2 true) = some 6 := by decide +kernel

/-- An object whose translated body is Cigon code: addi x5, x0, 7 with the bundle at 0 for it. -/
def cigonObject (w : Word32) : CodeObject :=
  { partitions := [0], fn := 0, trusted := false, origin := 0, syllables := 2, kernels := [labKernel], cigon := [⟨0, 0, w, 0, none⟩], leaving := false }

/-- The package with a context of that object at its first Cigon instruction, which has the dispatch. -/
def cigonState (w : Word32) : State :=
  { unit { pairCtx 1 2 with cigon := some (Cigon.start 0) } labTile with
    hub := { Hub.reset with launches := [(0, Launch.plain)], objects := [(0, cigonObject w)] }
    starts := [codeKey 0 0, codeKey 0 4], agenda := [.dispatch 0] }

/-- StepRunsInstruction: a Cigon context that has the dispatch. -/
theorem witness_cigonStep : (State.dispatchTurn { cigonState 0x00700293 with agenda := [] } 0).2 = some 0 ∧
    (((State.dispatchTurn { cigonState 0x00700293 with agenda := [] } 0).1.ctx? 0 0).bind (·.cigon)).isSome = true ∧
    (let s := unit (pairCtx 1 2) labTile
     s.vaultTurn 0 0 = 0 ∧ (Table.find? s.tiles 0).isSome = true ∧ (s.physical 0).isSome = true ∧ s.hub.halting = none) := by decide +kernel

/-- R462: addi x5, x0, 7 leaves 7 in x5, and the context goes on behind it. -/
theorem test_cigon_addi : ((State.cigonDispatch (cigonState 0x00700293) 0 0).ctx? 0 0).map (fun c => (c.regs.g.getD 5 0, c.cigon.map (·.pc))) =
    some (7, some 4) := by decide +kernel

/-- IssueAndEndSteps: a Cigon context at addi x5, x0, 7, before which nothing is raised; the word is the instruction, with its result. -/
theorem witness_cigonRule : (let s := cigonState 0x00700293
    (s.ctx? 0 0).any (fun c => (match c.cigon with
      | some g => decide (g.owed = .nothing) && decide (c.writes = []) && decide (c.poisonedX [0] = none) &&
          (s.cigonLine c g.pc).any fun l =>
            let c1 := { c with pc := l.addr, cigon := some g }
            decide ((s.putCtx 0 0 c1).beforeDispatch 0 c1 0 (l.addr + 4) = none)
      | none => false))) = true := by decide +kernel

theorem test_decode_cigon_addi : ∃ f, cigonOf 0x00700293 0 = some (.scalar (.calc 5 [0] 0 f)) ∧ ∀ m a, f m [a] = (a + 7, 0) :=
  ⟨_, rfl, fun _ _ => rfl⟩

/-- StepRunsInstruction: a word at an engine that is an instruction, and two that are refused; an event, a dispatch and a queue that the list names; an
empty list. -/
theorem witness_step : (let s (slot : Nat) (w : Word32) : State :=
      { lab slot (pairCtx 1 2) with engine := some { labIssued slot with q := { (labIssued slot).q with word := w } } }
    ((s 1 0x04418700).engine.map fun e => (decode e.q.slot e.q.lend e.q.word).toOption) = some (some (.add ⟨4, 6, 7, false, 0, 0⟩)) ∧
      goesOn (step (s 1 0x04418700)) = true ∧ goesOn (step (s 1 0x9C000000)) = true ∧ goesOn (step (s 3 0x00000001)) = true) ∧
    (let s : State := { labIssue with issuing := none, agenda := [.dispatch 0] }
     (s.dispatchTurn 0).2 = some 0 ∧ ((s.dispatchTurn 0).1.ctx? 0 0).isSome = true ∧
       ((s.dispatchTurn 0).1.ctx? 0 0).any (fun c => ((s.dispatchTurn 0).1.refusal c ((s.dispatchTurn 0).1.bundleAt 0 c.pc)).isNone) = true ∧
       (decodeHeader ((s.dispatchTurn 0).1.codeWord 0 0) ((s.dispatchTurn 0).1.codeWord 0 4)).toOption = some (.plainBundle ⟨0x20, 0, false, 0, 0⟩) ∧
       goesOn (step s) = true) ∧
    (lab 1 queuedCtx).ctx? 0 0 = some queuedCtx ∧ actsLast (.add ⟨4, 6, 7, false, 0, 0⟩) = false ∧ State.reset.agenda = [] := by decide +kernel

/-- R19: the first step after reset is the next package cycle. -/
theorem test_step_reset : (match step State.reset with
    | .next t => (t.cycle, t.time)
    | _ => (0, 0)) = (1, 1) := by decide +kernel

/-- StepKeepsMemory, StepKeepsRegisters and StepKeepsTables: states that meet them, the second with a context, from which a step goes on. -/
theorem witness_invariants : State.reset.Canonical ∧ goesOn (step State.reset) = true ∧ (lab 1 queuedCtx).Canonical ∧
    Table.sorted (lab 1 queuedCtx).ctxs = true ∧ queuedCtx.Ordered ∧ queuedCtx.regs.g.find? 0 = none ∧ queuedCtx.regs.p.getLsbD 0 = true ∧
    goesOn (step (lab 1 queuedCtx)) = true := by
  unfold State.Canonical Ctx.Ordered RegFile.Ordered
  decide +kernel

theorem witness_registers_kept : State.reset.Registers := by
  unfold State.Registers
  exact ⟨rfl, fun _ h => nomatch h⟩

theorem witness_tables_kept : State.reset.Tables := by
  unfold State.Tables
  exact ⟨rfl, (fun _ h => nomatch h), rfl, rfl, rfl, rfl, rfl, rfl, rfl⟩

/-- ResultVisibility: two whole writes of g4 that become visible in cycles 12 and 13, and two of one cycle from two bundles. -/
theorem witness_visibility : (let w (vis seq : Nat) (v : Vec) : RegWrite := ⟨.g 4, vis, vis, 0, seq, 1, BitVec.allOnes 2048, v, none⟩
    (pairCtx 1 2).Ordered ∧ (w 12 0 5).reg = (w 13 0 7).reg ∧ (w 12 0 5).reg.discards = false ∧ (∀ x ∈ (pairCtx 1 2).writes, x.reg ≠ .g 4) ∧
      (w 12 0 5).vis < (w 13 0 7).vis ∧ ((w 12 0 5).vis = (w 12 1 7).vis ∧ (w 12 0 5).seq < (w 12 1 7).seq)) := by
  unfold Ctx.Ordered RegFile.Ordered
  decide +kernel

/-- R52: of a MUL to g4 dispatched in cycle 10 and an ADD in cycle 11, the ADD is seen in 12 and the MUL from 13 on. -/
theorem test_visibility : (let c := ((pairCtx 1 2).resultG { (labIssued 1).q with disp := 10 } 3 4 20).resultG { (labIssued 1).q with disp := 11, seq := 1 } 1 4 3
    [11, 12, 13].map fun d => (c.regsAt d).g.getD 4 0) = [0, 3, 20] := by decide +kernel
end Sys2Proof.Tests
end

section
/-! SUPPORT. What a register reads of the results on their way to it (R51, R52), and the statement on two writes of one register.
The registers as of a cycle are the files with the visible results applied in the order of R52. For a register r only the results
of r count, so two whole writes of r, posted in either order, always stand there as the list of two that R52 orders. -/

namespace Sys2Proof

theorem table_sorted_set {α : Type} [DecidableEq α] (t : Table α) (n : Nat) (v d : α) (h : Table.sorted t = true) :
    Table.sorted (Table.set t n v d) = true := by
  unfold Table.set
  split
  · exact table_sorted_erase t n h
  · exact table_sorted_put t n v h

end Sys2Proof

namespace Sys2Proof.Machine

/-! ### One register of a file -/

theorem getLsbD_setBit_self {w : Nat} (v : BitVec w) (n : Nat) (b : Bool) :
    (setBit v n b).getLsbD n = (decide (n < w) && b) := by
  by_cases h : n < w
  · cases b <;> simp [setBit, h]
  · simp [h, BitVec.getLsbD_of_ge _ n (Nat.le_of_not_lt h)]

theorem getLsbD_setBit_other {w : Nat} (v : BitVec w) (n m : Nat) (b : Bool) (h : m ≠ n) :
    (setBit v n b).getLsbD m = v.getLsbD m := by
  by_cases hm : m < w
  · cases b <;> simp [setBit, hm, h]
  · simp [BitVec.getLsbD_of_ge _ m (Nat.le_of_not_lt hm)]

theorem put_ordered (f : RegFile) (r : Reg) (v : Vec) (hf : f.Ordered) : (f.put r v).Ordered := by
  obtain ⟨hg, hh, hv, hm, hz, hcsr⟩ := hf
  cases r with
  | g n => exact ⟨table_sorted_set _ _ _ _ hg, hh, hv, hm, hz, hcsr⟩
  | p n => exact ⟨hg, hh, hv, hm, hz, hcsr⟩
  | h n => exact ⟨hg, table_sorted_set _ _ _ _ hh, hv, hm, hz, hcsr⟩
  | v n => exact ⟨hg, hh, table_sorted_set _ _ _ _ hv, hm, hz, hcsr⟩
  | m n => exact ⟨hg, hh, hv, table_sorted_set _ _ _ _ hm, hz, hcsr⟩
  | z n => exact ⟨hg, hh, hv, hm, table_sorted_set _ _ _ _ hz, hcsr⟩
  | csr n => exact ⟨hg, hh, hv, hm, hz, table_sorted_set _ _ _ _ hcsr⟩

theorem setPoison_ordered (f : RegFile) (r : Reg) (b : Bool) (hf : f.Ordered) : (f.setPoison r b).Ordered := by
  cases r <;> exact hf

/-- What a register reads after it was replaced comes from the value alone, not from the file. -/
theorem get_put_self (f f' : RegFile) (r : Reg) (v : Vec) (hf : f.Ordered) (hf' : f'.Ordered) :
    (f.put r v).get r = (f'.put r v).get r := by
  obtain ⟨hg, hh, hv, hm, hz, hcsr⟩ := hf
  obtain ⟨hg', hh', hv', hm', hz', hcsr'⟩ := hf'
  cases r with
  | g n => simp only [RegFile.put, RegFile.get, table_getD_set_self _ _ _ _ hg, table_getD_set_self _ _ _ _ hg']
  | p n => simp only [RegFile.put, RegFile.get, getLsbD_setBit_self]
  | h n => simp only [RegFile.put, RegFile.get, table_getD_set_self _ _ _ _ hh, table_getD_set_self _ _ _ _ hh']
  | v n => simp only [RegFile.put, RegFile.get, table_getD_set_self _ _ _ _ hv, table_getD_set_self _ _ _ _ hv']
  | m n => simp only [RegFile.put, RegFile.get, table_getD_set_self _ _ _ _ hm, table_getD_set_self _ _ _ _ hm']
  | z n => simp only [RegFile.put, RegFile.get, table_getD_set_self _ _ _ _ hz, table_getD_set_self _ _ _ _ hz']
  | csr n => simp only [RegFile.put, RegFile.get, table_getD_set_self _ _ _ _ hcsr, table_getD_set_self _ _ _ _ hcsr']

theorem get_put_other (f : RegFile) (r r' : Reg) (v : Vec) (hf : f.Ordered) (hr : r' ≠ r) : (f.put r v).get r' = f.get r' := by
  obtain ⟨hg, hh, hv, hm, hz, hcsr⟩ := hf
  -- Registers of two different files do not meet, so only pairs of one file are left to show.
  cases r <;> cases r' <;> try rfl
  case g.g => simp only [RegFile.put, RegFile.get, table_getD_set_other _ _ _ _ _ hg fun e => hr (congrArg Reg.g e)]
  case p.p => simp only [RegFile.put, RegFile.get, getLsbD_setBit_other _ _ _ _ fun e => hr (congrArg Reg.p e)]
  case h.h => simp only [RegFile.put, RegFile.get, table_getD_set_other _ _ _ _ _ hh fun e => hr (congrArg Reg.h e)]
  case v.v => simp only [RegFile.put, RegFile.get, table_getD_set_other _ _ _ _ _ hv fun e => hr (congrArg Reg.v e)]
  case m.m => simp only [RegFile.put, RegFile.get, table_getD_set_other _ _ _ _ _ hm fun e => hr (congrArg Reg.m e)]
  case z.z => simp only [RegFile.put, RegFile.get, table_getD_set_other _ _ _ _ _ hz fun e => hr (congrArg Reg.z e)]
  case csr.csr => simp only [RegFile.put, RegFile.get, table_getD_set_other _ _ _ _ _ hcsr fun e => hr (congrArg Reg.csr e)]

@[simp] theorem get_setPoison (f : RegFile) (r r' : Reg) (b : Bool) : (f.setPoison r b).get r' = f.get r' := by
  cases r <;> rfl

/-! ### One result that becomes visible -/

theorem apply_ordered (f : RegFile) (w : RegWrite) (hf : f.Ordered) : (f.apply w).Ordered := by
  unfold RegFile.apply
  split
  · exact setPoison_ordered _ _ _ (put_ordered f _ _ hf)
  · exact put_ordered f _ _ hf

/-- The bits under the mask are replaced. -/
theorem get_apply (f : RegFile) (w : RegWrite) (r : Reg) :
    (f.apply w).get r = (f.put w.reg ((f.get w.reg &&& ~~~w.mask) ||| (w.val &&& w.mask))).get r := by
  unfold RegFile.apply
  split <;> simp

theorem get_apply_other (f : RegFile) (w : RegWrite) (r : Reg) (hf : f.Ordered) (hr : w.reg ≠ r) :
    (f.apply w).get r = f.get r := by
  rw [get_apply, get_put_other f w.reg r _ hf (Ne.symm hr)]

/-- A whole write leaves in its register what it writes. -/
theorem get_apply_whole (f f' : RegFile) (w : RegWrite) (hf : f.Ordered) (hf' : f'.Ordered) (hw : w.mask = BitVec.allOnes 2048) :
    (f.apply w).get w.reg = (f'.put w.reg w.val).get w.reg := by
  rw [get_apply, get_put_self f f' w.reg _ hf hf', hw, BitVec.not_allOnes, BitVec.and_zero, BitVec.zero_or, BitVec.and_allOnes]

theorem get_apply_congr (f f' : RegFile) (w : RegWrite) (hf : f.Ordered) (hf' : f'.Ordered) (h : f.get w.reg = f'.get w.reg) :
    (f.apply w).get w.reg = (f'.apply w).get w.reg := by
  rw [get_apply, get_apply, h, get_put_self f f' w.reg _ hf hf']

/-- Only the results of a register change what it reads. -/
theorem get_foldl_apply_filter (r : Reg) (l : List RegWrite) (f f' : RegFile) (hf : f.Ordered) (hf' : f'.Ordered)
    (h : f.get r = f'.get r) :
    (l.foldl RegFile.apply f).get r = ((l.filter fun w => w.reg == r).foldl RegFile.apply f').get r := by
  induction l generalizing f f' with
  | nil => exact h
  | cons w l ih =>
    by_cases hw : w.reg = r
    · subst hw
      simpa using ih _ _ (apply_ordered f w hf) (apply_ordered f' w hf') (get_apply_congr f f' w hf hf' h)
    · simpa [hw] using ih _ _ (apply_ordered f w hf) hf' ((get_apply_other f w r hf hw).trans h)

/-! ### The results in the order of R52 -/

theorem vis_le_of_before (a b : RegWrite) (h : a.before b = true) : a.vis ≤ b.vis := by
  simp only [RegWrite.before, Bool.or_eq_true, Bool.and_eq_true, decide_eq_true_eq, beq_iff_eq] at h
  omega

/-- In the order of R52 the visible results are all in front. -/
theorem takeWhile_visible (d : Nat) (l : List RegWrite) (h : l.Pairwise fun a b => a.before b = true) :
    (l.takeWhile fun w => w.vis ≤ d) = l.filter fun w => w.vis ≤ d := by
  induction l with
  | nil => rfl
  | cons w l ih =>
    obtain ⟨hw, hl⟩ := List.pairwise_cons.mp h
    by_cases hd : w.vis ≤ d
    · simp [hd, ih hl]
    · have hlate : ∀ x ∈ l, d < x.vis := fun x hx => by
        have := vis_le_of_before w x (hw x hx)
        omega
      simpa [hd] using hlate

/-- A result that nothing stands before goes to the front. -/
theorem insertWrite_front (w : RegWrite) (l : List RegWrite) (h : ∀ x ∈ l, x.before w = false) : insertWrite w l = w :: l := by
  cases l with
  | nil => rfl
  | cons x l => simp [insertWrite, h x List.mem_cons_self]

/-- Among the results of one register a new one takes its place in the order of R52. -/
theorem filter_insertWrite_self (w : RegWrite) (l : List RegWrite) (h : l.Pairwise fun a b => a.before b = true) :
    (insertWrite w l).filter (fun x => x.reg == w.reg) = insertWrite w (l.filter fun x => x.reg == w.reg) := by
  induction l with
  | nil => simp [insertWrite]
  | cons y l ih =>
    obtain ⟨hy, hl⟩ := List.pairwise_cons.mp h
    by_cases hyw : y.before w = true
    · by_cases hreg : y.reg = w.reg <;> simp [insertWrite, hyw, hreg, ih hl]
    · have hnone : ∀ x ∈ (y :: l).filter (fun x => x.reg == w.reg), x.before w = false := fun x hx => by
        rw [Bool.eq_false_iff]
        intro hxw
        rcases List.mem_cons.mp (List.mem_filter.mp hx).1 with rfl | hx
        · exact hyw hxw
        · exact hyw (before_trans y x w (hy x hx) hxw)
      rw [insertWrite_front w _ hnone]
      simp [insertWrite, hyw]

theorem filter_post_self (c : Ctx) (w : RegWrite) (hc : c.Ordered) (hw : w.reg.discards = false) :
    (c.post w).writes.filter (fun x => x.reg == w.reg) = insertWrite w (c.writes.filter fun x => x.reg == w.reg) := by
  simpa [Ctx.post, hw] using filter_insertWrite_self w c.writes hc.2

/-- R51: what a register reads as of a cycle: its visible results, in the order of R52, on what the file holds. -/
theorem get_regsAt (c : Ctx) (d : Nat) (r : Reg) (hc : c.Ordered) :
    (c.regsAt d).get r =
      (((c.writes.filter fun w => w.reg == r).filter fun w => w.vis ≤ d).foldl RegFile.apply c.regs).get r := by
  rw [Ctx.regsAt, takeWhile_visible d c.writes hc.2, get_foldl_apply_filter r _ c.regs c.regs hc.1 hc.1 rfl, List.filter_filter,
    List.filter_filter]
  simp only [Bool.and_comm]

/-! ### Two writes of one register -/

/-- R52: of two writes to one register the second prevails: it becomes visible later, or is of a later bundle, or of a later slot. -/
def RegWrite.Precedes (a b : RegWrite) : Prop :=
  a.vis < b.vis ∨ (a.vis = b.vis ∧ (a.seq < b.seq ∨ (a.seq = b.seq ∧ a.slot < b.slot)))

theorem before_of_precedes (a b : RegWrite) (h : a.Precedes b) : a.before b = true := by
  simp only [RegWrite.Precedes] at h
  simp only [RegWrite.before, Bool.or_eq_true, Bool.and_eq_true, decide_eq_true_eq, beq_iff_eq]
  omega

theorem not_before_of_precedes (a b : RegWrite) (h : a.Precedes b) : b.before a = false := by
  simp only [RegWrite.Precedes] at h
  rw [Bool.eq_false_iff]
  simp only [RegWrite.before, ne_eq, Bool.or_eq_true, Bool.and_eq_true, decide_eq_true_eq, beq_iff_eq]
  omega

/-- The write that prevails stands last, whichever was produced first. -/
theorem filter_post_post (c : Ctx) (a b : RegWrite) (hc : c.Ordered) (hab : a.reg = b.reg) (ha : a.reg.discards = false)
    (hnone : ∀ w ∈ c.writes, w.reg ≠ a.reg) (h : a.Precedes b) (x : Ctx) (hx : x = (c.post a).post b ∨ x = (c.post b).post a) :
    x.writes.filter (fun w => w.reg == a.reg) = [a, b] := by
  have hb : b.reg.discards = false := hab ▸ ha
  have hempty : c.writes.filter (fun w => w.reg == a.reg) = [] := by simpa using hnone
  rcases hx with rfl | rfl
  · rw [hab, filter_post_self _ b (post_ordered c a hc) hb, ← hab, filter_post_self c a hc ha, hempty]
    simp [insertWrite, before_of_precedes a b h]
  · rw [filter_post_self _ a (post_ordered c b hc) ha, hab, filter_post_self c b hc hb, ← hab, hempty]
    simp [insertWrite, not_before_of_precedes a b h]

theorem post_post_regs (c : Ctx) (a b : RegWrite) (x : Ctx) (hx : x = (c.post a).post b ∨ x = (c.post b).post a) :
    x.regs = c.regs := by
  rcases hx with rfl | rfl <;> simp

/-- R52: the register reads as of old before both writes, as the first alone leaves it before the second, and from then on as the
second leaves it. -/
theorem twoWrites_visible (c : Ctx) (a b : RegWrite) (d : Nat) (hc : c.Ordered) (hab : a.reg = b.reg)
    (ha : a.reg.discards = false) (hwa : a.mask = BitVec.allOnes 2048) (hwb : b.mask = BitVec.allOnes 2048)
    (hnone : ∀ w ∈ c.writes, w.reg ≠ a.reg) (h : a.Precedes b) (x : Ctx) (hx : x = (c.post a).post b ∨ x = (c.post b).post a) :
    (d < a.vis → (x.regsAt d).get a.reg = c.regs.get a.reg) ∧
    (a.vis ≤ d → d < b.vis → (x.regsAt d).get a.reg = (c.regs.put a.reg a.val).get a.reg) ∧
    (b.vis ≤ d → (x.regsAt d).get a.reg = (c.regs.put b.reg b.val).get b.reg) := by
  have hxo : x.Ordered := by
    rcases hx with rfl | rfl
    · exact post_ordered _ b (post_ordered c a hc)
    · exact post_ordered _ a (post_ordered c b hc)
  have hread : (x.regsAt d).get a.reg = (([a, b].filter fun w => w.vis ≤ d).foldl RegFile.apply c.regs).get a.reg := by
    rw [get_regsAt x d a.reg hxo, filter_post_post c a b hc hab ha hnone h x hx, post_post_regs c a b x hx]
  have hle : a.vis ≤ b.vis := vis_le_of_before a b (before_of_precedes a b h)
  rw [hread]
  refine ⟨fun hd => ?_, fun hda hdb => ?_, fun hd => ?_⟩
  · have hda : ¬ a.vis ≤ d := by omega
    have hdb : ¬ b.vis ≤ d := by omega
    simp [hda, hdb]
  · have hdb : ¬ b.vis ≤ d := by omega
    simpa [hda, hdb] using get_apply_whole c.regs c.regs a hc.1 hc.1 hwa
  · have hda : a.vis ≤ d := by omega
    simpa [hda, hd, hab] using get_apply_whole (c.regs.apply a) c.regs b (apply_ordered c.regs a hc.1) hc.1 hwb

/-! ### The example of R52 -/

/-- A result of a syllable in a g register below 32, which no rotating base moves (R46). -/
def gWrite (q : Queued) (latency n : Nat) (v : Word64) : RegWrite :=
  ⟨.g n, q.disp + latency, q.left + latency, q.held, q.seq, q.slot, BitVec.allOnes 2048, v.setWidth 2048, some false⟩

theorem resultG_eq_post (c : Ctx) (q : Queued) (latency : Nat) (n : BitVec 6) (v : Word64) (hn : n.toNat < 32) :
    c.resultG q latency n v = c.post (gWrite q latency n.toNat v) := by
  simp [Ctx.resultG, Ctx.result, gWrite, physG, hn]

theorem setWidth_injective_of_le {m n : Nat} (h : m ≤ n) (x y : BitVec m) (e : x.setWidth n = y.setWidth n) : x = y := by
  simpa [BitVec.setWidth_setWidth_of_le, h] using congrArg (BitVec.setWidth m) e

/-- A g register reads alike where its value in the file does. -/
theorem g_eq_of_get_eq (f f' : RegFile) (n : Nat) (h : f.get (.g n) = f'.get (.g n)) : f.g.getD n 0 = f'.g.getD n 0 :=
  setWidth_injective_of_le (by decide) _ _ h

theorem g_put_gWrite (f : RegFile) (q : Queued) (latency n : Nat) (v : Word64) (hf : f.Ordered) :
    ((f.put (.g n) (gWrite q latency n v).val).g).getD n 0 = v := by
  simp [RegFile.put, gWrite, table_getD_set_self _ _ _ _ hf.1]

/-- R52: a MUL to g4 dispatched at 10 and an ADD to g4 dispatched at 11. -/
theorem mulAdd_visible (c : Ctx) (mul add : Queued) (product sum : Word64) (hc : c.Ordered) (hmul : mul.disp = 10)
    (hadd : add.disp = 11) (hnone : ∀ w ∈ c.writes, w.reg ≠ .g 4) :
    let x := (c.resultG mul 3 4 product).resultG add 1 4 sum
    (∀ d, d < 12 → (x.regsAt d).g.getD 4 0 = c.regs.g.getD 4 0) ∧ (x.regsAt 12).g.getD 4 0 = sum ∧
      ∀ d, 13 ≤ d → (x.regsAt d).g.getD 4 0 = product := by
  intro x
  have hx : x = (c.post (gWrite mul 3 4 product)).post (gWrite add 1 4 sum) := by
    simp only [x, resultG_eq_post _ _ _ 4 _ (by decide)]
    rfl
  have hadd12 : (gWrite add 1 4 sum).vis = 12 := by simp [gWrite, hadd]
  have hmul13 : (gWrite mul 3 4 product).vis = 13 := by simp [gWrite, hmul]
  have hread := fun d => twoWrites_visible c (gWrite add 1 4 sum) (gWrite mul 3 4 product) d hc rfl rfl rfl rfl hnone
    (Or.inl (by omega)) x (Or.inr hx)
  rw [hadd12, hmul13] at hread
  refine ⟨fun d hd => ?_, ?_, fun d hd => ?_⟩
  · exact g_eq_of_get_eq _ _ 4 ((hread d).1 hd)
  · exact (g_eq_of_get_eq _ _ 4 ((hread 12).2.1 (by decide) (by decide))).trans (g_put_gWrite c.regs add 1 4 sum hc.1)
  · exact (g_eq_of_get_eq _ _ 4 ((hread d).2.2 hd)).trans (g_put_gWrite c.regs mul 3 4 product hc.1)

/-- Settles O60: of the results of one register only the order of R52 counts, so both orders of production read alike. -/
theorem resultVisibility : Obligations.ResultVisibility := by
  intro c hc
  refine ⟨fun a b d hab ha hwa hwb hnone h => ?_, fun mul add product sum hmul hadd hnone => ?_⟩
  · exact twoWrites_visible c a b d hc hab ha hwa hwb hnone h
  · exact mulAdd_visible c mul add product sum hc hmul hadd hnone

end Sys2Proof.Machine
end

section
/-! SUPPORT. The scalar pair (08_scalar): the statements on arithmetic and logic, on products and divisions, on fields and counts, and on
compares. A guarded form with clean sources leaves what its operation gives for the two values read (R3Ready); what remains of each
statement is that the operation of the model is the one that the manual names. -/

namespace Sys2Proof.Machine

/-! ### What a guarded register form leaves (R181, R182) -/

theorem g_of_clean (c : Ctx) (q : Queued) (n : BitVec 6) (h : c.CleanG q n) : c.g q n = .ok (c.gRaw q n) := by
  simp [Ctx.g, show c.gPoisoned q n = false from h]

theorem g_of_not_clean (c : Ctx) (q : Queued) (n : BitVec 6) (h : ¬ c.CleanG q n) : c.g q n = .error (poisonG n) := by
  have hp : c.gPoisoned q n = true := by simpa [Ctx.CleanG] using h
  simp [Ctx.g, hp]

/-- A syllable with the operands o is at its engine, under a true guard and with clean sources. -/
structure R3Ready (s : State) (e : Issued) (c : Ctx) (o : R3) : Prop where
  engine : s.AtEngine e c
  guard : guardHolds c e.q o.guard o.neg = true
  clean1 : c.CleanG e.q o.rs1
  clean2 : c.CleanG e.q o.rs2

section
variable {s : State} {e : Issued} {c : Ctx} {o : R3} {i : Instr}

/-- A form of execR3 leaves the result and the flags that its operation gives. -/
theorem R3Ready.flags {latency : Nat} {f : Word64 → Word64 → Word64 × Nat} {v : Word64} {m : Nat} (r : R3Ready s e c o)
    (hi : exec i s = execR3 latency o f s) (hf : f (c.gRaw e.q o.rs1) (c.gRaw e.q o.rs2) = (v, m)) :
    Completes i s e ((c.resultG e.q latency o.rd v).setFlags e.q latency csrFlagsS m) := by
  refine hi.trans (onCtx_ok s e c _ _ r.engine ?_)
  rw [r.guard, g_of_clean c e.q o.rs1 r.clean1, g_of_clean c e.q o.rs2 r.clean2]
  simp [bind, Except.bind, pure, Except.pure, hf]

/-- Without flags the result is all that such a form leaves. -/
theorem R3Ready.gives {latency : Nat} {f : Word64 → Word64 → Word64 × Nat} {v : Word64} (r : R3Ready s e c o)
    (hi : exec i s = execR3 latency o f s) (hf : f (c.gRaw e.q o.rs1) (c.gRaw e.q o.rs2) = (v, 0)) :
    Completes i s e (c.resultG e.q latency o.rd v) :=
  r.flags hi hf

/-- A form that also reads its destination (R190, R191). -/
theorem R3Ready.gives_withDest {f : Word64 → Word64 → Word64 → Word64} (r : R3Ready s e c o) (hd : c.CleanG e.q o.rd)
    (hi : exec i s = execR3D o f s) :
    Completes i s e (c.resultG e.q 1 o.rd (f (c.gRaw e.q o.rs1) (c.gRaw e.q o.rs2) (c.gRaw e.q o.rd))) := by
  refine hi.trans (onCtx_ok s e c _ _ r.engine ?_)
  rw [r.guard, g_of_clean c e.q o.rs1 r.clean1, g_of_clean c e.q o.rs2 r.clean2, g_of_clean c e.q o.rd hd]
  simp [bind, Except.bind, pure, Except.pure]

end

/-! ### ADD and SUB (R186) -/

theorem addSub_wrap (o : R3) (op : Word64 → Word64 → Word64) (exact : Int → Int → Int) (a b : Word64) (h : o.var = 0) :
    addSub o op exact a b = (op a b, 0) := by simp [addSub, h]

theorem addSub_narrow (o : R3) (op : Word64 → Word64 → Word64) (exact : Int → Int → Int) (a b : Word64) (h : o.var = 1) :
    addSub o op exact a b = (((op a b).setWidth 32).signExtend 64, 0) := by simp [addSub, h, sx32, lo32]

theorem addSub_saturating (o : R3) (op : Word64 → Word64 → Word64) (exact : Int → Int → Int) (a b : Word64) (h : o.var = 2) :
    addSub o op exact a b = sat64 (exact a.toInt b.toInt) := by simp [addSub, h]

theorem sat64_inside (v : Int) (hlo : -(2 ^ 63) ≤ v) (hhi : v < 2 ^ 63) : sat64 v = (BitVec.ofInt 64 v, 0) := by
  rw [sat64, if_neg (by omega), if_neg (by omega)]

theorem sat64_below (v : Int) (h : v < -(2 ^ 63)) : sat64 v = (0x8000000000000000, flagSaturated) := by
  rw [sat64, if_pos h]
  rfl

theorem sat64_above (v : Int) (h : 2 ^ 63 ≤ v) : sat64 v = (0x7FFFFFFFFFFFFFFF, flagSaturated) := by
  rw [sat64, if_neg (by omega), if_pos (by omega)]
  rfl

/-- R186: .sat leaves the exact result, or a bound of the signed range with SATURATED. -/
theorem R3Ready.clamps {s : State} {e : Issued} {c : Ctx} {o : R3} {i : Instr} {op : Word64 → Word64 → Word64} {exact : Int → Int → Int}
    (r : R3Ready s e c o) (hv : o.var = 2) (hi : exec i s = execR3 1 o (addSub o op exact) s) :
    let v := exact (c.gRaw e.q o.rs1).toInt (c.gRaw e.q o.rs2).toInt
    (-(2 ^ 63) ≤ v → v < 2 ^ 63 → Completes i s e (c.resultG e.q 1 o.rd (BitVec.ofInt 64 v))) ∧
    (v < -(2 ^ 63) → Completes i s e ((c.resultG e.q 1 o.rd 0x8000000000000000).setFlags e.q 1 0x48 1)) ∧
    (2 ^ 63 ≤ v → Completes i s e ((c.resultG e.q 1 o.rd 0x7FFFFFFFFFFFFFFF).setFlags e.q 1 0x48 1)) := by
  have hsat := addSub_saturating o op exact (c.gRaw e.q o.rs1) (c.gRaw e.q o.rs2) hv
  refine ⟨fun hlo hhi => ?_, fun hlo => ?_, fun hhi => ?_⟩
  · exact r.gives hi (hsat.trans (sat64_inside _ hlo hhi))
  · exact r.flags hi (hsat.trans (sat64_below _ hlo))
  · exact r.flags hi (hsat.trans (sat64_above _ hhi))

theorem addSubRule : AddSubRule := by
  intro s e c o he hg h1 h2
  have r : R3Ready s e c o := ⟨he, hg, h1, h2⟩
  refine ⟨fun hv => ⟨?_, ?_⟩, fun hv => ⟨?_, ?_⟩, fun hv => ⟨?_, ?_⟩⟩
  · exact r.gives rfl (addSub_wrap o _ _ _ _ hv)
  · exact r.gives rfl (addSub_wrap o _ _ _ _ hv)
  · exact r.gives rfl (addSub_narrow o _ _ _ _ hv)
  · exact r.gives rfl (addSub_narrow o _ _ _ _ hv)
  · exact r.clamps hv rfl
  · exact r.clamps hv rfl

/-! ### The minima and maxima (R186) -/

theorem byVariant_wide (o : R3) (wide narrow : Word64 → Word64 → Word64) (a b : Word64) (h : o.var = 0) :
    byVariant o wide narrow a b = (wide a b, 0) := by simp [byVariant, h]

theorem byVariant_narrow (o : R3) (wide narrow : Word64 → Word64 → Word64) (a b : Word64) (h : o.var = 1) :
    byVariant o wide narrow a b = (narrow a b, 0) := by simp [byVariant, h]

/-! The comparison picks the minimum or the maximum, which either extension keeps. -/

section
variable {w : Nat} (x y : BitVec w)

theorem signExtend_pick_le :
    (if decide (x.toInt ≤ y.toInt) = true then x else y).signExtend 64 = BitVec.ofInt 64 (min x.toInt y.toInt) := by
  rw [min_def, apply_ite (BitVec.signExtend 64), apply_ite (BitVec.ofInt 64)]
  simp only [decide_eq_true_eq, BitVec.signExtend]

theorem signExtend_pick_ge :
    (if decide (y.toInt ≤ x.toInt) = true then x else y).signExtend 64 = BitVec.ofInt 64 (max x.toInt y.toInt) := by
  rw [max_def', apply_ite (BitVec.signExtend 64), apply_ite (BitVec.ofInt 64)]
  simp only [decide_eq_true_eq, BitVec.signExtend]

theorem setWidth_pick_le :
    (if decide (x.toNat ≤ y.toNat) = true then x else y).setWidth 64 = BitVec.ofNat 64 (min x.toNat y.toNat) := by
  rw [min_def, apply_ite (BitVec.setWidth 64), apply_ite (BitVec.ofNat 64)]
  simp only [decide_eq_true_eq, BitVec.ofNat_toNat]

theorem setWidth_pick_ge :
    (if decide (y.toNat ≤ x.toNat) = true then x else y).setWidth 64 = BitVec.ofNat 64 (max x.toNat y.toNat) := by
  rw [max_def', apply_ite (BitVec.setWidth 64), apply_ite (BitVec.ofNat 64)]
  simp only [decide_eq_true_eq, BitVec.ofNat_toNat]

end

theorem logicRule : LogicRule := by
  intro s e c o he hg h1 h2 a b la lb gives
  have r : R3Ready s e c o := ⟨he, hg, h1, h2⟩
  refine ⟨r.gives rfl rfl, r.gives rfl rfl, r.gives rfl rfl, fun hv => ?_, fun hv => ?_⟩
  · have wide := fun f g => byVariant_wide o f g a b hv
    refine ⟨r.gives rfl ((wide _ _).trans ?_), r.gives rfl ((wide _ _).trans ?_), r.gives rfl ((wide _ _).trans ?_),
      r.gives rfl ((wide _ _).trans ?_)⟩
    · rw [← signExtend_pick_le, BitVec.signExtend_eq]
    · rw [← signExtend_pick_ge, BitVec.signExtend_eq]
    · rw [← setWidth_pick_le, BitVec.setWidth_eq]
    · rw [← setWidth_pick_ge, BitVec.setWidth_eq]
  · have narrow := fun f g => byVariant_narrow o f g a b hv
    refine ⟨r.gives rfl ((narrow _ _).trans ?_), r.gives rfl ((narrow _ _).trans ?_), r.gives rfl ((narrow _ _).trans ?_),
      r.gives rfl ((narrow _ _).trans ?_)⟩
    · rw [← signExtend_pick_le la lb, sx32, lo32, lo32]
    · rw [← signExtend_pick_ge la lb, sx32, lo32, lo32]
    · rw [← setWidth_pick_le la lb, zx32, lo32, lo32]
    · rw [← setWidth_pick_ge la lb, zx32, lo32, lo32]

/-- Settles O1: ADD and SUB by their variants, and every minimum or maximum as the operand that the comparison picks. -/
theorem arithmeticAndLogicResults : Obligations.ArithmeticAndLogicResults := ⟨addSubRule, logicRule⟩

/-! ### The products (R187) -/

theorem extract_high_ofInt (z : Int) : (BitVec.ofInt 128 z).extractLsb' 64 64 = BitVec.ofInt 64 (z / 2 ^ 64) := by
  apply BitVec.eq_of_toNat_eq
  rw [BitVec.extractLsb'_toNat, BitVec.toNat_ofInt, BitVec.toNat_ofInt, Nat.shiftRight_eq_div_pow]
  omega

theorem extract_high_ofNat (n : Nat) : (BitVec.ofNat 128 n).extractLsb' 64 64 = BitVec.ofNat 64 (n / 2 ^ 64) := by
  apply BitVec.eq_of_toNat_eq
  rw [BitVec.extractLsb'_toNat, BitVec.toNat_ofNat, BitVec.toNat_ofNat, Nat.shiftRight_eq_div_pow]
  omega

/-- MULH: the exact signed product, of which 128 bits keep every bit that counts. -/
theorem high_product_signed (a b : Word64) :
    BitVec.ofInt 64 (a.toInt * b.toInt / 2 ^ 64) = (a.signExtend 128 * b.signExtend 128 : BitVec 128).extractLsb' 64 64 := by
  rw [BitVec.signExtend, BitVec.signExtend, ← BitVec.ofInt_mul, extract_high_ofInt]

theorem high_product_unsigned (a b : Word64) :
    BitVec.ofNat 64 (a.toNat * b.toNat / 2 ^ 64) = (a.setWidth 128 * b.setWidth 128 : BitVec 128).extractLsb' 64 64 := by
  rw [← BitVec.ofNat_toNat, ← BitVec.ofNat_toNat, ← BitVec.ofNat_mul, extract_high_ofNat]

theorem multiplyRule : MultiplyRule := by
  intro s e c o he hg h1 h2 a b gives
  have r : R3Ready s e c o := ⟨he, hg, h1, h2⟩
  refine ⟨fun hv => ?_, fun hv => ?_, ?_, ?_⟩
  · exact r.gives rfl (byVariant_wide o _ _ a b hv)
  · exact r.gives rfl (byVariant_narrow o _ _ a b hv)
  · exact r.gives rfl (congrArg (·, 0) (high_product_signed a b))
  · exact r.gives rfl (congrArg (·, 0) (high_product_unsigned a b))

/-! ### The divisions (R188, Table 8.3a) -/

section
variable {w : Nat} (a b : BitVec w)

theorem divSigned_zero (h : b = 0) : divSigned a b = (BitVec.allOnes w, flagDivZero) := if_pos h

theorem divSigned_overflow (h : b ≠ 0) (ha : a = BitVec.intMin w) (hb : b = -1) : divSigned a b = (a, flagDivOverflow) := by
  rw [divSigned, if_neg h, if_pos ⟨ha, hb.trans BitVec.neg_one_eq_allOnes⟩]

theorem ofInt_tdiv_toInt : BitVec.ofInt w (a.toInt.tdiv b.toInt) = a.sdiv b :=
  BitVec.eq_of_toInt_eq (by rw [BitVec.toInt_ofInt, BitVec.toInt_sdiv])

theorem divSigned_sdiv (h : b ≠ 0) (ho : ¬ (a = BitVec.intMin w ∧ b = -1)) : divSigned a b = (a.sdiv b, 0) := by
  have hneg : ¬ (a = BitVec.intMin w ∧ b = BitVec.allOnes w) := fun hab => ho ⟨hab.1, hab.2.trans BitVec.neg_one_eq_allOnes.symm⟩
  rw [divSigned, if_neg h, if_neg hneg, ofInt_tdiv_toInt]

theorem divUnsigned_zero (h : b = 0) : divUnsigned a b = (BitVec.allOnes w, flagDivZero) := if_pos h

theorem divUnsigned_udiv (h : b ≠ 0) : divUnsigned a b = (a / b, 0) := by rw [divUnsigned, if_neg h, BitVec.udiv_def]

theorem remUnsigned_zero (h : b = 0) : remUnsigned a b = (a, flagDivZero) := if_pos h

theorem remUnsigned_umod (h : b ≠ 0) : remUnsigned a b = (a % b, 0) := by rw [remUnsigned, if_neg h, BitVec.umod_def]

end

/-- What a form in two widths gives, once the wide or the narrow operation is known. -/
theorem ite_wide {o : R3} {x y z : Word64 × Nat} (hv : o.var = 0) (hx : x = z) : (if o.var = 0 then x else y) = z :=
  (if_pos hv).trans hx

theorem ite_narrow {o : R3} {x : Word64 × Nat} {y : BitVec 32 × Nat} {ext : BitVec 32 → Word64} {v : BitVec 32} {m : Nat} (hv : o.var = 1)
    (hy : y = (v, m)) : (if o.var = 0 then x else (ext y.1, y.2)) = (ext v, m) := by
  rw [if_neg (by rw [hv]; decide), hy]

theorem divisionRule : DivisionRule := by
  intro s e c o he hg h1 h2 a b la lb gives flags
  have r : R3Ready s e c o := ⟨he, hg, h1, h2⟩
  refine ⟨fun hv hb => ⟨?_, ?_, ?_⟩, fun hv hb => ⟨fun ho => ?_, fun ha hb1 => ?_, ?_, ?_⟩, fun hv hb => ⟨?_, ?_, ?_⟩,
    fun hv hb => ⟨fun ho => ?_, fun ha hb1 => ?_, ?_, ?_⟩⟩
  · exact r.flags rfl (ite_wide hv (divSigned_zero a b hb))
  · exact r.flags rfl (ite_wide hv (divUnsigned_zero a b hb))
  · exact r.flags rfl (ite_wide hv (remUnsigned_zero a b hb))
  · exact r.gives rfl (ite_wide hv (divSigned_sdiv a b hb ho))
  · exact r.flags rfl (ite_wide hv (divSigned_overflow a b hb ha hb1))
  · exact r.gives rfl (ite_wide hv (divUnsigned_udiv a b hb))
  · exact r.gives rfl (ite_wide hv (remUnsigned_umod a b hb))
  · exact r.flags rfl (ite_narrow hv (divSigned_zero la lb hb))
  · exact r.flags rfl (ite_narrow hv (divUnsigned_zero la lb hb))
  · exact r.flags rfl (ite_narrow hv (remUnsigned_zero la lb hb))
  · exact r.gives rfl (ite_narrow hv (divSigned_sdiv la lb hb ho))
  · exact r.flags rfl (ite_narrow hv (divSigned_overflow la lb hb ha hb1))
  · exact r.gives rfl (ite_narrow hv (divUnsigned_udiv la lb hb))
  · exact r.gives rfl (ite_narrow hv (remUnsigned_umod la lb hb))

/-- Settles O2: the high half of a product commutes with the reduction to 128 bits, and a division is one of the rows of Table 8.3a. -/
theorem multiplyAndDivideResults : Obligations.MultiplyAndDivideResults := ⟨multiplyRule, divisionRule⟩

/-! ### Bit fields (R190) -/

theorem toNat_extractLsb'_eq_bitsOf (b : Word64) (lo n : Nat) : (b.extractLsb' lo n).toNat = bitsOf b.toNat lo n := by
  rw [BitVec.extractLsb'_toNat, Nat.shiftRight_eq_div_pow, bitsOf]

theorem signed_toNat {w : Nat} (x : BitVec w) : signed w x.toNat = x.toInt := by
  simp [signed, BitVec.toInt_eq_toNat_cond]

/-- BFX extends the field with zeros, BFX.s with its sign. -/
theorem R3Ready.bfx {s : State} {e : Issued} {c : Ctx} {o : R3} (r : R3Ready s e c o) :
    let a := c.gRaw e.q o.rs1
    let b := c.gRaw e.q o.rs2
    let field : BitVec (fieldWidth b) := a.extractLsb' (fieldPos b) (fieldWidth b)
    Completes (.bfx o) s e (c.resultG e.q 1 o.rd (if o.var = 1 then field.signExtend 64 else field.setWidth 64)) := by
  intro a b field
  have ht : a.toNat / 2 ^ fieldPos b % 2 ^ fieldWidth b = field.toNat := by
    rw [BitVec.extractLsb'_toNat, Nat.shiftRight_eq_div_pow]
  refine r.gives rfl (congrArg (·, 0) ?_)
  rw [ht, signed_toNat, BitVec.ofNat_toNat, BitVec.signExtend]

theorem fieldWidth_le (b : Word64) : fieldWidth b ≤ 64 := by
  have h : bitsOf b.toNat 8 6 < 2 ^ 6 := Nat.mod_lt _ (by decide)
  rw [fieldWidth]
  omega

/-- Bit by bit, a field extended to 64 bits. -/
theorem getLsbD_extended_field (a : Word64) (pos w j : Nat) (isSigned : Prop) [Decidable isSigned] (hw : 0 < w) (hj : j < 64) :
    (if isSigned then (a.extractLsb' pos w).signExtend 64 else (a.extractLsb' pos w).setWidth 64).getLsbD j =
      if j < w then a.getLsbD (pos + j) else decide isSigned && a.getLsbD (pos + w - 1) := by
  have hlast : pos + (w - 1) = pos + w - 1 := by omega
  have hin : w - 1 < w := by omega
  by_cases hs : isSigned
  · rw [if_pos hs, BitVec.getLsbD_signExtend, BitVec.msb_eq_getLsbD_last, BitVec.getLsbD_extractLsb', BitVec.getLsbD_extractLsb']
    by_cases hjw : j < w <;> simp [hs, hj, hjw, hin, hlast]
  · simp [hs, hj]

/-- The mask of BFI: the bits of its field. -/
theorem getLsbD_fieldMask (pos w j : Nat) :
    (BitVec.ofNat 64 ((2 ^ w - 1) * 2 ^ pos)).getLsbD j = decide (j < 64 ∧ pos ≤ j ∧ j < pos + w) := by
  rw [BitVec.getLsbD_ofNat, Nat.testBit_mul_two_pow, Nat.testBit_two_pow_sub_one, ← Bool.decide_and, ← Bool.decide_and]
  exact decide_eq_decide.mpr (by omega)

theorem getLsbD_insertField (a b d : Word64) (j : Nat) (hj : j < 64) : (insertField a b d).getLsbD j =
    if fieldPos b ≤ j ∧ j < fieldPos b + fieldWidth b then a.getLsbD (j - fieldPos b) else d.getLsbD j := by
  simp only [insertField, BitVec.getLsbD_or, BitVec.getLsbD_and, BitVec.getLsbD_not, BitVec.getLsbD_shiftLeft, getLsbD_fieldMask, hj,
    true_and]
  by_cases h : fieldPos b ≤ j ∧ j < fieldPos b + fieldWidth b
  · have hle : ¬ j < fieldPos b := by omega
    simp [h, hle]
  · simp [h]

/-! ### Funnel shifts (R191) -/

theorem funnel_left (a d : Word64) (n : Nat) (hn : n < 64) :
    (if n = 0 then d else (d <<< n) ||| (a >>> (64 - n))) = ((d ++ a : BitVec 128) <<< n).extractLsb' 64 64 := by
  apply BitVec.eq_of_getLsbD_eq
  intro j hj
  have hlow : 64 + j < 128 := by omega
  have hge : ¬ 64 + j < n := by omega
  simp only [BitVec.getLsbD_extractLsb', BitVec.getLsbD_shiftLeft, BitVec.getLsbD_append, hj, hlow, hge, decide_true, decide_false,
    Bool.not_false, Bool.true_and]
  by_cases h0 : n = 0
  · simp [h0]
  · rw [if_neg h0, BitVec.getLsbD_or, BitVec.getLsbD_shiftLeft, BitVec.getLsbD_ushiftRight]
    by_cases hjn : j < n
    · have hfrom : 64 + j - n = 64 - n + j := by omega
      have hin : 64 - n + j < 64 := by omega
      simp [hjn, hfrom, hin]
    · have hfrom : ¬ 64 + j - n < 64 := by omega
      have hout : a.getLsbD (64 - n + j) = false := BitVec.getLsbD_of_ge _ _ (by omega)
      have hsame : 64 + j - n - 64 = j - n := by omega
      simp [hj, hjn, hfrom, hsame, hout]

theorem funnel_right (a d : Word64) (n : Nat) (hn : n < 64) :
    (if n = 0 then d else (d >>> n) ||| (a <<< (64 - n))) = ((a ++ d : BitVec 128) >>> n).extractLsb' 0 64 := by
  apply BitVec.eq_of_getLsbD_eq
  intro j hj
  simp only [BitVec.getLsbD_extractLsb', BitVec.getLsbD_ushiftRight, BitVec.getLsbD_append, hj, decide_true, Bool.true_and, Nat.zero_add]
  by_cases h0 : n = 0
  · simp [h0, hj]
  · rw [if_neg h0, BitVec.getLsbD_or, BitVec.getLsbD_shiftLeft, BitVec.getLsbD_ushiftRight]
    by_cases hjn : n + j < 64
    · have hlow : j < 64 - n := by omega
      simp [hjn, hlow]
    · have hlow : ¬ j < 64 - n := by omega
      have hout : d.getLsbD (n + j) = false := BitVec.getLsbD_of_ge _ _ (by omega)
      have hsame : n + j - 64 = j - (64 - n) := by omega
      simp [hj, hjn, hlow, hout, hsame]

theorem fieldRule : FieldRule := by
  intro s e c o he hg h1 h2 a b d pos w n gives
  have r : R3Ready s e c o := ⟨he, hg, h1, h2⟩
  have hpos : pos = fieldPos b := toNat_extractLsb'_eq_bitsOf b 0 6
  have hw : w = fieldWidth b := congrArg (· + 1) (toNat_extractLsb'_eq_bitsOf b 8 6)
  have hn : b.toNat % 64 = n := by simp [n]
  have hn64 : n < 64 := BitVec.isLt _
  have hwle : w ≤ 64 := hw ▸ fieldWidth_le b
  refine ⟨⟨_, r.bfx, fun j hj => ?_, fun j hj hj64 => ?_⟩, fun hd => ⟨⟨_, r.gives_withDest hd rfl, fun j hj => ?_⟩, ?_, ?_⟩⟩
  · rw [← hw, ← hpos, getLsbD_extended_field a pos w j _ (by omega) (by omega), if_pos hj]
  · rw [← hw, ← hpos, getLsbD_extended_field a pos w j _ (by omega) hj64, if_neg (by omega)]
    rfl
  · rw [getLsbD_insertField a b d j hj, hpos, hw]
  · have h := r.gives_withDest (i := .fshl o) hd rfl
    rwa [hn, funnel_left a d n hn64] at h
  · have h := r.gives_withDest (i := .fshr o) hd rfl
    rwa [hn, funnel_right a d n hn64] at h

/-! ### Counts and BREV (R192) -/

/-- A form of execCount works on the low n bits of its source. -/
theorem R3Ready.count {s : State} {e : Issued} {c : Ctx} {o : R3} {i : Instr} {f : Nat → Nat → Nat} {n : Nat} (r : R3Ready s e c o)
    (hn : n = if o.var = 0 then 64 else 32) (hi : exec i s = execCount o f s) :
    Completes i s e (c.resultG e.q 1 o.rd (BitVec.ofNat 64 (f ((c.gRaw e.q o.rs1).setWidth n).toNat n))) := by
  refine r.gives hi (congrArg (fun v => (BitVec.ofNat 64 v, 0)) ?_)
  by_cases hv : o.var = 0
  · rw [if_pos hv] at hn ⊢
    rw [hn, BitVec.setWidth_eq]
  · rw [if_neg hv] at hn ⊢
    rw [hn, BitVec.toNat_setWidth]

theorem testBit_low (a : Word64) (n j : Nat) : (a.setWidth n).toNat.testBit j = (decide (j < n) && a.getLsbD j) := by
  rw [BitVec.testBit_toNat, BitVec.getLsbD_setWidth]

theorem popCount_low (a : Word64) (n : Nat) :
    popCount (a.setWidth n).toNat n = ((List.range n).filter fun j => a.getLsbD j).length := by
  refine congrArg List.length (List.filter_congr fun j hj => ?_)
  rw [testBit_low, decide_eq_true (List.mem_range.mp hj), Bool.true_and]

/-- How many of the first n numbers satisfy p before one that does not. -/
theorem length_takeWhile_range (p : Nat → Bool) (n : Nat) :
    let k := ((List.range n).takeWhile p).length
    k ≤ n ∧ (∀ j, j < k → p j = true) ∧ (k < n → p k = false) := by
  intro k
  have hle : (List.range n).findIdx (fun j => !p j) ≤ n := by simpa using List.findIdx_le_length (p := fun j => !p j) (xs := List.range n)
  have hk : k = (List.range n).findIdx fun j => !p j := by simpa [k, List.takeWhile_eq_take_findIdx_not] using hle
  refine ⟨hk ▸ hle, fun j hj => ?_, fun hkn => ?_⟩
  · have hp := List.not_of_lt_findIdx (hk ▸ hj)
    simpa using hp
  · have hend : (List.range n).findIdx (fun j => !p j) < (List.range n).length := by simpa [← hk] using hkn
    simpa [← hk] using List.findIdx_getElem (w := hend)

/-- The zero bits of a that come before a one, when the low n bits are visited in some order. -/
theorem zeros_before_one (a : Word64) (n : Nat) (place : Nat → Nat) (hplace : ∀ j, j < n → place j < n) :
    let k := ((List.range n).takeWhile fun i => !(a.setWidth n).toNat.testBit (place i)).length
    k ≤ n ∧ (∀ j, j < k → a.getLsbD (place j) = false) ∧ (k < n → a.getLsbD (place k) = true) := by
  intro k
  have hbit : ∀ j, j < n → (a.setWidth n).toNat.testBit (place j) = a.getLsbD (place j) := fun j hj => by
    rw [testBit_low, decide_eq_true (hplace j hj), Bool.true_and]
  obtain ⟨hle, hbelow, hat⟩ := length_takeWhile_range (fun i => !(a.setWidth n).toNat.testBit (place i)) n
  refine ⟨hle, fun j hj => ?_, fun hk => ?_⟩
  · rw [← hbit j (lt_of_lt_of_le hj hle)]
    simpa only [Bool.not_eq_true'] using hbelow j hj
  · rw [← hbit k hk]
    simpa only [Bool.not_eq_false'] using hat hk

theorem reverseBits_succ (v n : Nat) : reverseBits v (n + 1) = 2 * reverseBits v n + (v.testBit n).toNat := by
  rw [reverseBits, List.range_succ, List.foldl_append]
  cases h : v.testBit n <;> simp [reverseBits, h]

/-- Each bit taken shifts the reversed ones up by one. -/
theorem testBit_reverseBits (v n j : Nat) : (reverseBits v n).testBit j = (decide (j < n) && v.testBit (n - 1 - j)) := by
  induction n generalizing j with
  | zero => simp [reverseBits]
  | succ n ih =>
    rw [reverseBits_succ]
    cases j with
    | zero => cases h : v.testBit n <;> simp [Nat.testBit_zero, h]
    | succ j =>
      have hhalf : (2 * reverseBits v n + (v.testBit n).toNat) / 2 = reverseBits v n := by
        have := Bool.toNat_lt (v.testBit n)
        omega
      rw [Nat.testBit_succ, hhalf, ih]
      simp [Nat.sub_sub, Nat.add_comm 1 j]

theorem getLsbD_reverseBits_low (a : Word64) (n j : Nat) (hj : j < 64) :
    (BitVec.ofNat 64 (reverseBits (a.setWidth n).toNat n)).getLsbD j = (decide (j < n) && a.getLsbD (n - 1 - j)) := by
  rw [BitVec.getLsbD_ofNat, testBit_reverseBits, testBit_low, decide_eq_true hj, Bool.true_and]
  by_cases hjn : j < n
  · have hin : n - 1 - j < n := by omega
    simp [hjn, hin]
  · simp [hjn]

theorem countRule : CountRule := by
  intro s e c o he hg h1 h2 a n gives
  have r : R3Ready s e c o := ⟨he, hg, h1, h2⟩
  have hpop := r.count (n := n) (i := .popc o) rfl rfl
  rw [popCount_low] at hpop
  obtain ⟨hclz, hclzBelow, hclzAt⟩ := zeros_before_one a n (fun j => n - 1 - j) (fun j hj => by omega)
  obtain ⟨hctz, hctzBelow, hctzAt⟩ := zeros_before_one a n id (fun _ hj => hj)
  exact ⟨hpop, ⟨leadingZeros _ n, hclz, r.count rfl rfl, hclzBelow, hclzAt⟩,
    ⟨trailingZeros _ n, hctz, r.count rfl rfl, hctzBelow, hctzAt⟩, ⟨_, r.count (n := n) rfl rfl, getLsbD_reverseBits_low a n⟩⟩

/-- Settles O4: each result of a field, a funnel shift or a count by its bits. -/
theorem fieldAndCountResults : Obligations.FieldAndCountResults := ⟨fieldRule, countRule⟩

/-! ### Compares and SEL (R194, R195) -/

section
variable (a b : Word64)

theorem compare64_eq (u : Bool) : compare64 0 u a b = decide (a = b) := rfl

theorem compare64_ne (u : Bool) : compare64 1 u a b = decide (a ≠ b) := by
  simp [compare64, bne, beq_eq_decide]

theorem compare64_lt : compare64 2 false a b = decide (a.toInt < b.toInt) := rfl

theorem compare64_ge : compare64 3 false a b = decide (b.toInt ≤ a.toInt) := by
  simp [compare64, BitVec.slt, ← decide_not]

theorem compare64_ltu : compare64 2 true a b = decide (a.toNat < b.toNat) := rfl

theorem compare64_geu : compare64 3 true a b = decide (b.toNat ≤ a.toNat) := by
  simp [compare64, BitVec.ult, ← decide_not]

end

/-- Table 8.3, for whatever takes the outcome of a compare. -/
theorem table83 (give : Bool → Prop) (cond : BitVec 2) (u : Bool) (a b : Word64) (h : give (compare64 cond u a b)) :
    (cond = 0 → give (decide (a = b))) ∧ (cond = 1 → give (decide (a ≠ b))) ∧
    (cond = 2 → u = false → give (decide (a.toInt < b.toInt))) ∧ (cond = 3 → u = false → give (decide (b.toInt ≤ a.toInt))) ∧
    (cond = 2 → u = true → give (decide (a.toNat < b.toNat))) ∧ (cond = 3 → u = true → give (decide (b.toNat ≤ a.toNat))) := by
  refine ⟨fun hc => ?_, fun hc => ?_, fun hc hu => ?_, fun hc hu => ?_, fun hc hu => ?_, fun hc hu => ?_⟩
  · rwa [hc, compare64_eq] at h
  · rwa [hc, compare64_ne] at h
  · rwa [hc, hu, compare64_lt] at h
  · rwa [hc, hu, compare64_ge] at h
  · rwa [hc, hu, compare64_ltu] at h
  · rwa [hc, hu, compare64_geu] at h

section
variable {s : State} {e : Issued} {c : Ctx}

theorem R3Ready.cmp {o : R3} (r : R3Ready s e c o) : Completes (.cmp o) s e (c.resultP e.q 1 (o.rd.setWidth 5).toNat
    (compare64 o.var (o.rd.getLsbD 5) (c.gRaw e.q o.rs1) (c.gRaw e.q o.rs2))) := by
  change execCmp o s = _
  refine onCtx_ok s e c _ _ r.engine ?_
  rw [r.guard, g_of_clean c e.q o.rs1 r.clean1, g_of_clean c e.q o.rs2 r.clean2, BitVec.toNat_setWidth]
  rfl

theorem cmpi_completes (o : RI) (he : s.AtEngine e c) (h1 : c.CleanG e.q o.rs1) : Completes (.cmpi o) s e
    (c.resultP e.q 1 (o.rd.setWidth 5).toNat
      (compare64 (o.imm.extractLsb' 12 2) (o.rd.getLsbD 5) (c.gRaw e.q o.rs1) (imm20 (o.imm.extractLsb' 0 12) o.lend))) := by
  change execCmpi o s = _
  refine onCtx_ok s e c _ _ he ?_
  rw [g_of_clean c e.q o.rs1 h1, BitVec.toNat_setWidth, BitVec.setWidth_eq_extractLsb' (by decide)]
  rfl

/-- R195: SEL consumes the register that its guard selects, and no other. -/
theorem sel_completes (o : R3) (n : BitVec 6) (hn : (if guardHolds c e.q o.guard o.neg then o.rs1 else o.rs2) = n)
    (he : s.AtEngine e c) (h : c.CleanG e.q n) : Completes (.sel o) s e (c.resultG e.q 1 o.rd (c.gRaw e.q n)) := by
  change execSel o s = _
  refine onCtx_ok s e c _ _ he ?_
  rw [hn, g_of_clean c e.q n h]
  rfl

theorem sel_raises (o : R3) (n : BitVec 6) (hn : (if guardHolds c e.q o.guard o.neg then o.rs1 else o.rs2) = n)
    (he : s.AtEngine e c) (h : ¬ c.CleanG e.q n) : Raises (.sel o) s e c (poisonG n) := by
  change execSel o s = _
  refine onCtx_error s e c _ _ he ?_
  rw [hn, g_of_not_clean c e.q n h]
  rfl

end

/-- Settles O6: CMP and CMPI write the outcome of Table 8.3, SEL the register that its guard selects. -/
theorem compareSelectResults : Obligations.CompareSelectResults := by
  intro s e c he
  refine ⟨fun o hg h1 h2 => ?_, fun o h1 => ?_, fun o => ⟨fun h => ?_, fun h => ?_⟩⟩
  · exact table83 (fun v => Completes (.cmp o) s e (c.resultP e.q 1 (o.rd.setWidth 5).toNat v)) _ _ _ _
      (R3Ready.cmp ⟨he, hg, h1, h2⟩)
  · intro a i12 b cond gives
    have hb : imm20 i12 o.lend = b := by
      subst b
      cases o.lend <;> rfl
    exact table83 gives cond _ a b (hb ▸ cmpi_completes o he h1)
  · exact sel_completes o _ rfl he h
  · exact sel_raises o _ rfl he h

end Sys2Proof.Machine
end
